-- ==== Sys2Proof/Word.lean ====
section
/-! DEFINITION. The word types of the G4 and their plainest arithmetic. -/

namespace Sys2Proof

/-- A byte of memory (R4). -/
abbrev Byte := BitVec 8
/-- A strand register, a control register, an address (R16). -/
abbrev Word := BitVec 64
/-- A 32-bit lane, accumulator or pattern register (R128, R158). -/
abbrev Half := BitVec 32
/-- An 80-bit lane word (R37). -/
abbrev Lanes := BitVec 80
/-- An element row word (R26). -/
abbrev RowWord := BitVec 128
/-- Number of a scalar register (R16, R20). -/
abbrev SReg := BitVec 5
/-- Number of a predicate (R16). -/
abbrev PReg := BitVec 3
/-- Number of a token (R16). -/
abbrev TokIx := BitVec 3
/-- Number of a stream register (R16). -/
abbrev QReg := BitVec 4
/-- Number of a generator context (R128). -/
abbrev GReg := BitVec 2
/-- Number of a pattern register (R29). -/
abbrev XReg := BitVec 4
/-- Number of a region FIFO (R116). -/
abbrev FReg := BitVec 3

end Sys2Proof
end

