-- ==== Sys2Proof/Config.lean ====
section
/-! DEFINITION. What the Larsal G4 implementation fixes (R1, R2), the values fused in each part, and the free values:
opaque constants of which nothing in Lean can prove a value. -/

namespace Sys2Proof.Config

/-- Dies per package (R1). -/
def dies : Nat := 4
/-- Tiles built per die (R1, R308). -/
def tilesPerDie : Nat := 144
/-- Clusters per die (R14). -/
def clustersPerDie : Nat := 36
/-- Hub cores per die (R251). -/
def hubsPerDie : Nat := 4
/-- Copy engines per die (R89). -/
def copyEngines : Nat := 32
/-- Translation walkers per die (R42). -/
def walkers : Nat := 32
/-- Entries of a cluster translation buffer (R42). -/
def clusterTlb : Nat := 4096
/-- Entries of a die translation buffer (R42). -/
def dieTlb : Nat := 65536
/-- Die-buffer slices per die (R73). -/
def slicesPerDie : Nat := 240
/-- Populated bytes of a die's HBM4: three stacks of 48 decimal GB (R1, R4). -/
def hbmBytes : Nat := 144000000000
/-- Populated bytes of a die's LPDDR 6 (03, R4): 384 decimal GB. -/
def lpddrBytes : Nat := 384000000000
/-- Images of a die's map cache (R239). -/
def mapCacheImages : Nat := 512
/-- Package beats of 1.6 GHz in a reference tick of 5 ns (R5, R310). -/
def beatsPerTick : Nat := 8

/-- Rotation of the die at a package position: 0, 90, 180 and 270 degrees at positions 0 to 3 (01, R1, R307). -/
def rot (die : Nat) : Nat := die % 4
/-- CWMAP of a die, fused (R307). -/
opaque cwmap : Nat → Word
/-- PORTMAP of a die, fused (R307). -/
opaque portmap : Nat → Word
/-- CHMAP of a die, fused (R307). -/
opaque chmap : Nat → Word
/-- The fused latency table L(a, b), in beats (R312). -/
opaque latency : Nat → Nat → BitVec 8
/-- The result of the reset self-test of a tile: failing elements as (row, column) pairs (R348). -/
opaque resetTest : Nat → Nat → List (Nat × Nat)
/-- The firmware region that the boot ROM grants the hub cores, as (base, size) pairs of physical addresses (R79). -/
opaque fwRegion : List (Nat × Nat)
/-- The firmware images that the boot ROM finds: 0 the security hub's, 1 the hub cores'; the bytes of each (R362, R363). -/
opaque fwImage : Nat → List Byte
/-- The version of a firmware image (R362). -/
opaque fwVersion : Nat → Nat
/-- The RSA-3072 signature of a firmware image, and the modulus of the key that made it (R362). -/
opaque fwSignature : Nat → List Byte × List Byte
/-- The fused rollback counter (R362). -/
opaque rollback : Nat
/-- The boot ROM's bytes (R360). -/
opaque bootRom : List Byte
/-- The certificates of the device identity chain in slot 0 (R360). -/
opaque identityChain : List Byte
/-- Whether an RSASSA-PSS signature (bytes) of a message verifies under a modulus (bytes) (R361, R381). -/
opaque rsaVerify : List Byte → List Byte → List Byte → Bool
/-- The fused SHA-256 hash of a signing key: 0 the vendor key, 1 to 3 the owner keys (R381), 4 the operator key (R361). -/
opaque keyHash : Nat → List Byte
/-- The response of the security hub firmware to an SPDM request, out of what it reports (versions, algorithms, certificates, measurements): the
messages are the standard's, which the spec names and does not define (R360). -/
opaque spdmResponse : Nat → List (List Byte) → List Byte → List Byte
/-- The beats after power-on with which a die's raw milepost counter begins: the four are not known to be equal (R310). -/
opaque rawLag : Nat → Nat
/-- The ticks after power-on with which a die's tick count begins: the counts are not known to be aligned (R303). -/
opaque tickLag : Nat → Nat
/-- The selective IDE stream and the function that an SPDM exchange keys, if it does (IDE_KM, R359, R360). -/
opaque ideKeyed : List Byte → Option (Nat × Nat)
/-- The signature under the identity key of a SNAPSHOT response (R360, R361). -/
opaque identitySign : List Byte → List Byte
/-- Whether host memory backs an address (R38, R355): the device does not know the host's memory map. -/
opaque hostBacked : Nat → Bool
/-- Whether the grant of an owner in another package admits the requests of this one (R344): that package's own table. -/
opaque homeGrants : Nat → Nat → Bool
/-- Free values, one for each value of the state's counter: nonces, and the metered energy (R338, R356). -/
opaque freeBits : Nat → BitVec 256
/-- Which of two racing values a byte takes where the spec allows either (R94). -/
opaque freeChoice : Nat → Bool

end Sys2Proof.Config
end

