-- ==== Sys2Proof/Syntax.lean ====
section
/-! DEFINITION. The steps of the G4, one constructor of `Instr` for each row of spec/opcode_table.json: the strand
instructions (R18-R24), the pattern instructions (R29) and the events of the part. -/

namespace Sys2Proof

/-- The guard of a strand word: it executes when p[PG] XOR PN is 1 (R18). -/
structure Guard where
  pg : BitVec 3
  pn : Bool
  deriving DecidableEq, Repr

/-- Second source of an SR/SI instruction: register B, or the sign-extended immediate (R21). -/
inductive Src where
  | reg (b : SReg)
  | imm (v : BitVec 32)
  deriving DecidableEq, Repr

/-- Size, order, hint and scope of an SM instruction (R22). -/
structure SmOpt where
  size  : BitVec 2
  order : BitVec 2
  hint  : BitVec 2
  scope : BitVec 3
  deriving DecidableEq, Repr

/-- Number of the scope codes of R22: 1 TILE to 6 SYSTEM. -/
abbrev ScopeCode := BitVec 3

/-- An agent that issues strand instructions: strand `slot` of a tile, or a hub core of a die (R12, R16). -/
inductive Agent where
  | strand (die tile slot : Nat)
  | hub (die core : Nat)
  deriving DecidableEq, Repr

/-- A region is named by its controlling strand (R13). -/
structure RegionId where
  die  : Nat
  tile : Nat
  slot : Nat
  deriving DecidableEq, Repr

/-- One row word that the mapper has placed: element, schedule row, stage, the record's node (none for a relay) (R238). -/
structure PlacedWord where
  row   : Nat
  col   : Nat
  ctx   : Nat
  stage : Nat
  node  : Option Nat
  word  : RowWord
  deriving DecidableEq, Repr

/-- A map image: the placed words, the initiation interval in use and the relays placed (R238, R239). -/
structure MapImage where
  ii     : Nat
  fb     : Bool
  relays : Nat
  words  : List PlacedWord
  deriving DecidableEq, Repr

/-- A host access through a BAR: a read of so many bytes, or a write of bytes (R350, R351). -/
inductive HostAccess where
  | read (len : Nat)
  | write (bytes : List Byte)
  /-- an incoming AtomicOp, with its operand bytes (R349) -/
  | atomic (bytes : List Byte)
  deriving DecidableEq, Repr

/-- What a host configuration write names: an SR-IOV register of the physical function, a register of a function's configuration
header (R356), or a management register of the physical function's BAR0, by die and offset in the die's set (R349, R353). -/
inductive ConfigReg where
  | sriov (reg : Nat)
  | header (func reg : Nat)
  | management (die off : Nat)
  /-- system software hands 64 KiB frames of a tier of a die, by number, to its pool of free frames (R45) -/
  | freeFrames (die : Nat) (lpd : Bool) (frames : List Nat)
  /-- an access of the host to an offset of a function's BAR0 other than the writes that have steps of their own (R349, R350, R353) -/
  | bar0 (func off : Nat) (acc : HostAccess)
  deriving DecidableEq, Repr

/-- What a request from another package does at its home (R48). -/
inductive RemoteKind where
  | read (len : Nat)
  | write (bytes : List Byte)
  | atom (aop : BitVec 4) (size : Nat) (v : Word)
  | cas (size : Nat) (expect new : Word)
  deriving DecidableEq, Repr

/-- A request from another package: the package, its requester with the die on which that stands, the requester's sequence number, the owner,
whether it carries the NC hint, the physical address at its home and what it does there (R10, R46, R320). -/
structure RemoteReq where
  pkg       : Nat
  die       : Nat
  requester : Nat
  seq       : Nat
  owner     : Nat
  nc        : Bool
  pa        : Nat
  kind      : RemoteKind
  deriving DecidableEq, Repr

/-- A flit that a Swelin port receives: one whose CRC fails, one that carries a request, or any other (R320). -/
inductive Flit where
  | bad
  | other
  | request (r : RemoteReq)
  deriving DecidableEq, Repr

/-- The agents that stop after the halt line: a strand, the operation or run on a token, a stream (R341). -/
inductive StopAgent where
  | strand (a : Agent)
  | token (a : Agent) (t : Nat)
  deriving DecidableEq, Repr

/-- The outcome of a tile test: the failing elements as (row, column) pairs (R348). -/
abbrev FailMap := List (Nat × Nat)

/-- Where a storage error strikes (R74, R304, R305, R339). -/
inductive ErrSite where
  | word (loc : Nat)
  | element (r : RegionId) (row col : Nat)
  | noShadow (die tile : Nat)
  /-- the error is correctable: it is corrected, and counted where R304 counts it (R74) -/
  | corrected (site : ErrSite)
  deriving DecidableEq, Repr

/-- A placement chosen for an admission: for each rank-ordered logical tile of each die, its physical tile, and the
die-buffer slices (R328). -/
structure Placement where
  tiles  : List (Nat × Nat)
  slices : List (Nat × Nat)
  deriving DecidableEq, Repr

/-- The steps of the G4: one constructor per row of the opcode table, in the table's order. -/
inductive Instr where
  -- Strand control (R252-R271)
  | nop (g : Guard)
  | add (g : Guard) (d a : SReg) (b : Src)
  | sub (g : Guard) (d a : SReg) (b : Src)
  | mul (g : Guard) (d a : SReg) (b : Src)
  | mulh (g : Guard) (sgn : Bool) (d a : SReg) (b : Src)
  | div (g : Guard) (sgn : Bool) (d a : SReg) (b : Src)
  | rem (g : Guard) (sgn : Bool) (d a : SReg) (b : Src)
  | and (g : Guard) (d a : SReg) (b : Src)
  | or (g : Guard) (d a : SReg) (b : Src)
  | xor (g : Guard) (d a : SReg) (b : Src)
  | andn (g : Guard) (d a : SReg) (b : Src)
  | shl (g : Guard) (d a : SReg) (b : Src)
  | shr (g : Guard) (d a : SReg) (b : Src)
  | sar (g : Guard) (d a : SReg) (b : Src)
  | rot (g : Guard) (d a : SReg) (b : Src)
  | min (g : Guard) (sgn : Bool) (d a : SReg) (b : Src)
  | max (g : Guard) (sgn : Bool) (d a : SReg) (b : Src)
  | clz (g : Guard) (d a : SReg)
  | ctz (g : Guard) (d a : SReg)
  | bcnt (g : Guard) (d a : SReg)
  | sel (g : Guard) (d a b c : SReg)
  | ixa (g : Guard) (sh : BitVec 3) (d a : SReg) (b : Src)
  | bfx (g : Guard) (sgn : Bool) (d a : SReg) (pos : BitVec 6) (len : BitVec 7)
  | bfi (g : Guard) (d a : SReg) (pos : BitVec 6) (len : BitVec 7)
  | sext (g : Guard) (d a : SReg) (n : BitVec 7)
  | zext (g : Guard) (d a : SReg) (n : BitVec 7)
  | movi (g : Guard) (d : SReg) (imm : BitVec 32)
  | movh (g : Guard) (d : SReg) (imm : BitVec 32)
  | cmp (g : Guard) (cond : BitVec 3) (sgn : Bool) (d : PReg) (a : SReg) (b : Src)
  | plog (g : Guard) (op : BitVec 3) (d a b : PReg)
  | pmovGet (g : Guard) (d : SReg)
  | pmovSet (g : Guard) (a : SReg) (mask : BitVec 8)
  | pmovPred (g : Guard) (d : PReg) (v : Bool)
  | br (g : Guard) (off : BitVec 32)
  | call (g : Guard) (off : BitVec 32)
  | brx (g : Guard) (link : Bool) (a : SReg)
  | ret (g : Guard) (a : SReg)
  | loop (g : Guard) (d a : SReg) (last : BitVec 20)
  | loopBrk (g : Guard)
  | itnext (g : Guard) (d : SReg) (p : PReg)
  | yield (g : Guard)
  | halt (g : Guard)
  -- Memory (R49-R51, R83-R88)
  | ld (g : Guard) (o : SmOpt) (d a b : SReg) (off : BitVec 29)
  | st (g : Guard) (o : SmOpt) (d a b : SReg) (off : BitVec 29)
  | ld2 (g : Guard) (o : SmOpt) (d a b : SReg) (off : BitVec 29)
  | st2 (g : Guard) (o : SmOpt) (d a b : SReg) (off : BitVec 29)
  | atom (g : Guard) (o : SmOpt) (aop : BitVec 4) (d a b : SReg) (off : BitVec 25)
  | cas (g : Guard) (o : SmOpt) (d a b : SReg) (off : BitVec 29)
  | pref (g : Guard) (span : BitVec 2) (nc : Bool) (a b : SReg) (off : BitVec 29)
  | apcvRel (g : Guard) (space : BitVec 2) (d a : SReg)
  | apcvGen (g : Guard) (space : BitVec 2) (d a : SReg)
  | apin (g : Guard) (space : BitVec 2) (d : PReg) (a : SReg)
  -- Ordering and waiting (R110, R111, R285-R288)
  | fence (g : Guard) (pr pw sr sw : Bool) (scope : ScopeCode)
  | meetArrive (g : Guard) (scope : ScopeCode) (d : SReg) (slot : BitVec 4) (n : BitVec 16)
  | meetWait (g : Guard) (scope : ScopeCode) (a : SReg) (slot : BitVec 4)
  | meetAw (g : Guard) (scope : ScopeCode) (d : SReg) (slot : BitVec 4) (n : BitVec 16)
  | meetWaitComplete (u : Agent)
  | wait (g : Guard) (any : Bool) (d : PReg) (mask : BitVec 8)
  | waitComplete (u : Agent)
  | tokqGet (g : Guard) (d : SReg) (t : TokIx)
  | tokqAll (g : Guard) (d : SReg)
  | tokqClr (g : Guard) (t : TokIx)
  -- Copies, schedules, collectives (R99-R109)
  | cpy (g : Guard) (t : TokIx) (a : SReg) (off : BitVec 29)
  | cpys (g : Guard) (slot : BitVec 3) (a : SReg) (off : BitVec 29)
  | stage (g : Guard) (slot : BitVec 3) (inc : BitVec 8)
  | cpyx (g : Guard) (t : TokIx) (a : SReg) (off : BitVec 29)
  | coll (g : Guard) (t : TokIx) (a : SReg) (off : BitVec 29)
  -- Streams (R118)
  | qset (g : Guard) (q : QReg) (a : SReg) (off : BitVec 29)
  | qind (g : Guard) (zero : Bool) (q qa qb : QReg)
  | qindFeed (g : Guard) (zero : Bool) (q qa qb : QReg) (f : FReg) (t : TokIx)
  | qrd (g : Guard) (sx : Bool) (d : SReg) (q : QReg)
  | qposGet (g : Guard) (d : SReg) (q : QReg)
  | qposSet (g : Guard) (q : QReg) (b : SReg)
  | qflag (g : Guard) (d : PReg) (q : QReg) (k : BitVec 3)
  | qclr (g : Guard) (flush : Bool) (q : QReg)
  -- Irregular engines (R120)
  | merge (g : Guard) (comb : BitVec 3) (kz vfmt tof : Bool) (scope : ScopeCode) (t : TokIx) (a : SReg) (off : BitVec 29)
  | route (g : Guard) (scope : ScopeCode) (t : TokIx) (a : SReg) (off : BitVec 29)
  | hacc (g : Guard) (comb : BitVec 2) (vfmt : Bool) (scope : ScopeCode) (t : TokIx) (a : SReg) (off : BitVec 29)
  | hflush (g : Guard) (keep : Bool) (scope : ScopeCode) (t : TokIx) (a : SReg) (off : BitVec 29)
  -- Index generator (R136-R139)
  | gload (g : Guard) (x : GReg) (a : SReg) (off : BitVec 29)
  | grun (g : Guard) (scope : ScopeCode) (x : GReg) (b : SReg) (f : FReg) (t : TokIx)
  | grunT (g : Guard) (scope : ScopeCode) (x : GReg) (f : FReg) (t : TokIx)
  | ginv (g : Guard) (scope : ScopeCode) (x : GReg) (b a : SReg) (cap : BitVec 18) (t : TokIx)
  | gsave (g : Guard) (x : GReg) (a : SReg) (off : BitVec 29)
  | grest (g : Guard) (x : GReg) (a : SReg) (off : BitVec 29)
  -- Blocks (R246)
  | bload (g : Guard) (k : BitVec 2) (a : SReg) (off : BitVec 29)
  | brun (g : Guard) (scope : ScopeCode) (t : TokIx) (k : BitVec 2)
  | barg (g : Guard) (n : BitVec 6) (b : SReg)
  | bdrain (g : Guard)
  | bstat (g : Guard) (d : SReg) (sel : BitVec 2)
  | bkill (g : Guard)
  | bswap (g : Guard) (scope : ScopeCode) (t : TokIx) (mask : BitVec 4)
  | reform (g : Guard) (use : BitVec 4) (own : BitVec 8)
  -- Gears, time, dies (R292, R299, R303, R313-R315)
  | gear (g : Guard) (hi : Bool) (sp : BitVec 3)
  | spine (g : Guard) (sp : BitVec 3)
  | rvote (g : Guard) (d : SReg) (lv : BitVec 3)
  | rvoteOff (g : Guard) (d : SReg)
  | tick (g : Guard) (d : SReg)
  | realign (g : Guard) (d a : SReg)
  | tsend (g : Guard) (scope : ScopeCode) (t : TokIx) (a : SReg) (off : BitVec 29)
  | latq (g : Guard) (d a b : SReg)
  | latqNow (g : Guard) (d : SReg)
  | latqRaw (g : Guard) (d : SReg)
  -- Control registers and task control (R265-R272)
  | krd (g : Guard) (d : SReg) (idx : BitVec 12)
  | kwr (g : Guard) (idx : BitVec 12) (a : SReg)
  | trap (g : Guard) (code : BitVec 8)
  | tret (g : Guard)
  | ckpt (g : Guard) (d : PReg)
  | est (g : Guard) (a : SReg)
  | stopr (g : Guard) (d a : SReg) (off : BitVec 29)
  | idle (g : Guard) (a : SReg)
  | idleWake (die core : Nat)
  -- Effects of a KWR, selected by its register and the value it writes (R6, R272)
  | apbaseWrite (g : Guard) (space : BitVec 2) (a : SReg)
  | trkcfgWrite (g : Guard) (n : BitVec 4) (a : SReg)
  | trkstatStep (g : Guard) (n : BitVec 4) (a : SReg)
  | trkstatClr (g : Guard) (n : BitVec 4) (a : SReg)
  | schstatStop (g : Guard) (slot : BitVec 3) (a : SReg)
  | xinvOnePage (g : Guard) (a : SReg)
  | xinvOwner (g : Guard) (a : SReg)
  | xinvAll (g : Guard) (a : SReg)
  | shootdownAck (die unit : Nat)
  | swportClr (g : Guard) (port : BitVec 4) (a : SReg)
  | pctlResume (g : Guard) (a : SReg)
  | pctlKill (g : Guard) (a : SReg)
  -- Management commands of the physical function (R353, R354)
  | mcmdRefresh (die : Nat) (arg : BitVec 32)
  | mcmdQrefresh (die : Nat) (arg : BitVec 32)
  | mcmdRelease (die : Nat) (arg : BitVec 32)
  | mcmdRestart (die : Nat) (arg : BitVec 32)
  | mcmdDrainBudget (die : Nat) (arg : BitVec 32)
  | mcmdInvalid (die : Nat) (op : BitVec 8) (arg : BitVec 32)
  | hdoorWrite (die : Nat) (ring : BitVec 4)
  | doestatRsp (g : Guard) (a : SReg)
  | tdictlSelect (g : Guard) (a : SReg)
  | tdictlLock (g : Guard) (a : SReg)
  | tdictlReport (g : Guard) (a : SReg)
  | tdictlState (g : Guard) (a : SReg)
  | tdictlStart (g : Guard) (a : SReg)
  | tdictlStop (g : Guard) (a : SReg)
  | tdictlReserved (g : Guard) (a : SReg)
  -- Configuration ports and verification (R379, R381)
  | cfgStage (die tile : Nat)
  | cfgCommit (die tile : Nat)
  | cfgDiscard (die tile : Nat)
  | cfgInvalid (die tile : Nat)
  | verify
  -- Region cycles (R162)
  | advancingCycle (r : RegionId)
  | heldCycle (r : RegionId)
  | emptyCycle (r : RegionId)
  -- Pattern instructions (R131-R133)
  | pend
  | pset (d : XReg) (imm : BitVec 14)
  | pmov (d a : XReg)
  | padd (d a b : XReg)
  | paddi (d a : XReg) (imm : BitVec 14)
  | psub (d a b : XReg)
  | pmul (d a b : XReg)
  | pmuli (d a : XReg) (imm : BitVec 14)
  | pdivi (d a : XReg) (imm : BitVec 14)
  | pmodi (d a : XReg) (imm : BitVec 14)
  | pand (d a b : XReg)
  | pxor (d a b : XReg)
  | pshr (d a : XReg) (imm : BitVec 14)
  | pshl (d a : XReg) (imm : BitVec 14)
  | phash (d a b : XReg) (imm : BitVec 14)
  | pmin (d a b : XReg)
  | pmax (d a b : XReg)
  | ploop (d a : XReg) (imm : BitVec 14)
  | pbr (cond a b : XReg) (imm : BitVec 14)
  | pemit (a b : XReg)
  | pskip (cond a b : XReg)
  | pband (d a b : XReg)
  | pdil (d a b : XReg) (imm : BitVec 14)
  | pbdiag (d a : XReg) (imm : BitVec 14)
  | pkron (d a : XReg)
  | ptab (d a : XReg) (imm : BitVec 14)
  | pswap (d a : XReg)
  -- Generator events (R131, R137, R138)
  | coordinatePush (die tile gen : Nat)
  | genRunaway (die tile gen : Nat)
  | grunComplete (die tile gen : Nat)
  | ginvComplete (die tile gen : Nat)
  -- Watchdogs (R172, R173, R288)
  | holdWatchdogExpiry (r : RegionId)
  | waitWatchdogExpiry (u : Agent)
  | heldAccessWatchdogExpiry (i : Nat)
  | drainWatchdogExpiry (u : Agent) (q : Nat)
  | barrierTimeout (u : Agent)
  -- Edge units and block runs (R143, R156, R237-R241)
  | decodeLineRead (r : RegionId) (port : Nat)
  | encodeLineWrite (r : RegionId) (port : Nat)
  | anchorLoad (r : RegionId)
  | mapperResult (u : Agent) (res : Option MapImage)
  | mapperTimeout (u : Agent)
  | runStart (r : RegionId)
  | blockRunComplete (r : RegionId)
  | regionLendBegin (r : RegionId)
  -- Engines (R89, R99, R102, R109, R117, R120-R126)
  | copyEngineStart (die : Nat)
  | copyComplete (u : Agent) (t : Nat)
  | scheduleRelease (u : Agent) (slot : Nat)
  | collectiveComplete (u : Agent) (t : Nat)
  | feedPush (u : Agent) (q : Nat)
  | drainWrite (u : Agent) (q : Nat)
  | irregularOpStart (die tile engine : Nat)
  | mergeComplete (die tile : Nat)
  | routeComplete (die tile : Nat)
  | haccComplete (die tile : Nat)
  | hflushComplete (die tile : Nat)
  -- Timed sends and mileposts (R314, R316)
  | tsendArrive (u : Agent) (t : Nat)
  | tsendDeliver (die tile : Nat)
  | tsendComplete (u : Agent) (t : Nat)
  | milepostAlignment (u : Agent) (skew : List (BitVec 1))
  -- Memory system (R42-R48)
  | memoryAccessPerform (i : Nat)
  | walkComplete (die i : Nat)
  | accessCounterHalving (die : Nat)
  | migrationStart (owner : Nat) (va : Word) (frame : Nat)
  | migrationCas (i : Nat)
  | migrationAbortTimeout (i : Nat)
  | migrationUnlock (i : Nat)
  -- Links (R309, R319-R321, R355)
  | swelinFlitReceive (die port : Nat) (flit : Flit)
  | swelinPortTrained (die port : Nat) (lanes : BitVec 3) (peerPkg : BitVec 10) (peerPort : BitVec 4)
  | linkAckTimeout (i : Nat)
  | causewayDown (die edge : Nat)
  | hostCompletionTimeout (i : Nat)
  -- Host (R323, R350-R363, R383)
  | hostBar2Access (func : Nat) (off : Word) (acc : HostAccess)
  | hostPostingWrite (func page off : Nat) (bytes : List Byte)
  | launchCommit (func page off : Nat) (bytes : List Byte)
  | hostBarWriteOutside (func off : Nat)
  | hostConfigWrite (reg : ConfigReg) (value : Word)
  | ideStreamFailure (stream : Nat)
  | doeRequestArrive (bytes : List Byte)
  | doeRequestPresent
  | spdmRequest (bytes : List Byte)
  | spdmSnapshot (owner : Nat) (nonce : Word)
  | spdmReset (owner : Nat) (nonce : Word) (sig : List Byte)
  | powerOn
  | bringupComplete
  -- Self-test, trim, islands, gears (R290, R295-R304, R348)
  | idleSweep (die tile : Nat)
  | selfTestResult (die tile : Nat) (fails : FailMap)
  | trimWindowEnd (die cluster : Nat)
  | uncorrectableError (die cluster : Nat) (site : ErrSite)
  | trimFreezeExpiry (die cluster : Nat)
  | islandHoldoffExpiry (die cluster : Nat)
  | gearFabricStopped (die tile : Nat)
  | islandLevelReached (die tile : Nat)
  | spineClockStable (die tile : Nat)
  | gearDeferRelease (die tile : Nat)
  | packageStallHandshake
  | handshakeRelease (table : List (BitVec 3 × BitVec 16))
  | dutyWrite (r : RegionId) (pattern : BitVec 32)
  -- Scheduler (R326-R335, R340-R347)
  | schedulerTick
  | admission (die queue : Nat) (place : Placement)
  | preemptionDecision (die queue : Nat)
  | drainExpiry (task : Nat)
  | recallStart (die owner : Nat)
  | saveDeadlineExpiry (task : Nat)
  | contextSaveComplete (task : Nat)
  | killComplete (task : Nat)
  | taskRetire (task : Nat)
  | agentStop (x : StopAgent)
  | skidBoundExpiry (x : StopAgent)
  -- Further events (R168, R301, R309, R319, R353, R379)
  | causewayRestored (die edge : Nat)
  | swelinPortDown (die port : Nat)
  | argumentUpdateDelivered (r : RegionId)
  | islandCapChange (die cluster : Nat) (cap : BitVec 3)
  | mgmtCommandComplete (die : Nat)
  | configPortCommandDone (die tile : Nat)
  deriving DecidableEq, Repr

end Sys2Proof
end

