-- ==== Sys2Proof/Machine/State.lean ====
section
/-! DEFINITION. The state of the package as plain data: every piece of state the spec gives the machine (INVENTORY.md,
'## State'), and the state after reset. A table of units is a list of (unit number, contents) pairs; a unit that is not
listed has its reset contents. -/

namespace Sys2Proof.Machine

/-- Why a step stops for good. -/
inductive Fault where
  /-- Raised by `step` when State.cur names a unit that the part does not have. Safe: no run reaches it. -/
  | noSuchUnit
  deriving DecidableEq, Repr

/-- Why an instruction has no meaning. -/
inductive Refusal where
  /-- Answered by exec for an instruction that has no meaning yet. Safe. -/
  | notModelled (mnemonic : String)
  deriving DecidableEq, Repr

/-- A table of units by number. -/
abbrev Tab (α : Type) := List (Nat × α)

/-- Bytes of memory by location, strictly rising, no zero byte listed (see Machine/Mem.lean). -/
abbrev Memory := List Host.Cell

/-! ## Faults, tokens, loops, streams -/

/-- What a fault reports (R339, R341). -/
structure FaultInfo where
  cls    : Nat
  detail : Nat
  addr   : Word
  /-- the reporting die's tick count at the fault -/
  tick   : Word := 0
  info0  : Word := 0
  info1  : Word := 0
  info2  : Word := 0
  info3  : Word := 0
  /-- ECC: the storage is on a trimmed island (R305) -/
  trim   : Bool := false
  deriving DecidableEq, Repr

/-- Token states (R96). -/
inductive TokSt where
  | idle | busy | done | error
  deriving DecidableEq, Repr

/-- A token: its state and its TOKERR byte (R96, R98). -/
structure Token where
  st    : TokSt := .idle
  cause : BitVec 8 := 0
  deriving DecidableEq, Repr

/-- An entry of the strand's loop stack (R260). -/
structure LoopEntry where
  i    : Word
  n    : Word
  head : Word
  last : Word
  xreg : SReg
  deriving DecidableEq, Repr

/-- Mode of a stream register (R113). -/
inductive QMode where
  | unbound | read | feed | drain
  deriving DecidableEq, Repr

/-- The index stream of an indirect stream and its ZERO option (R119). -/
structure Indirect where
  zero : Bool
  qb   : QReg
  deriving DecidableEq, Repr

/-- A stream register (R113, R114, R119): descriptor, position n, flags, and the ticks a DRAIN has waited (R173). -/
structure Stream where
  mode  : QMode := .unbound
  esize : BitVec 2 := 0
  base  : Word := 0
  dims  : List (BitVec 32 × BitVec 32) := []
  n     : Nat := 0
  ends  : BitVec 5 := 0
  exh   : Bool := false
  fifo  : FReg := 0
  tok   : TokIx := 0
  ind   : Option Indirect := none
  ticks : Nat := 0
  deriving DecidableEq, Repr

/-- State of a schedule slot (R102, R103). -/
inductive SchSt where
  | idle | run | waittok | stopped | done
  deriving DecidableEq, Repr

/-- A schedule slot (R102). -/
structure SchSlot where
  st     : SchSt := .idle
  ctr    : Nat := 0
  cursor : Nat := 0
  count  : Nat := 0
  table  : Word := 0
  /-- the fault of a release and the entry's token, once known, until it is reported (R101) -/
  fault  : Option (FaultInfo × Option Nat) := none
  deriving DecidableEq, Repr

/-- What a stalled agent waits for (R249). -/
inductive Stall where
  | none
  /-- a memory access that is held or remote (R47, R48); entry of State.pend -/
  | access
  /-- WAIT in any or all mode (R110) -/
  | wait (any : Bool) (d : PReg) (mask : BitVec 8)
  /-- the wait part of MEET: scope, slot, phase (R287) -/
  | meet (scope : ScopeCode) (slot : Nat) (phase : BitVec 32)
  /-- BLOAD waits for the mapper (R246) -/
  | mapper
  /-- REFORM waits for the other strands (R245): USE, OWN, the arrivals before it -/
  | reform (use : BitVec 4) (own : BitVec 8) (arr : Nat)
  /-- a parked strand stands inside a REFORM (R245) -/
  | parked
  /-- GEAR or SPINE waits for its change (R294) -/
  | gear
  /-- IDLE with its tick deadline (R270) -/
  | idle (deadline : Word)
  /-- KWR to XINV_CMD waits for its shootdown (R44) -/
  | xinv
  /-- REALIGN waits for the alignment instant (R314): M, destination, raw instant, whether every die has applied its offset -/
  | realign (m : Word) (d : SReg) (at_ : Word) (done : Bool)
  /-- KWR of TDICTL STOP waits for the tasks of the VF to leave (R357) -/
  | tdiStop (vf : Nat)
  deriving DecidableEq, Repr

/-- Whether an agent runs (R249, R264). -/
inductive RunSt where
  | off | running | halted
  deriving DecidableEq, Repr

/-- The state of one strand or hub core (R16). s0 and p0 are read through Ops. -/
structure Ctx where
  run    : RunSt := .off
  pc     : Word := 0
  s      : Tab Word := []
  p      : BitVec 8 := 0
  q      : Tab Stream := []
  tok    : Tab Token := []
  loops  : List LoopEntry := []
  sch    : Tab SchSlot := []
  apTile : Word := 0
  apClus : Word := 0
  apDie  : Word := 1
  hashst : Word := 0
  stall  : Stall := .none
  ticks  : Nat := 0
  task   : Option Nat := none
  ltile  : Nat := 0
  fault  : Option FaultInfo := none
  stopped : Bool := false
  /-- MEET arrive-and-waits that have arrived, by PC, with the phase: one that is halted or left for a handler after its arrival performs
  only the wait when it goes on (R288) -/
  met    : Tab (BitVec 32) := []
  /-- barrier slots at which this strand has arrived, with the phase (R297) -/
  arrived : List (ScopeCode × Nat × BitVec 32) := []
  /-- frozen by ISOL or WATCHDOG (R344) -/
  frozen : Bool := false
  -- hub-core registers (R43, R271)
  htvec  : Word := 0
  hepc   : Word := 0
  hcause : Word := 0
  hfaddr : Word := 0
  hstat  : Bool := false
  /-- XINV_VA (R43): 0 at reset, and each hub core holds its own (DESIGN CHOICE, log entry 120) -/
  xinvVa : Word := 0
  deriving DecidableEq, Repr

/-! ## Engine operations -/

/-- What an engine operation does (R12), with the options of its instruction. -/
inductive OpKind where
  | copy | fill | xform | coll
  | merge (comb : BitVec 3) (kz vfmt tof : Bool)
  | route
  | hacc (comb : BitVec 2) (vfmt : Bool)
  | hflush (keep : Bool)
  | feed (q : QReg) | drain (q : QReg)
  | grun (g : GReg) | grunT (g : GReg) | ginv (g : GReg)
  | run
  | tsend
  deriving DecidableEq, Repr

/-- Progress of an engine operation. -/
inductive OpSt where
  /-- queued, in issue order (R89, R120) -/
  | queued (seq : Nat)
  /-- on an engine -/
  | started
  /-- a timed send that has reached the destination's timed buffer, or whose writes are done (R316) -/
  | arrived
  /-- a timed send whose data is written and whose flag is not -/
  | landed
  | written
  deriving DecidableEq, Repr

/-- An engine operation in progress: issuer, token, scope, descriptor, and the windows as they stood at issue (R77). -/
structure EngOp where
  kind   : OpKind
  st     : OpSt
  agent  : Agent
  tok    : TokIx
  scope  : ScopeCode
  desc   : BitVec 512
  apTile : Word
  apClus : Word
  apDie  : Word
  nc     : Bool := false
  fifo   : FReg := 0
  /-- for a schedule entry, nothing; for HACC, the first update to apply (R121) -/
  start  : Nat := 0
  /-- collective: the order number of this COLL on its group (R107) -/
  order  : Nat := 0
  /-- collective: P of its group; transformed copy: words consumed (R100, R107) -/
  num    : Nat := 0
  /-- transformed copy: words produced (R100) -/
  made   : Nat := 0
  /-- collective: ticks of waiting for the other ranks (R107) -/
  ticks  : Nat := 0
  /-- a timed send: the data read at issue (R316) -/
  data   : List Byte := []
  /-- its place in the order of issue (R89, R120) -/
  seq    : Nat := 0
  /-- a transformed copy: bytes that it has written, by location, as they were before: it never reads what it wrote (R275) -/
  own    : Tab Byte := []
  fault  : Option FaultInfo := none
  stopped : Bool := false
  frozen : Bool := false
  deriving DecidableEq, Repr

/-! ## Regions, elements, blocks -/

/-- An 80-bit value with its scale side-band (R158). -/
structure Val where
  w  : Lanes := 0
  sb : Byte := 0x7F
  deriving DecidableEq, Repr

/-- Who holds a FIFO's producer or consumer role (R116). -/
inductive Claim where
  | stream (a : Agent) (q : Nat)
  | gen (g : Nat)
  | merge (a : Agent) (t : Nat)
  | run
  deriving DecidableEq, Repr

/-- A region FIFO (R116): retained entries, then readable ones, then uncommitted ones (R243); entries reserved by rows
in flight (R163); the roles. -/
structure Fifo where
  entries   : List Val := []
  retained  : Nat := 0
  uncommitted : Nat := 0
  reserved  : Nat := 0
  producer  : Option Claim := none
  consumer  : Option Claim := none
  deriving DecidableEq, Repr

/-- An exact value m × 2^e, or a special, on its way into an accumulator or a float result. -/
inductive XNum where
  | fin (neg : Bool) (m : Nat) (e : Int)
  | inf (neg : Bool)
  | nan (neg : Bool)
  deriving DecidableEq, Repr

/-- A live carousel slot with its remaining lifetime in advancing cycles (R166). -/
structure CarSlot where
  v    : Val
  life : Nat
  deriving DecidableEq, Repr

/-- What a result in flight does when it completes (R188). -/
inductive Effect where
  /-- write a value to DST, carousel slots by physical number with LIFE (R166, R189) -/
  | write (dst : Nat) (phys life : Nat) (v : Val)
  /-- one float accumulation step (R184): the value V, FTZO -/
  | accFloat (k : Nat) (fresh : Bool) (v : XNum) (ftzo : Bool)
  /-- one integer accumulation step (R185): S, width L, SAT -/
  | accInt (k : Nat) (fresh : Bool) (s : Int) (l : Nat) (sat : BitVec 2)
  /-- tracker feed of AMAX and QNT (R220, R222): tracker, the two values, saturations and underflows to count -/
  | feed (trk : Nat) (v0 v1 : Half) (sat unf : Nat)
  /-- ANCH (R197): mode 0 word m, 1 shift, 2 all -/
  | anch (mode m : Nat) (v : Val)
  deriving DecidableEq, Repr

/-- A result in flight: remaining advancing cycles and its effect (R188). -/
structure InFlight where
  left : Nat
  eff  : Effect
  deriving DecidableEq, Repr

/-- One hairpin line: stages 0 to 15 and the input register (R167). -/
structure Hairpin where
  stages : Tab Val := []
  input  : Val := {}
  deriving DecidableEq, Repr

/-- The state of one element (R158). -/
structure Elem where
  acc    : Tab Half := []
  anchor : Tab Lanes := []
  asc    : Tab Byte := []
  o0     : Val := {}
  o1     : Val := {}
  car    : Tab CarSlot := []
  hair   : Tab Hairpin := []
  rsr    : Half := 1
  flight : List InFlight := []
  deriving DecidableEq, Repr

/-- Where a decode port stands before it reads a line (R141-R145): the tile step, the line, the position P of its first
element, the codes of a declared group that an earlier line has begun and not filled (code, format, scale; R148), and the
RSR stream (R170). -/
structure DecPos where
  step : Nat := 0
  line : Nat := 0
  pos  : Nat := 0
  part : List (Nat × Nat × Nat) := []
  rsr  : Half := 1
  deriving DecidableEq, Repr

/-- What a decode port makes of a lane word (R144, R148, R151): its value, the zero detector's mark, and what its conversion does when an
advancing cycle takes it: the flags, ROVF's increment, and where it leaves the RSR stream (R162, R170). -/
structure PortWord where
  v    : Val
  zero : Bool
  flg  : BitVec 5
  rovf : Nat
  rsr  : Half
  deriving DecidableEq, Repr

/-- A decoded lane word ready at a decode port: where the port stood before it read the line with the word's first code, and the word's index
among those that the port has made since. -/
structure ReadyWord where
  w    : PortWord
  src  : DecPos
  idx  : Nat
  deriving DecidableEq, Repr

/-- A decode port during a run (R141-R145): its binding, where it stands, the words ready, how many words of the next lines a restored port
leaves out because they were consumed before the waypoint (R157), where it stood before the line that began the group in progress, with the
words that the line gave before it, the bank words of its next line that it has read already (R150), and its RSR stream as the words taken have
left it (R170). -/
structure DecPort where
  bind  : Nat
  at_   : DecPos := {}
  skip  : Nat := 0
  org   : DecPos := {}
  orgNo : Nat := 0
  early : Tab (List Byte) := []
  words : List ReadyWord := []
  rsr   : Half := 1
  deriving DecidableEq, Repr

/-- A line that an encode port has assembled and not yet written (R153, R156). -/
structure EncLine where
  row  : Nat
  line : Nat
  bytes : List Byte
  deriving DecidableEq, Repr

/-- An encode port during a run (R153-R157): the values taken, those of the group being assembled, the tracker scale sampled
for it, the bytes of the line's completed groups, and the unwritten lines. -/
structure EncPort where
  bind  : Nat
  count : Nat := 0
  vals  : List Half := []
  scl   : Byte := 0x7F
  gbytes : List Byte := []
  lines : List EncLine := []
  deriving DecidableEq, Repr

/-- A loop level of a block (R232). -/
structure LoopLevel where
  fromArg : Bool
  argn    : Nat
  trips   : Nat
  deriving DecidableEq, Repr

/-- A binding of a block (R232, R236). -/
structure Binding where
  role : Nat
  fifo : Nat
  regB : SReg
  regG : SReg
  tlvl : Nat
  shp  : Nat
  lwb  : Nat
  edge : Word
  deriving DecidableEq, Repr

/-- A node of a block record (R232). -/
structure Node where
  pin  : Nat
  pcol : Nat
  prow : Nat
  cyc  : Nat
  pa   : Nat
  pb   : Nat
  pc   : Nat
  word : RowWord
  deriving DecidableEq, Repr

/-- An edge of a block record (R232). -/
structure Edge where
  opnd : Nat
  dist : Nat
  maxL : Nat
  minL : Nat
  dest : Nat
  orig : Nat
  deriving DecidableEq, Repr

/-- A preload entry (R232). -/
structure Preload where
  stage : Nat
  line  : Nat
  node  : Nat
  v     : Val
  deriving DecidableEq, Repr

/-- An image entry (R232). -/
structure ImageEntry where
  crc    : BitVec 32
  count  : Nat
  offset : Nat
  quads  : BitVec 4
  ltile  : Nat
  deriving DecidableEq, Repr

/-- A validated block record (R231, R232). -/
structure Block where
  hash   : Word := 0
  ii     : Nat := 1
  fbii   : Option Nat := none
  stages : Nat := 1
  qrows  : Nat := 1
  qcols  : Nat := 1
  wpl    : Option Nat := none
  /-- where the preload table lies in the record, and its entries -/
  opre   : Nat := 0
  npre   : Nat := 0
  greq   : Nat := 0
  img    : Bool := false
  hplen  : List Nat := [1, 1, 1, 1]
  shapes : List Word := []
  nodes  : List Node := []
  edges  : List Edge := []
  loops  : List LoopLevel := []
  binds  : List Binding := []
  args   : List (Nat × Nat) := []
  deriving DecidableEq, Repr

/-- An install slot: a block and its map image (R241). -/
structure Install where
  block : Block
  image : MapImage
  /-- address of the record, whose preload table is read at BRUN step 3 (R11) -/
  addr  : Word
  deriving DecidableEq, Repr

/-- One stage of a run: an ordinary run has one, a time-shared run two to four (R234, R241, R244). -/
structure Stage where
  slot   : Nat
  inst   : Install
  ii     : Nat
  stg    : Nat
  trips  : List Nat := []
  c      : Nat := 0
  j      : Nat := 0
  /-- innermost iterations that the run performs when BDRAIN has cut it short (R246) -/
  cut    : Option Nat := none
  /-- innermost iterations completed (R247) -/
  iter   : Nat := 0
  done   : Bool := false
  /-- views sampled at issue: base and geometry per binding (R236) -/
  views  : List (Word × Word) := []
  /-- CONST values given by arguments, by argument number (R168) -/
  consts : Tab Half := []
  /-- argument updates applied since the waypoint: the iteration that first has each, the argument, the value; a replay applies them again
  there (R168, R174, R242) -/
  upd    : List (Nat × Nat × Half) := []
  /-- anchor loads made, by binding (R237) -/
  anchors : Tab Nat := []
  wpcnt  : Nat := 0
  /-- what ZWORDS and ROVF have counted since the waypoint (R157, R370) -/
  zSince : Nat := 0
  rSince : Nat := 0
  /-- rewound while another stage is active: its live slots and results in flight are still in its shadow (R244) -/
  rewound : Bool := false
  deriving DecidableEq, Repr

/-- A block run, active or pending (R241). -/
structure Run where
  tok    : TokIx
  scope  : ScopeCode
  shared : Bool
  stages : List Stage
  act    : Nat := 0
  started : Bool := false
  draining : Bool := false
  apTile : Word
  apClus : Word
  apDie  : Word
  /-- bytes that the run has written, by location, as they were before: it never reads what it wrote (R275) -/
  own    : Tab Byte := []
  fault  : Option FaultInfo := none
  stopped : Bool := false
  deriving DecidableEq, Repr

/-- The waypoint shadow of a stage (R242, R244): every element of the region, the stage, the duty index, the stage's ports. -/
structure Shadow where
  elems   : Tab Elem
  stage   : Stage
  dutyIdx : Nat
  dec     : Tab DecPort
  enc     : Tab EncPort
  deriving DecidableEq, Repr

/-- The mapping that a BLOAD waits for (R238, R246): the slot, the block and the ticks waited. -/
structure Mapping where
  slot  : Nat
  block : Block
  addr  : Word
  ticks : Nat := 0
  deriving DecidableEq, Repr

/-- A region (R13, R14): its rectangle, storage, FIFOs, registers, install slots and runs. -/
structure Region where
  /-- quads by (tile, quad), row by row; their rectangle in quads -/
  quads  : List (Nat × Nat)
  qrows  : Nat
  qcols  : Nat
  fifos  : Tab Fifo := []
  numflg : BitVec 5 := 0
  zwords : BitVec 32 := 0
  rovf   : BitVec 32 := 0
  seed   : BitVec 32 := 1
  args   : Tab Half := []
  /-- a pending argument update: number, value, delivered (R168) -/
  argPend : Option (Nat × Half × Bool) := none
  slots  : Tab Install := []
  run    : Option Run := none
  pend   : Option Run := none
  mapping : Option Mapping := none
  duty   : BitVec 32 := 0xFFFFFFFF
  dutyNext : Option (BitVec 32) := none
  dutyIdx : Nat := 0
  holdTicks : Nat := 0
  heldNow : Bool := false
  /-- ticks since the last waypoint of the run (R305) -/
  sinceWp : Nat := 0
  hit    : Bool := false
  mapFb  : Bool := false
  relays : Nat := 0
  lent   : Option Nat := none
  lastIter : Nat := 0
  dec    : Tab DecPort := []
  enc    : Tab EncPort := []
  /-- the shadows of the run's stages, by stage number (R242, R244) -/
  shadows : Tab Shadow := []
  deriving DecidableEq, Repr

/-! ## Tiles -/

/-- A scale tracker (R68). -/
structure Tracker where
  satth  : BitVec 16 := 0xFFFF
  unfth  : BitVec 16 := 0xFFFF
  w      : BitVec 4 := 0
  tgt    : BitVec 4 := 0xB
  margin : BitVec 3 := 0
  auto   : Bool := false
  cur    : Half := 0
  window : List Half := []
  satcnt : Nat := 0
  unfcnt : Nat := 0
  stale  : Bool := false
  lastscl : Byte := 0x7F
  deriving DecidableEq, Repr

/-- State of a generator context (R128). -/
inductive GenSt where
  | empty | ready | run
  deriving DecidableEq, Repr

/-- An entry of a generator's loop stack (R132). -/
structure GenLoop where
  i    : Nat
  n    : Nat
  head : Nat
  last : Nat
  xreg : XReg
  deriving DecidableEq, Repr

/-- What the run of a generator context is for (R137, R138). -/
inductive GenRun where
  | none
  | push (a : Agent) (f : FReg) (t : TokIx)
  | transposed (a : Agent) (f : FReg) (t : TokIx) (k : Nat)
  | collect (a : Agent) (t : TokIx) (cap : Nat)
  deriving DecidableEq, Repr

/-- A generator context (R128). -/
structure Gen where
  st     : GenSt := .empty
  x      : Tab Half := []
  prog   : List Half := []
  kt0    : Word := 0
  kt1    : Word := 0
  nr     : Half := 0
  nc     : Half := 0
  pc     : Nat := 0
  loops  : List GenLoop := []
  emit   : Nat := 0
  clip   : Nat := 0
  steps  : Nat := 0
  walkAt : Word := 0
  wcnt   : Nat := 0
  walk   : Bool := false
  bad    : Word := 0
  /-- what the current run does with its coordinates -/
  mode   : GenRun := .none
  /-- coordinates of the word in progress that are not yet emitted (R131) -/
  todo   : List (Half × Half) := []
  /-- coordinates collected by GINV, in emission order (R138) -/
  got    : List (Half × Half) := []
  /-- the run has reached its end (R131) -/
  ended  : Bool := false
  /-- x0 to x15 as the current run began, for the restart of a GINV (R140) -/
  x0s    : Tab Half := []
  fault  : Option FaultInfo := none
  deriving DecidableEq, Repr

/-- State of a gear change (R295). -/
inductive GearSt where
  | run | quiesce | ramp | switch | settle
  deriving DecidableEq, Repr

/-- A gear or spine change: the strand that waits (none for the change by which a readmission restores a tile, R291), and its target
(R292-R297). -/
structure Change where
  slot : Option Nat
  /-- the gear it asks for; none asks for the gear that the tile then has -/
  gear : Option Bool
  spine : BitVec 3
  deriving DecidableEq, Repr

/-- The staging area of a configuration port (R379). -/
structure Staging where
  slot  : Nat
  quads : BitVec 4
  ii    : Nat
  words : List RowWord
  deriving DecidableEq, Repr

/-- The configuration port of a tile (R378, R379): the command word of the command in progress, its outcome, and the
staging. -/
structure CfgPort where
  cmd     : Option Word := none
  result  : Option (Nat × Nat × Nat) := none
  staging : Option Staging := none
  deriving DecidableEq, Repr

/-- A tile (R14). -/
structure Tile where
  st     : GearSt := .run
  defer  : Bool := false
  moved  : Bool := false
  g1ok   : Bool := false
  gear   : Bool := false
  spine  : BitVec 3 := 5
  /-- the rail and the spine that the tile draws on now, which SWITCH moves one after the other (R295) -/
  rail   : Bool := false
  mux    : BitVec 3 := 5
  change : List Change := []
  vote   : BitVec 3 := 0
  ven    : Bool := false
  itbase : Word := 0
  itcur  : BitVec 32 := 0
  /-- the strand slot that issued last (R249) -/
  last   : Nat := 3
  holder : Option Nat := none
  /-- the owner that lends the tile (R335) -/
  lent   : Option Nat := none
  /-- the owner that has recalled the tile and waits for it (R335) -/
  wanted : Option Nat := none
  cfg    : CfgPort := {}
  /-- sends held in the timed buffer: operation numbers in arrival order (R316) -/
  sends  : List Nat := []
  /-- a self-test is due at release: ECC detail 0x02 was reported while held (R348) -/
  suspect : Bool := false
  testing : Bool := false
  /-- the irregular engines that are frozen, by the SRC code of their operations (R344) -/
  dead    : List Nat := []
  deriving DecidableEq, Repr

/-! ## Dies -/

/-- A held translation: owner, page size code (0 64 KiB, 1 2 MiB, 2 1 GiB), virtual page, leaf entry (R42). -/
structure TlbEntry where
  owner : Nat
  size  : Nat
  vpage : Nat
  leaf  : Word
  deriving DecidableEq, Repr

/-- A walk in flight (R42, R51): owner, virtual address, the clusters to install into. -/
structure Walk where
  owner    : Nat
  va       : Word
  clusters : List Nat
  deriving DecidableEq, Repr

/-- A shootdown in progress: issuing core, KIND, OWNER, SIZE, VA, units still to acknowledge as (die, unit) (R43, R44). -/
structure Shoot where
  core  : Nat
  kind  : Nat
  owner : Nat
  size  : Nat
  va    : Word
  left  : List (Nat × Nat)
  deriving DecidableEq, Repr

/-- A frozen-master log entry (R344). -/
structure Frz where
  kind   : Nat
  id     : Nat
  ltile  : Nat
  detail : Nat
  wd     : Bool
  /-- the master itself, for its release -/
  master : Agent
  tok    : Option Nat
  /-- the engine of the master's tile, by the SRC code of its operations, of an irregular engine -/
  eng    : Nat
  deriving DecidableEq, Repr

/-- Trim state of an island (R304, R306). -/
structure Trim where
  cecnt : BitVec 16 := 0
  cetgt : BitVec 8 := 0x10
  trim  : Nat := 0
  lkg   : Nat := 0
  frz   : Bool := false
  frzleft : Nat := 0
  hadUnc : Bool := false
  /-- the windows that have ended -/
  wins   : Nat := 0
  deriving DecidableEq, Repr

/-- A fast-rail island (R289, R299-R301): level, CAP, hold-off ticks left. -/
structure Island where
  lvl  : BitVec 3 := 0
  cap  : BitVec 3 := 7
  hold : Nat := 0
  deriving DecidableEq, Repr

/-- Swelin port states (R319). -/
inductive PortSt where
  | down | train | up | degraded
  deriving DecidableEq, Repr

/-- A Swelin port (R319, R320). -/
structure SwPort where
  st      : PortSt := .down
  retry   : BitVec 16 := 0
  crcerr  : BitVec 16 := 0
  peerPkg : BitVec 10 := 0
  peerPort : BitVec 4 := 0
  lanes   : BitVec 3 := 0
  /-- consecutive failed replays of the flit in hand (R320) -/
  fails   : Nat := 0
  deriving DecidableEq, Repr

/-- An owner queue (R323, R350): its records in arrival order, the posting window, the drop counts. -/
structure Queue where
  recs    : List (BitVec 2048) := []
  window  : Tab Byte := []
  drop    : BitVec 32 := 0
  cpldrop : BitVec 16 := 0
  /-- SAVED tasks reinserted at the queue's head (R327) -/
  saved   : List Nat := []
  deriving DecidableEq, Repr

/-- A map-cache entry: HASH, region shape in quads, failed logical elements of the region, defect-map version; the image and the nodes that it
places (R239). -/
structure MapEntry where
  hash   : Word
  qrows  : Nat
  qcols  : Nat
  fails  : List (Nat × Nat)
  dmver  : Nat
  image  : MapImage
  nodes  : List Node
  deriving DecidableEq, Repr

/-- What the mapper has answered for a record and a region's shape, with no failed element: it answers the same again (R238). -/
structure MapAnswer where
  block  : Block
  qrows  : Nat
  qcols  : Nat
  result : Option MapImage
  deriving DecidableEq, Repr

/-- A die (R14). -/
structure Die where
  tick    : Word := 0
  raw     : Word := 0
  /-- beats and ticks until this die's counters begin: they begin at different times on different dies (R303, R310) -/
  rawLag  : Nat := 0
  tickLag : Nat := 0
  /-- copy-engine operations running and engines lost to freezing (R89, R344) -/
  lost    : Nat := 0
  ctlb    : Tab (List TlbEntry) := []
  dtlb    : List TlbEntry := []
  walks   : List Walk := []
  shoot   : Option Shoot := none
  lanehub : BitVec 4 := 0
  frz     : Tab Frz := []
  frzOvf  : Bool := false
  cache   : List MapEntry := []
  stop    : BitVec 4 := 0
  dblf    : BitVec 4 := 0
  rdy     : Bool := false
  err     : Bool := false
  busy    : Bool := false
  hdoor   : BitVec 4 := 0
  trims   : Tab Trim := []
  islands : Tab Island := []
  cwDown  : BitVec 2 := 0
  ports   : Tab SwPort := []
  swrt    : Word := 0
  dmver   : Word := 0
  failed  : List Nat := []
  spare   : Tab Nat := []
  queues  : Tab Queue := []
  defs    : Tab Int := []
  /-- the queue whose head has freed tiles reserved for it, and those tiles (R327) -/
  reserve : Option Nat := none
  kept    : List Nat := []
  sweepTicks : Nat := 0
  halveTicks : Nat := 0
  deriving DecidableEq, Repr

/-! ## Memory system -/

/-- What an access does at its home (R49, R85, R87). -/
inductive AccKind where
  | load (dst : SReg) (pair : Bool)
  | store (val : List Byte)
  | atom (aop : BitVec 4) (dst : SReg) (v : Word)
  | cas (dst : SReg) (expect new : Word)
  /-- an access that an engine operation (its token) or the instruction at the agent's PC performs itself once its home has answered -/
  | probe (tok : Option Nat)
  /-- the same of an access that the device makes for an owner, by the record that it is for (R355) -/
  | device (n : Nat)
  deriving DecidableEq, Repr

/-- An access that its agent has issued and its home has not performed: held by a migration, or remote (R47, R48). It keeps the owner, the
task and the windows of its issue. -/
structure Pending where
  agent : Agent
  kind  : AccKind
  addr  : Word
  size  : Nat
  len   : Nat
  nc    : Bool
  owner : Nat := 0
  task  : Option Nat := none
  apTile : Word := 0
  apClus : Word := 0
  apDie  : Word := 1
  /-- physical locations of its parts as (location, length); none once a migration has returned it (R47) -/
  parts : List (Nat × Nat)
  /-- sent to another die or package; to the host -/
  remote : Bool
  host  : Bool
  /-- its order annotation and scope (R279) -/
  ord    : BitVec 2 := 0
  scope  : BitVec 3 := 0
  /-- its task has left: it is performed, and nobody takes the result -/
  orphan : Bool := false
  /-- its instruction was abandoned: it is performed, and its values are discarded (R340) -/
  stale  : Bool := false
  /-- a probe that its home has answered, and the fault that the device takes in its stead (R355) -/
  answered : Bool := false
  failed : Option FaultInfo := none
  /-- the bytes that a probe is to write, for the retry buffer (R321) -/
  data   : List Byte := []
  /-- the PC of the instruction that made it -/
  pc     : Word := 0
  /-- its place in the order of arrival (R47) -/
  arr    : Nat := 0
  /-- ticks since it was sent; ticks that a migration has held it, but for those that R173 leaves out -/
  ticks  : Nat := 0
  heldTicks : Nat := 0
  deriving DecidableEq, Repr

/-- What this home answers to a request of another package: the bytes of an access performed, the fault class and detail of one refused, or its
return for another translation (R47, R320). -/
inductive RemoteAns where
  | done (bytes : List Byte)
  | fault (cls detail : Nat)
  | returned
  deriving DecidableEq, Repr

/-- The record of a request of another package, by requester and sequence number, with its answer (R320). -/
structure RemoteRec where
  pkg       : Nat
  requester : Nat
  seq       : Nat
  ans       : RemoteAns
  deriving DecidableEq, Repr

/-- Step of a migration (R47). -/
inductive MigStep where
  | copying | shooting (ok : Bool)
  deriving DecidableEq, Repr

/-- A page migration (R47). -/
structure Migration where
  owner : Nat
  va    : Word
  leafAt : Nat
  leaf  : Word
  size  : Nat
  old   : Nat
  new   : Nat
  die   : Nat
  step  : MigStep
  ticks : Nat
  /-- units still to acknowledge the shootdown of step 4 -/
  left  : List (Nat × Nat)
  deriving DecidableEq, Repr

/-! ## Tasks -/

/-- Task states (R332). -/
inductive TaskSt where
  | running | draining | saving | saved | killing | killed | retired | faulted
  deriving DecidableEq, Repr

/-- Why the halt line of a partition is up (R340). -/
inductive HaltWhy where
  | fault | save | kill
  deriving DecidableEq, Repr

/-- A stop record (R341). -/
abbrev StopRec := BitVec 512

/-- A barrier slot (R286). -/
structure Barrier where
  phase : BitVec 32 := 0
  count : BitVec 16 := 0
  n     : BitVec 16 := 0
  deriving DecidableEq, Repr

/-- The context that a save keeps beside the bytes of the context area (R345-R347). -/
structure SavedCtx where
  ctxs    : List (Nat × Ctx)
  regions : List (Nat × Region)
  gens    : List (Nat × Gen)
  trks    : List (Nat × Tracker)
  elems   : List (Nat × Elem)
  tiles   : List (Nat × Tile)
  ops     : List (Nat × EngOp)
  bufs    : List (Nat × Byte)
  poison  : List Nat
  trimPoison : List Nat
  visible : List (Nat × Word)
  deriving DecidableEq, Repr

/-- A task (R13, R324, R332). -/
structure Task where
  st      : TaskSt
  lrec    : BitVec 2048
  owner   : Nat
  die     : Nat
  queue   : Nat
  /-- logical tiles of each die: (die, physical tile) in rank order (R328) -/
  tiles   : List (Nat × Nat)
  /-- die-buffer slices: (die, slice) in allocation order (R75) -/
  slices  : List (Nat × Nat)
  est     : Nat
  admitted : Word
  drainBudget : Nat := 0
  noDrain : Bool := false
  halt    : Option HaltWhy := none
  /-- the first fast-lane class of the halt, else its first class; whether a FATAL or HARDWARE record was written -/
  firstCls : Option Nat := none
  fastSeen : Bool := false
  fatal   : Bool := false
  /-- the records on the two lanes, oldest first, with their lane slots (R342) -/
  fast    : Tab StopRec := []
  slow    : Tab StopRec := []
  /-- the records of the stop tables, by frame and entry (R341, R346) -/
  stops   : Tab StopRec := []
  seq     : BitVec 8 := 0
  fdrop   : BitVec 8 := 0
  haltTick : Word := 0
  haltTicks : Nat := 0
  mpoff   : Tab Word := []
  bars    : Tab Barrier := []
  /-- collective order numbers: COLLs issued by (agent, group) so far (R107) -/
  colls   : Tab Nat := []
  recalled : Bool := false
  /-- STATUS and DETAIL of the completion record, once the end of the task is decided (R333, R343, R357) -/
  finish  : Option (Nat × Nat) := none
  deadline : Nat := 0
  chargeTo : Option Nat := none
  vf      : Nat := 0x1FF
  saved   : Option SavedCtx := none
  /-- readmitted, with gears and spines not yet restored: operations and strands go on once they are (R347) -/
  resuming : Bool := false
  deriving DecidableEq, Repr

/-! ## Package -/

/-- The device's copy of an owner-table entry (R352) with its GRANT bytes. -/
structure Owner where
  v     : Bool := false
  troot : Word := 0
  grantAt : Word := 0
  grant : BitVec 5120 := 0
  policy : BitVec 2 := 0
  lend  : Bool := false
  wgt   : BitVec 8 := 0
  priomax : BitVec 8 := 0
  func  : Nat := 0x1FF
  rsv   : BitVec 32 := 0
  raw   : BitVec 256 := 0
  deriving DecidableEq, Repr

/-- The device's copy of a queue-map entry (R352). -/
structure QMap where
  v     : Bool := false
  func  : Nat := 0
  owner : Nat := 0
  deriving DecidableEq, Repr

/-- Tollbooth counters of an owner (R338). -/
structure Toll where
  tt : Nat := 0
  hbm : Nat := 0
  lpd : Nat := 0
  uj : Nat := 0
  /-- energy below 1 µJ, in parts of 2^-32 -/
  ujFrac : Nat := 0
  /-- tile-ticks that R305 excludes and that the counter has still to leave out -/
  credit : Nat := 0
  deriving DecidableEq, Repr

/-- TDISP state of a virtual function (R356). -/
inductive TdiSt where
  | unlocked | locked | run | error
  deriving DecidableEq, Repr

/-- A virtual function's trusted interface (R356, R385). -/
structure Vf where
  st     : TdiSt := .unlocked
  cause  : Nat := 0
  nonce  : BitVec 256 := 0
  stream : Nat := 0
  frozen : Bool := false
  /-- a STOP waits for the function's tasks to leave (R357) -/
  stopping : Bool := false
  deriving DecidableEq, Repr

/-- Power and bring-up (R362, R363). -/
inductive Power where
  | off | bringup | recovery | ready
  deriving DecidableEq, Repr

/-- The DOE mailbox and the interface command register (R383-R386). -/
structure Doe where
  queue   : List (List Byte) := []
  present : Bool := false
  reqLen  : Nat := 0
  base    : Word := 0
  out     : List (List Byte) := []
  /-- requests answered through the DOE status with an error (R383) -/
  errs    : Nat := 0
  func    : Nat := 0
  len     : Nat := 0
  res     : Nat := 0
  deriving DecidableEq, Repr

/-- A spine-table entry: MINLV and FREQ in MHz (R289). -/
structure SpineEntry where
  minlv : BitVec 3
  freq  : BitVec 16
  deriving DecidableEq, Repr

/-! ## Who moves next -/

/-- A unit that fetches instructions: a tile's sequencer, a hub core, a generator context. -/
inductive Turn where
  | tile (die tile : Nat)
  | hub (die core : Nat)
  | gen (die tile gen : Nat)
  deriving DecidableEq, Repr

/-- The next move: a unit's turn to issue, or an event. -/
inductive Move where
  | turn (u : Turn)
  | event (i : Instr)
  deriving DecidableEq, Repr

/-- The whole package. -/
structure State where
  mem     : Memory := []
  poison  : List Nat := []
  /-- the poisoned buffer words whose error was in a trimmed island (R305) -/
  trimPoison : List Nat := []
  ctxs    : Tab Ctx := []
  ops     : Tab EngOp := []
  opSeq   : Nat := 0
  regions : Tab Region := []
  /-- elements by tile, row and column (R158, R159) -/
  elems   : Tab Elem := []
  tiles   : Tab Tile := []
  gens    : Tab Gen := []
  trks    : Tab Tracker := []
  dies    : Tab Die := []
  tasks   : Tab Task := []
  pend    : List Pending := []
  /-- the home's records of other packages' requests, and the answers sent (R320) -/
  homeRecs : List RemoteRec := []
  homeOut : List RemoteRec := []
  /-- requests of other packages that a migration holds, with their place in the order of arrival (R47) -/
  homeHeld : List (Nat × RemoteReq) := []
  /-- accesses that have arrived at a home so far, for their order (R47) -/
  arrivals : Nat := 0
  locks   : List (Nat × Nat) := []
  migs    : List Migration := []
  pools   : Tab (List Nat) := []
  /-- access counters by frame and requesting die (R46) -/
  access  : Tab Nat := []
  /-- the number of this package (R38, R320) -/
  pkg     : BitVec 10 := 0
  sptab   : List SpineEntry :=
    [⟨7, 2700⟩, ⟨6, 2400⟩, ⟨5, 2100⟩, ⟨4, 1800⟩, ⟨3, 1350⟩, ⟨2, 1000⟩, ⟨1, 750⟩, ⟨0, 500⟩]
  shake   : Bool := false
  owners  : Tab Owner := []
  qmap    : Tab QMap := []
  mgbase  : Word := 0
  budget  : Nat := 100000
  tolls   : Tab Toll := []
  vfs     : Tab Vf := []
  /-- keyed selective IDE streams: (stream, VF) (R356) -/
  ide     : List (Nat × Nat) := []
  sriov   : Tab Word := []
  vfcfg   : Tab Word := []
  doe     : Doe := {}
  hubMpoff : Tab Word := []
  hubBars : Tab Barrier := []
  power   : Power := .off
  /-- host reads answered: the bytes returned (R350, R351) -/
  hostOut : List (List Byte) := []
  -- the model's own
  mapped  : List MapAnswer := []
  moves   : List Move := []
  cur     : Turn := .hub 0 0
  free    : Nat := 0
  /-- package beats since the last reference tick (R303, R310) -/
  beat    : Nat := 0
  deriving DecidableEq, Repr

/-- The machine right after reset: powered off, memory empty, every unit at its reset contents (R363). -/
def State.reset : State := {}

end Sys2Proof.Machine
end

