-- ==== Sys2Proof/Machine/Tables.lean ====
section
/-! DEFINITION. Tables of units: look up, write, remove; and the byte memory by location. -/

namespace Sys2Proof.Machine

/-- The contents of unit `k`, if it is listed. -/
def tfind {α : Type} : Tab α → Nat → Option α
  | [], _ => none
  | (j, v) :: t, k => if j = k then some v else tfind t k

/-- The contents of unit `k`, with what an unlisted unit holds. -/
def tget {α : Type} (t : Tab α) (k : Nat) (d : α) : α := (tfind t k).getD d

/-- Unlist unit `k`. -/
def tdel {α : Type} : Tab α → Nat → Tab α
  | [], _ => []
  | (j, v) :: t, k => if j = k then tdel t k else (j, v) :: tdel t k

/-- Insert at the place that the order of unit numbers gives. -/
def tins {α : Type} : Tab α → Nat → α → Tab α
  | [], k, v => [(k, v)]
  | (j, w) :: t, k, v => if j < k then (j, w) :: tins t k v else (k, v) :: (j, w) :: t

/-- Write unit `k`. -/
def tset {α : Type} (t : Tab α) (k : Nat) (v : α) : Tab α := tins (tdel t k) k v

/-- Write unit `k`, unlisting it when it takes the contents `d` that an unlisted unit holds. -/
def tput {α : Type} [DecidableEq α] (t : Tab α) (k : Nat) (v d : α) : Tab α :=
  if v = d then tdel t k else tset t k v

/-- Change unit `k` if it is listed. -/
def tmap {α : Type} (t : Tab α) (k : Nat) (f : α → α) : Tab α :=
  match tfind t k with
  | none => t
  | some v => tset t k (f v)

/-- The unit numbers listed. -/
def tkeys {α : Type} (t : Tab α) : List Nat := t.map (·.1)

/-- The listed units whose number satisfies a test. -/
def tsub {α : Type} (t : Tab α) (p : Nat → Bool) : Tab α := t.filter (fun e => p e.1)

/-! ## The byte memory -/

/-- The byte at a location; an unlisted location reads zero (R75 for buffers; DESIGN CHOICE for main memory, log entry 1). -/
def mget (m : Memory) (a : Nat) : Byte := tget m a 0

/-- Write one byte. -/
def mset (m : Memory) (a : Nat) (b : Byte) : Memory := tput m a b 0

/-- The `n` bytes from location `a`. -/
def mread (m : Memory) (a : Nat) : Nat → List Byte
  | 0 => []
  | n + 1 => mget m a :: mread m (a + 1) n

/-- Write bytes from location `a` up. -/
def mwrite (m : Memory) (a : Nat) : List Byte → Memory
  | [] => m
  | b :: bs => mwrite (mset m a b) (a + 1) bs

/-- Zero every location from `lo` up to, and without, `hi`. -/
def mclear (m : Memory) (lo hi : Nat) : Memory := m.filter (fun c => c.1 < lo || hi ≤ c.1)

/-- The canonical form: locations strictly rise and no zero byte is listed. -/
def memWfFrom : Nat → Memory → Bool
  | _, [] => true
  | lo, (a, b) :: m => decide (lo ≤ a) && b != 0 && memWfFrom (a + 1) m

/-- The canonical form of the memory. -/
def Memory.wf (m : Memory) : Bool := memWfFrom 0 m

/-! ## Bytes and words, little-endian (R4) -/

/-- The natural number of a little-endian byte string. -/
def leNat : List Byte → Nat
  | [] => 0
  | b :: bs => b.toNat + 256 * leNat bs

/-- The low `n` bytes of a number, little-endian. -/
def leBytes : Nat → Nat → List Byte
  | 0, _ => []
  | n + 1, v => BitVec.ofNat 8 v :: leBytes n (v / 256)

/-- The `n` bytes from `a` as a number. -/
def mnat (m : Memory) (a n : Nat) : Nat := leNat (mread m a n)

/-- Bits [hi:lo] of a number. -/
def bitsOf (v hi lo : Nat) : Nat := (v >>> lo) % 2 ^ (hi + 1 - lo)

/-- Bit i of a number. -/
def bitOf (v i : Nat) : Bool := v.testBit i

/-- SignExtend of the low n bits of a number, as an integer (R35). -/
def sextNat (v n : Nat) : Int :=
  let m := v % 2 ^ n
  if 2 * m ≥ 2 ^ n then (m : Int) - (2 ^ n : Nat) else m

/-- A word from an integer, wrapped. -/
def wrapWord (i : Int) : Word := BitVec.ofInt 64 i

end Sys2Proof.Machine
end

