-- ==== Sys2Proof/Machine/Units.lean ====
section
/-! DEFINITION. The units of the package: their numbers (R14) and the reads and writes of each table of State. -/

namespace Sys2Proof

/-- The die of an agent. -/
def Agent.die : Agent → Nat
  | .strand d _ _ => d
  | .hub d _ => d
/-- The tile of a strand; 0 for a hub core. -/
def Agent.tile : Agent → Nat
  | .strand _ t _ => t
  | .hub _ _ => 0
/-- The slot of a strand or the number of a hub core. -/
def Agent.slot : Agent → Nat
  | .strand _ _ s => s
  | .hub _ c => c
/-- Hub cores are privileged and strands never are (R251). -/
def Agent.isHub : Agent → Bool
  | .strand .. => false
  | .hub .. => true
/-- The controlling strand of a region (R13). -/
def RegionId.strand (r : RegionId) : Agent := .strand r.die r.tile r.slot

end Sys2Proof

namespace Sys2Proof.Machine

/-! ## Numbers of units -/

/-- Number of a tile: its die and its physical index 12r + c (R308). -/
def tileKey (d t : Nat) : Nat := d * 144 + t
/-- Number of a cluster in physical order (R14). -/
def clusterKey (d c : Nat) : Nat := d * 36 + c
/-- Number of a strand slot of a tile. -/
def strandKey (d t s : Nat) : Nat := tileKey d t * 4 + s
/-- Number of an issuing agent: strands, then hub cores. -/
def agentKey : Agent → Nat
  | .strand d t s => strandKey d t s
  | .hub d c => 2304 + d * 4 + c
/-- Number of the operation on a token. -/
def opKey (a : Agent) (t : Nat) : Nat := agentKey a * 8 + t
/-- Number of a generator context. -/
def genKey (d t g : Nat) : Nat := tileKey d t * 4 + g
/-- Number of a scale tracker. -/
def trkKey (d t n : Nat) : Nat := tileKey d t * 16 + n
/-- Number of a region: that of its controlling strand (R13). -/
def regKey (r : RegionId) : Nat := strandKey r.die r.tile r.slot
/-- Number of an element of a region by row and column. -/
def elemKey (r c : Nat) : Nat := r * 32 + c

/-- The agent with a number. -/
def agentOfKey (k : Nat) : Agent :=
  if k < 2304 then .strand (k / 576) (k / 4 % 144) (k % 4) else .hub ((k - 2304) / 4) ((k - 2304) % 4)

/-- The cluster of a physical tile: the aligned 2 by 2 block that holds it (R14). -/
def clusterOf (t : Nat) : Nat := t / 12 / 2 * 6 + t % 12 / 2
/-- The four physical tiles of a cluster, in the order of their indices (R14). -/
def clusterTiles (c : Nat) : List Nat :=
  let r := 2 * (c / 6); let k := 2 * (c % 6)
  [12 * r + k, 12 * r + k + 1, 12 * (r + 1) + k, 12 * (r + 1) + k + 1]
/-- The physical tile of a normalised tile coordinate under a rotation (R308). -/
def rotTile (rot l : Nat) : Nat :=
  let r := l / 12; let c := l % 12
  match rot with
  | 0 => 12 * r + c
  | 1 => 12 * c + (11 - r)
  | 2 => 12 * (11 - r) + (11 - c)
  | _ => 12 * (11 - c) + r

/-! ## Strands and hub cores -/

/-- The context of an agent. -/
def State.ctx (s : State) (a : Agent) : Ctx := tget s.ctxs (agentKey a) {}
/-- Replace the context of an agent. -/
def State.setCtx (s : State) (a : Agent) (c : Ctx) : State := { s with ctxs := tset s.ctxs (agentKey a) c }
/-- Change the context of an agent. -/
def State.modCtx (s : State) (a : Agent) (f : Ctx → Ctx) : State := s.setCtx a (f (s.ctx a))

/-! ## Operations -/

/-- The operation on a token. -/
def State.op (s : State) (a : Agent) (t : Nat) : Option EngOp := tfind s.ops (opKey a t)
/-- Replace the operation on a token. -/
def State.setOp (s : State) (a : Agent) (t : Nat) (o : EngOp) : State := { s with ops := tset s.ops (opKey a t) o }
/-- Remove the operation on a token. -/
def State.delOp (s : State) (a : Agent) (t : Nat) : State := { s with ops := tdel s.ops (opKey a t) }
/-- Change the operation on a token, if there is one. -/
def State.modOp (s : State) (a : Agent) (t : Nat) (f : EngOp → EngOp) : State :=
  match s.op a t with
  | some o => s.setOp a t (f o)
  | none => s

/-! ## Regions, tiles, generators, trackers -/

/-- The region of a controlling strand. -/
def State.region (s : State) (r : RegionId) : Option Region := tfind s.regions (regKey r)
/-- Replace a region. -/
def State.setRegion (s : State) (r : RegionId) (x : Region) : State := { s with regions := tset s.regions (regKey r) x }
/-- Change a region if it exists. -/
def State.modRegion (s : State) (r : RegionId) (f : Region → Region) : State := { s with regions := tmap s.regions (regKey r) f }
/-- The tile at a physical index. -/
def State.tile (s : State) (d t : Nat) : Tile := tget s.tiles (tileKey d t) {}
/-- Replace a tile. -/
def State.setTile (s : State) (d t : Nat) (x : Tile) : State := { s with tiles := tset s.tiles (tileKey d t) x }
/-- Change a tile. -/
def State.modTile (s : State) (d t : Nat) (f : Tile → Tile) : State := s.setTile d t (f (s.tile d t))
/-- A generator context. -/
def State.gen (s : State) (d t g : Nat) : Gen := tget s.gens (genKey d t g) {}
/-- Replace a generator context. -/
def State.setGen (s : State) (d t g : Nat) (x : Gen) : State := { s with gens := tset s.gens (genKey d t g) x }
/-- A scale tracker. -/
def State.trk (s : State) (d t n : Nat) : Tracker := tget s.trks (trkKey d t n) {}
/-- Replace a scale tracker. -/
def State.setTrk (s : State) (d t n : Nat) (x : Tracker) : State := { s with trks := tset s.trks (trkKey d t n) x }

/-! ## Dies, tasks, owners -/

/-- A die. -/
def State.die (s : State) (d : Nat) : Die := tget s.dies d {}
/-- Replace a die. -/
def State.setDie (s : State) (d : Nat) (x : Die) : State := { s with dies := tset s.dies d x }
/-- Change a die. -/
def State.modDie (s : State) (d : Nat) (f : Die → Die) : State := s.setDie d (f (s.die d))
/-- A task. -/
def State.task (s : State) (n : Nat) : Option Task := tfind s.tasks n
/-- Replace a task. -/
def State.setTask (s : State) (n : Nat) (x : Task) : State := { s with tasks := tset s.tasks n x }
/-- Change a task if it exists. -/
def State.modTask (s : State) (n : Nat) (f : Task → Task) : State := { s with tasks := tmap s.tasks n f }
/-- An owner's entry. -/
def State.owner (s : State) (o : Nat) : Owner := tget s.owners o {}
/-- A queue-map entry, by 64 × die + queue (R352). -/
def State.qmapEntry (s : State) (k : Nat) : QMap := tget s.qmap k {}
/-- A virtual function. -/
def State.vf (s : State) (v : Nat) : Vf := tget s.vfs v {}
/-- Replace a virtual function. -/
def State.setVf (s : State) (v : Nat) (x : Vf) : State := { s with vfs := tset s.vfs v x }
/-- The tollbooth counters of an owner. -/
def State.toll (s : State) (o : Nat) : Toll := tget s.tolls o {}
/-- Replace the tollbooth counters of an owner. -/
def State.setToll (s : State) (o : Nat) (x : Toll) : State := { s with tolls := tset s.tolls o x }
/-- An owner queue of a die. -/
def State.queue (s : State) (d q : Nat) : Queue := tget (s.die d).queues q {}
/-- Replace an owner queue. -/
def State.setQueue (s : State) (d q : Nat) (x : Queue) : State :=
  s.modDie d (fun y => { y with queues := tset y.queues q x })
/-- An island of a die. -/
def State.island (s : State) (d c : Nat) : Island := tget (s.die d).islands c {}
/-- Replace an island. -/
def State.setIsland (s : State) (d c : Nat) (x : Island) : State :=
  s.modDie d (fun y => { y with islands := tset y.islands c x })
/-- The trim state of an island. -/
def State.trim (s : State) (d c : Nat) : Trim := tget (s.die d).trims c {}
/-- Replace the trim state of an island. -/
def State.setTrim (s : State) (d c : Nat) (x : Trim) : State :=
  s.modDie d (fun y => { y with trims := tset y.trims c x })

/-- The task of an agent. -/
def State.taskOf (s : State) (a : Agent) : Option Nat := (s.ctx a).task
/-- The owner of an agent's task; none for a hub core (R274). -/
def State.ownerOf (s : State) (a : Agent) : Option Nat :=
  match s.taskOf a with
  | none => none
  | some n => (s.task n).map (·.owner)

/-- The task that holds a tile. -/
def State.holder (s : State) (d t : Nat) : Option Nat := (s.tile d t).holder

/-- A fresh free value. -/
def State.fresh (s : State) : BitVec 256 × State := (Config.freeBits s.free, { s with free := s.free + 1 })
/-- A fresh free choice (R94). -/
def State.freshChoice (s : State) : Bool × State := (Config.freeChoice s.free, { s with free := s.free + 1 })

/-! ## Launch-record fields (R324) -/

/-- Bits [hi:lo] of a launch record. -/
def recBits (r : BitVec 2048) (hi lo : Nat) : Nat := (r.toNat >>> lo) % 2 ^ (hi + 1 - lo)

end Sys2Proof.Machine
end

