-- ==== Sys2Proof/Machine/Classes.lean ====
section
/-! DEFINITION. The fault classes (R339): code, lane and status. -/

namespace Sys2Proof.Machine

/-- Fault class codes (R339). -/
def clsIllegal : Nat := 0x01
/-- PRIV (R19). -/
def clsPriv : Nat := 0x02
/-- ALIGN (R23). -/
def clsAlign : Nat := 0x03
/-- XLATE (R41). -/
def clsXlate : Nat := 0x04
/-- PERM (R41). -/
def clsPerm : Nat := 0x05
/-- APERTURE (R80). -/
def clsAperture : Nat := 0x06
/-- FMT (R59). -/
def clsFmt : Nat := 0x07
/-- SCHED (R171). -/
def clsSched : Nat := 0x08
/-- HOLDTO (R172, R173). -/
def clsHoldto : Nat := 0x09
/-- BARTO (R288). -/
def clsBarto : Nat := 0x0A
/-- TOKEN (R96). -/
def clsToken : Nat := 0x0B
/-- GEN (R134). -/
def clsGen : Nat := 0x0C
/-- MAP (R240). -/
def clsMap : Nat := 0x0D
/-- ISOL (R344). -/
def clsIsol : Nat := 0x0E
/-- ECC (R339). -/
def clsEcc : Nat := 0x0F
/-- GEAR (R293). -/
def clsGear : Nat := 0x10
/-- LATE (R317). -/
def clsLate : Nat := 0x11
/-- HASHFULL (R125). -/
def clsHashfull : Nat := 0x12
/-- ROUTE (R123). -/
def clsRoute : Nat := 0x13
/-- TRAP (R230, R267). -/
def clsTrap : Nat := 0x14
/-- WATCHDOG (R340). -/
def clsWatchdog : Nat := 0x15
/-- LINK (R321). -/
def clsLink : Nat := 0x16
/-- HOST (R355). -/
def clsHost : Nat := 0x17

/-- Statuses of a fault (R339). -/
inductive FStatus where
  | replay | resume | report | fatal | hardware | none
  deriving DecidableEq, Repr

/-- The status of a fault by class and detail (R339). -/
def fstatus (cls det : Nat) : FStatus :=
  if cls = clsXlate then .replay
  else if cls = clsEcc then (if det = 1 then .replay else .hardware)
  else if cls = clsLate ∨ cls = clsRoute then .report
  else if cls = clsHashfull then .none
  else if cls = clsTrap then .resume
  else if cls = clsWatchdog then .hardware
  else if cls = 0 then .none
  else .fatal

/-- Whether a fault goes on the fast lane (R339): the FATAL and HARDWARE statuses do. -/
def fastLane (cls det : Nat) : Bool :=
  match fstatus cls det with
  | .fatal | .hardware => true
  | _ => false

/-- The STATUS field of a stop record (R341). -/
def statusCode (cls det : Nat) : Nat :=
  match fstatus cls det with
  | .replay | .none => 0
  | .resume | .report => 1
  | .fatal => 2
  | .hardware => 3

/-- A fault with a class, a detail and an address. -/
def flt (cls det : Nat) (addr : Word := 0) : FaultInfo := { cls := cls, detail := det, addr := addr }

end Sys2Proof.Machine
end

