-- ==== Sys2Proof/Machine/Translate.lean ====
section
/-! DEFINITION. From a generic address to a location: aperture windows (R76-R80), the walk (R38-R42), the checks of an
access (R41, R79, R344, R355). Locations: main and host memory by physical address, then the tile, cluster and die
buffers. -/

namespace Sys2Proof.Machine

/-! ## Locations -/

/-- Location of byte `o` of a tile buffer. -/
def tbLoc (d t o : Nat) : Nat := 2 ^ 56 + tileKey d t * 2 ^ 20 + o
/-- Location of byte `o` of a cluster buffer. -/
def cbLoc (d c o : Nat) : Nat := 2 ^ 57 + clusterKey d c * 2 ^ 22 + o
/-- Location of byte `o` of a die-buffer slice. -/
def dbLoc (d j o : Nat) : Nat := 2 ^ 58 + (d * 240 + j) * 2 ^ 21 + o
/-- A location inside a buffer. -/
def isBuffer (loc : Nat) : Bool := 2 ^ 56 ≤ loc
/-- A location in host memory (R38). -/
def isHost (loc : Nat) : Bool := !isBuffer loc && loc.testBit 52
/-- The home package of a main-memory location (R38). -/
def locPkg (loc : Nat) : Nat := bitsOf loc 51 42
/-- The home die of a main-memory location (R38). -/
def locDie (loc : Nat) : Nat := bitsOf loc 41 40
/-- Whether a main-memory location lies in LPDDR 6 (R38). -/
def locLpd (loc : Nat) : Bool := loc.testBit 39

/-- An entry of a die's route table: the ports that may reach a package (R320). SWRT = 0 names no table. -/
def routeMask (s : State) (d p : Nat) : Nat :=
  let base := (s.die d).swrt.toNat
  if base = 0 then 0 else mnat s.mem (base + 2 * p) 2 % 2 ^ 9

/-- The domain (R38): the package itself and those with a nonzero mask. -/
def inDomain (s : State) (d p : Nat) : Bool := p == s.pkg.toNat || routeMask s d p != 0

/-- Whether `n` bytes at a physical address lie in the populated capacity of their tier, or in host memory (R38). -/
def inCapacity (pa n : Nat) : Bool :=
  pa < 2 ^ 53 && (pa.testBit 52 || decide (bitsOf pa 38 0 + n ≤ (if pa.testBit 39 then Config.lpddrBytes else Config.hbmBytes)))

/-- Whether a walk may produce a physical address: populated, and in the domain as it stands when the walk completes (R38). -/
def populated (s : State) (d pa n : Nat) : Bool := inCapacity pa n && (pa.testBit 52 || inDomain s d (locPkg pa))

/-! ## The walk -/

/-- What an access needs of a page (R41). -/
inductive Need where
  | load | store | rmw | fetch
  deriving DecidableEq, Repr

/-- The outcome of an attempt at an access: done, faulted (class, detail), or to be tried again later. -/
inductive Try (α : Type) where
  | ok (v : α)
  | fault (f : FaultInfo)
  | later
  deriving DecidableEq, Repr

/-- A leaf found by a walk: the entry, its page-size code (0 64 KiB, 1 2 MiB, 2 1 GiB) and where it lies. -/
structure Leaf where
  e    : Word
  size : Nat
  at_  : Nat
  deriving DecidableEq, Repr

/-- Bits of the page offset by size code. -/
def pageBits : Nat → Nat
  | 0 => 16
  | 1 => 21
  | _ => 30

/-- Index of a virtual address at a level (R39). -/
def levelIndex (va : Nat) : Nat → Nat
  | 0 => bitsOf va 47 39
  | 1 => bitsOf va 38 30
  | 2 => bitsOf va 29 21
  | _ => bitsOf va 20 16

/-- Whether a poisoned word meets `n` bytes at a location. -/
def poisonedAt (s : State) (loc n : Nat) : Bool := s.poison.any (fun w => decide (w < loc + n) && decide (loc < w + 8))

/-- ECC detail 0x01 with the kind of location (R341), and whether its island is trimmed (R305). -/
def poisonFault (s : State) (loc : Nat) (addr : Word) : FaultInfo :=
  { flt clsEcc 1 addr with info0 := if isBuffer loc then 0 else 2, trim := s.trimPoison.any (· == loc / 8 * 8) }

/-- Whether a leaf entry is well formed at its level (R40). -/
def leafOk (e lvl : Nat) : Bool :=
  bitsOf e 63 53 == 0 && !e.testBit 11 && bitsOf e 9 4 == 0 && bitsOf e 13 12 != 3 && lvl != 0 &&
  (lvl != 1 || bitsOf e 29 16 == 0) && (lvl != 2 || bitsOf e 20 16 == 0)

/-- The walk from a table at a level (R39-R41), with the number of levels left. -/
def walkFrom (s : State) (d : Nat) (va : Word) : Nat → Nat → Nat → Try Leaf
  | 0, _, _ => .fault (flt clsXlate 3 va)
  | fuel + 1, lvl, tab =>
    let ea := tab + 8 * levelIndex va.toNat lvl
    if tab.testBit 52 || locPkg tab != s.pkg.toNat || !populated s d ea 8 then .fault (flt clsXlate 4 va)
    else if poisonedAt s ea 8 then .fault (poisonFault s ea va)
    else
      let e := mnat s.mem ea 8
      if !e.testBit 0 then .fault (flt clsXlate 1 va)
      else if e.testBit 1 then
        (if leafOk e lvl then .ok ⟨BitVec.ofNat 64 e, 3 - lvl, ea⟩ else .fault (flt clsXlate 3 va))
      else if bitsOf e 63 53 != 0 || bitsOf e 11 2 != 0 || lvl == 3 then .fault (flt clsXlate 3 va)
      else walkFrom s d va fuel (lvl + 1) (bitsOf e 52 12 * 4096)

/-- A canonical virtual address (R39). -/
def canonical (va : Word) : Bool :=
  let h := bitsOf va.toNat 63 47
  h == 0 || h == 2 ^ 17 - 1

/-- The walk of an owner's tree (R39). -/
def walkOwner (s : State) (d o : Nat) (va : Word) : Try Leaf :=
  let w := s.owner o
  if !canonical va then .fault (flt clsXlate 2 va)
  else if !w.v then .fault (flt clsXlate 1 va)
  else walkFrom s d va 4 0 (w.troot.toNat / 4096 * 4096)

/-- The physical address that a leaf gives a virtual address. -/
def leafPa (l : Leaf) (va : Word) : Nat :=
  let b := pageBits l.size
  bitsOf l.e.toNat 52 16 * 2 ^ 16 / 2 ^ b * 2 ^ b + va.toNat % 2 ^ b

/-! ## Translation buffers (R42) -/

/-- Whether a held translation serves an address of an owner. -/
def tlbHit (o : Nat) (va : Word) (e : TlbEntry) : Bool := e.owner == o && e.vpage == bitsOf va.toNat 47 0 / 2 ^ pageBits e.size

/-- The held translation of an address, if any: the cluster buffer, then the die buffer. -/
def tlbLookup (s : State) (d : Nat) (cl : Option Nat) (o : Nat) (va : Word) : Option Leaf :=
  let y := s.die d
  let c := match cl with
    | some c => (tget y.ctlb c []).find? (tlbHit o va)
    | none => none
  (c <|> y.dtlb.find? (tlbHit o va)).map (fun e => ⟨e.leaf, e.size, 0⟩)

/-- Install a leaf in the cluster buffer, if the requester has one, and the die buffer; the oldest entry makes room
(DESIGN CHOICE, log entry 2). -/
def tlbInstall (s : State) (d : Nat) (cl : Option Nat) (o : Nat) (va : Word) (l : Leaf) : State :=
  let e : TlbEntry := ⟨o, l.size, bitsOf va.toNat 47 0 / 2 ^ pageBits l.size, l.e⟩
  s.modDie d (fun y =>
    { y with
      dtlb := (e :: y.dtlb.filter (fun x => !tlbHit o va x)).take Config.dieTlb
      ctlb := match cl with
        | some c => tset y.ctlb c ((e :: (tget y.ctlb c []).filter (fun x => !tlbHit o va x)).take Config.clusterTlb)
        | none => y.ctlb })

/-! ## Requests -/

/-- Who makes an access: the agent, its windows (R77), its owner and task, and whether the access is uncounted (NC). -/
structure Req where
  agent  : Agent
  apTile : Word
  apClus : Word
  apDie  : Word
  owner  : Nat
  task   : Option Nat
  nc     : Bool
  /-- a copy engine's operation, and an access of the device itself, translates through the die buffer only (R42) -/
  engine : Bool
  /-- the token of the operation that makes it -/
  tok    : Option Nat
  /-- it waits for its home like an agent's access; a save's and a stop record's accesses do not -/
  waits  : Bool
  /-- an access of the device itself: the record that it is for -/
  dev    : Option Nat
  deriving DecidableEq, Repr

/-- The request of an agent's own access. -/
def State.req (s : State) (a : Agent) (nc : Bool := false) : Req :=
  let c := s.ctx a
  ⟨a, c.apTile, c.apClus, c.apDie, (s.ownerOf a).getD 0, c.task, nc, false, none, true, none⟩

/-- Whether an operation runs on a copy engine, which translates through the die buffer; the other engines stand in their tile and use its
cluster's buffer (R12, R42). -/
def onCopyEngine : OpKind → Bool
  | .copy | .fill | .xform | .coll | .tsend => true
  | .merge .. | .route | .hacc .. | .hflush .. | .feed _ | .drain _ | .grun _ | .grunT _ | .ginv _ | .run => false

/-- The request of an engine operation, with the windows of its issue (R77). -/
def State.opReq (s : State) (o : EngOp) : Req :=
  ⟨o.agent, o.apTile, o.apClus, o.apDie, (s.ownerOf o.agent).getD 0, (s.ctx o.agent).task, o.nc, onCopyEngine o.kind, some o.tok.toNat, true, none⟩

/-- The part of the address space that a generic address falls in (R76). -/
inductive Win where
  | tile (o : Nat) | clus (o : Nat) | die (o : Nat) | virt
  deriving DecidableEq, Repr

/-- The offset of an address in an enabled window of 2^b bytes, if it lies there. -/
def inWindow (base a : Word) (b : Nat) : Option Nat :=
  if base.toNat.testBit 0 && base.toNat / 2 ^ b == a.toNat / 2 ^ b then some (a.toNat % 2 ^ b) else none

/-- The window of a generic address: TILE, else CLUSTER, else DIE, else none (R76). -/
def windowOf (q : Req) (a : Word) : Win :=
  match inWindow q.apTile a 20 with
  | some o => .tile o
  | none =>
    match inWindow q.apClus a 22 with
    | some o => .clus o
    | none =>
      match inWindow q.apDie a 29 with
      | some o => .die o
      | none => .virt

/-- The physical tile of a task's logical tile on a die (R78, R328). -/
def physTile (k : Task) (d l : Nat) : Option Nat := ((k.tiles.filter (fun x => x.1 == d)).map (·.2))[l]?
/-- The j-th die-buffer slice of a task on a die (R75). -/
def physSlice (k : Task) (d j : Nat) : Option Nat := ((k.slices.filter (fun x => x.1 == d)).map (·.2))[j]?

/-- The location of an offset of the DIE window (R78, R79), or the APERTURE detail (R80). -/
def dieWindow (s : State) (q : Req) (o : Nat) : Except Nat Nat :=
  let d := q.agent.die
  if 0x1E000000 ≤ o then .error 1
  else if q.agent.isHub then .ok (dbLoc d (o / 2 ^ 21) (o % 2 ^ 21))
  else
    match q.task.bind s.task with
    | none => .error 2
    | some k =>
      if o < 0x15000000 then
        (match physSlice k d (o / 2 ^ 21) with
        | some j => .ok (dbLoc d j (o % 2 ^ 21))
        | none => .error 2)
      else
        (match physTile k d ((o - 0x15000000) / 2 ^ 20) with
        | some t => .ok (tbLoc d t (o % 2 ^ 20))
        | none => .error 3)

/-! ## Routing one part of an access -/

/-- Where a part of an access goes. -/
structure Place where
  loc   : Nat
  unord : Bool
  tag   : Bool
  len   : Nat
  deriving DecidableEq, Repr

/-- A frame that the owner's GRANT bytes admit (R344, R352): 1 GiB units of the own package, then packages. -/
def granted (s : State) (o pa : Nat) : Bool :=
  if pa.testBit 52 then true
  else if locPkg pa = s.pkg.toNat then (s.owner o).grant.toNat.testBit (bitsOf pa 41 30)
  else (s.owner o).grant.toNat.testBit (4096 + locPkg pa)

/-- The permission check of a leaf (R41). -/
def permDetail (e : Nat) : Need → Option Nat
  | .load => if e.testBit 2 then none else some 1
  | .store => if e.testBit 3 then none else some 2
  | .fetch => if e.testBit 15 then none else some 3
  | .rmw => if e.testBit 2 && e.testBit 3 then none else some 4

/-- Whether `n` bytes at a physical address lie in the firmware region (R79). -/
def inFirmware (pa n : Nat) : Bool := Config.fwRegion.any (fun r => decide (r.1 ≤ pa) && decide (pa + n ≤ r.1 + r.2))

/-- Whether the interface of a function forbids its host accesses: it is locked and not in RUN, or in ERROR (R355 detail 0x04). -/
def funcBarred (s : State) (v : Nat) : Bool :=
  decide (1 ≤ v) && decide (v ≤ 256) && (match (s.vf v).st with
  | .locked | .error => true
  | .unlocked | .run => false)

/-- Whether host accesses of a task are forbidden: by its function's interface, or by a STOP of it (R355 detail 0x04, R357). -/
def hostBarred (s : State) (t : Option Nat) : Bool :=
  match t.bind s.task with
  | none => false
  | some k => funcBarred s k.vf || (decide (1 ≤ k.vf) && decide (k.vf ≤ 256) && (s.vf k.vf).stopping)

/-- The causeways from die `a` onward over edge 0, up to die `b` (R309): `n` of them are up. -/
def ringUp (s : State) : Nat → Nat → Bool
  | _, 0 => true
  | a, n + 1 => !(s.die (a % 4)).cwDown.toNat.testBit 0 && ringUp s (a + 1) n

/-- Whether some ring direction between two dies has every causeway up (R309, R321). -/
def dieReach (s : State) (a b : Nat) : Bool :=
  let n := (b + 4 - a) % 4
  n == 0 || ringUp s a n || ringUp s b (4 - n)

/-- Whether a port of a mask is UP or DEGRADED (R321). -/
def maskUp (s : State) (d m : Nat) : Bool :=
  (List.range 9).any (fun i => m.testBit i &&
    (match (tget (s.die d).ports i {}).st with
    | .up | .degraded => true
    | _ => false))

/-- The checks of R321 at issue for an access to a physical address. -/
def linkDetail (s : State) (d pa : Nat) : Option Nat :=
  if pa.testBit 52 then (if dieReach s d 0 then none else some 3)
  else if locPkg pa = s.pkg.toNat then (if dieReach s d (locDie pa) then none else some 3)
  else if maskUp s d (routeMask s d (locPkg pa)) then none else some 1

/-- The package that a LINK record names: the home's, or this one for host memory, which is reached through this package's position 0
(R38, R341). -/
def linkPkg (s : State) (pa : Nat) : Nat := if isBuffer pa || isHost pa then s.pkg.toNat else locPkg pa

/-- The last checks of a part at a physical address: the link (R321), then host memory (R355). -/
def paChecks (s : State) (q : Req) (pa : Nat) (va : Word) : Option FaultInfo :=
  match linkDetail s q.agent.die pa with
  | some k =>
    some { flt clsLink k va with
      info0 := BitVec.ofNat 64 (linkPkg s pa), info1 := BitVec.ofNat 64 (routeMask s q.agent.die (linkPkg s pa)) }
  | none =>
    if pa.testBit 52 then
      (if hostBarred s q.task then some (flt clsHost 4 va) else none)
    else none

/-- The checks of a translated access and its place: permission (R41), grant (R344), link (R321), host memory (R355). The spec orders the
first part of an access before the next (R50) and gives no order among these checks; the model takes this one (DESIGN CHOICE, log entry
103). -/
def placeOf (s : State) (q : Req) (need : Need) (va : Word) (n : Nat) (l : Leaf) : Try Place :=
  let pa := leafPa l va
  if !inCapacity pa n then .fault (flt clsXlate 4 va)
  else
    match permDetail l.e.toNat need with
    | some k => .fault (flt clsPerm k va)
    | none =>
      if !granted s q.owner pa then .fault (flt clsIsol 1 va)
      else
        match paChecks s q pa va with
        | some f => .fault f
        | none => .ok ⟨pa, bitsOf l.e.toNat 13 12 == 2, l.e.toNat.testBit 14, n⟩

/-- The queued walk of the page of an address: misses to one page by one owner on one die are merged (R42). -/
def walkIx (s : State) (d o : Nat) (va : Word) : Option Nat :=
  (s.die d).walks.findIdx? (fun x => x.owner == o && x.va.toNat / 65536 == va.toNat / 65536)

/-- A cluster joins a queued walk. -/
def joinWalk (s : State) (d i : Nat) (cl : Option Nat) : State :=
  s.modDie d (fun y => { y with walks := y.walks.modify i (fun w => { w with clusters := w.clusters ++ cl.toList.filter (fun c => !w.clusters.any (· == c)) }) })

/-- A walk is queued, in arrival order (R42). -/
def queueWalk (s : State) (d o : Nat) (va : Word) (cl : Option Nat) : State :=
  s.modDie d (fun y => { y with walks := y.walks ++ [⟨o, va, cl.toList⟩] })

/-- What a walk found is installed for every requester that joined it. -/
def installAll (s : State) (d o : Nat) (va : Word) (l : Leaf) : List Nat → State
  | [] => tlbInstall s d none o va l
  | c :: cs => cs.foldl (fun s c => tlbInstall s d (some c) o va l) (tlbInstall s d (some c) o va l)

/-- A walk is performed: what it finds, if it is populated and in the domain, is installed (R38, R42). -/
def walkNow (s : State) (d o : Nat) (va : Word) (n : Nat) (cls : List Nat) : State × Try Leaf :=
  match walkOwner s d o va with
  | .fault f => (s, .fault f)
  | .later => (s, .later)
  | .ok l => if !populated s d (leafPa l va) n then (s, .fault (flt clsXlate 4 va)) else (installAll s d o va l cls, .ok l)

/-- A miss: it is merged with a queued walk of its page, and performs it if a walker has it; with every walker busy it queues (R42). -/
def missWalk (s : State) (d o : Nat) (va : Word) (n : Nat) (cl : Option Nat) : State × Try Leaf :=
  match walkIx s d o va with
  | some i =>
    let s1 := joinWalk s d i cl
    if Config.walkers ≤ i then (s1, .later)
    else
      walkNow (s.modDie d (fun y => { y with walks := y.walks.eraseIdx i })) d o va n
        ((((s1.die d).walks[i]?).map (·.clusters)).getD [])
  | none =>
    if Config.walkers ≤ (s.die d).walks.length then (queueWalk s d o va cl, .later) else walkNow s d o va n cl.toList

/-- Translate `n` bytes of one page for an owner (R39-R42), installing what a walk finds. -/
def translate (s : State) (q : Req) (need : Need) (va : Word) (n : Nat) : State × Try Place :=
  let d := q.agent.die
  let cl := if q.engine then none else some (clusterOf q.agent.tile)
  if !canonical va then (s, .fault (flt clsXlate 2 va))
  else
    match tlbLookup s d cl q.owner va with
    | some l => (s, placeOf s q need va n l)
    | none =>
      match missWalk s d q.owner va n cl with
      | (s, .fault f) => (s, .fault f)
      | (s, .later) => (s, .later)
      | (s, .ok l) => (s, placeOf s q need va n l)

/-- Route `n` bytes that lie in one 64 KiB page or window unit (R50, R76, R79). A hub core has no TILE or CLUSTER window, and the spec gives no
address by which its copy engine reaches a tile buffer: its operations have none (DESIGN CHOICE, log entry 132). -/
def routePart (s : State) (q : Req) (need : Need) (a : Word) (n : Nat) : State × Try Place :=
  match windowOf q a with
  | .tile o => (s, .ok ⟨tbLoc q.agent.die q.agent.tile o, false, false, n⟩)
  | .clus o => (s, .ok ⟨cbLoc q.agent.die (clusterOf q.agent.tile) o, false, false, n⟩)
  | .die o =>
    (match dieWindow s q o with
    | .error k => (s, .fault (flt clsAperture k a))
    | .ok l => (s, .ok ⟨l, false, false, n⟩))
  | .virt =>
    if q.agent.isHub then
      (if !populated s q.agent.die a.toNat n then (s, .fault (flt clsXlate 4 a))
      else if !inFirmware a.toNat n then (s, .fault (flt clsIsol 3 a))
      else
        match paChecks s q a.toNat a with
        | some f => (s, .fault f)
        | none => (s, .ok ⟨a.toNat, false, false, n⟩))
    else translate s q need a n

/-- Split an access at 64 KiB boundaries, which hold every page and window boundary (R50, R76). -/
def splitPages : Nat → Word → Nat → List (Word × Nat)
  | 0, _, _ => []
  | fuel + 1, a, n =>
    if n = 0 then []
    else
      let k := min n (65536 - a.toNat % 65536)
      (a, k) :: splitPages fuel (a + BitVec.ofNat 64 k) (n - k)

/-- Route every part in turn; the first fault is the access's (R50). -/
def routeParts (s : State) (q : Req) (need : Need) : List (Word × Nat) → State × Try (List Place)
  | [] => (s, .ok [])
  | (a, n) :: ps =>
    match routePart s q need a n with
    | (s, .fault f) => (s, .fault f)
    | (s, .later) => (s, .later)
    | (s, .ok p) =>
      match routeParts s q need ps with
      | (s, .ok l) => (s, .ok (p :: l))
      | (s, .fault f) => (s, .fault f)
      | (s, .later) => (s, .later)

/-- Route an access of `n` bytes (R50). -/
def route (s : State) (q : Req) (need : Need) (a : Word) (n : Nat) : State × Try (List Place) :=
  routeParts s q need (splitPages (n / 65536 + 2) a n)

/-! ## Performing an access at its home -/

/-- A location inside a frame that a migration has locked (R47). -/
def locked (s : State) (loc n : Nat) : Bool :=
  !isBuffer loc && s.locks.any (fun l => decide (l.1 < loc + n) && decide (loc < l.1 + l.2))

/-- Whether a location is homed elsewhere than on a die: on another die, in another package, or in host memory (R10, R48). -/
def offDie (s : State) (d loc : Nat) : Bool :=
  !isBuffer loc && (isHost loc || locPkg loc != s.pkg.toNat || locDie loc != d)

/-- Whether an access of an agent of a die waits for its home: held by a migration, or remote (R47, R48). -/
def mustWait (s : State) (d : Nat) (p : Place) : Bool := locked s p.loc p.len || offDie s d p.loc

/-- The die of a buffer's location. -/
def bufDie (loc : Nat) : Nat :=
  if loc < 2 ^ 57 then (loc - 2 ^ 56) / 2 ^ 20 / 144 else if loc < 2 ^ 58 then (loc - 2 ^ 57) / 2 ^ 22 / 36 else (loc - 2 ^ 58) / 2 ^ 21 / 240

/-- Whether a request from a die can reach a location now (R309, R321). -/
def homeReach (s : State) (d loc : Nat) : Bool :=
  if isBuffer loc then dieReach s d (bufDie loc)
  else if isHost loc then dieReach s d 0
  else if locPkg loc = s.pkg.toNat then dieReach s d (locDie loc)
  else maskUp s d (routeMask s d (locPkg loc))

/-- The bytes of the routed parts. -/
def readPlaces (s : State) : List Place → List Byte
  | [] => []
  | p :: ps => mread s.mem p.loc p.len ++ readPlaces s ps

/-- The lowest poisoned byte among `n` bytes at a location. -/
def firstPoison (s : State) (loc n : Nat) : Option Nat :=
  s.poison.foldl (fun m w =>
    if w < loc + n ∧ loc < w + 8 then some (min (max w loc) (m.getD (loc + n))) else m) none

/-- The fault of the first part that fails at its home, with the address of its first byte that does: HOST detail 0x02 where no host memory
backs it, ECC detail 0x01 where a read meets poison (R50, R74, R355). -/
def partFault (s : State) (rd : Bool) (a : Word) : List Place → Option FaultInfo
  | [] => none
  | p :: ps =>
    if isHost p.loc && !Config.hostBacked p.loc then some (flt clsHost 2 a)
    else
      match (if rd then firstPoison s p.loc p.len else none) with
      | some l => some (poisonFault s l (a + BitVec.ofNat 64 (l - p.loc)))
      | none => partFault s rd (a + BitVec.ofNat 64 p.len) ps

/-- A performed write to bytes 0 to 7 of configuration mailboxes starts a command of each whose port has none in progress, when its CMD is
nonzero (R377, R379). -/
def startPorts (s : State) (d off n : Nat) : State :=
  ((List.range Config.tilesPerDie).filter (fun t => decide (off < 0x1008 + 128 * t) && decide (0x1000 + 128 * t < off + n))).foldl (fun s t =>
    let x := s.tile d t
    let w := BitVec.ofNat 64 (mnat s.mem (dbLoc d 239 (0x1000 + 128 * t)) 8)
    if x.cfg.cmd.isSome ∨ w.truncate 8 = 0#8 then s else s.setTile d t { x with cfg := { x.cfg with cmd := some w, result := none } }) s

/-- What a write of `n` bytes at a location starts. -/
def afterWrite (s : State) (loc n : Nat) : State :=
  let o := loc - 2 ^ 58
  if 2 ^ 58 ≤ loc ∧ o / 2 ^ 21 % 240 = 239 then startPorts s (o / 2 ^ 21 / 240) (o % 2 ^ 21) n else s

/-- Whether a location lies in the mailbox of a configuration port that has a command in progress: writes to it are ignored (R377, R379). -/
def boxBusy (s : State) (loc : Nat) : Bool :=
  let o := loc - 2 ^ 58
  let i := o % 2 ^ 21
  decide (2 ^ 58 ≤ loc) && o / 2 ^ 21 % 240 == 239 && decide (0x1000 ≤ i) && decide (i < 0x1000 + 128 * Config.tilesPerDie) &&
    (s.tile (o / 2 ^ 21 / 240) ((i - 0x1000) / 128)).cfg.cmd.isSome

/-- What a write of bytes at a location leaves there: bytes in a busy mailbox stay (R379). -/
def keepBusy (s : State) : Nat → List Byte → List Byte
  | _, [] => []
  | loc, b :: bs => (if boxBusy s loc then mget s.mem loc else b) :: keepBusy s (loc + 1) bs

/-- Bytes put at a location; a store that covers a whole 8-byte word clears its poison (R74). -/
def putBytes (s : State) (loc : Nat) (bs : List Byte) : State :=
  { s with
    mem := mwrite s.mem loc bs
    poison := s.poison.filter (fun w => !(decide (loc ≤ w) && decide (w + 8 ≤ loc + bs.length) && !boxBusy s w)) }

/-- Write bytes at a location. -/
def writeLoc (s : State) (loc : Nat) (bs : List Byte) : State := afterWrite (putBytes s loc (keepBusy s loc bs)) loc bs.length

/-- Write the bytes of an access to its routed parts in order. -/
def writePlaces (s : State) : List Place → List Byte → State
  | [], _ => s
  | p :: ps, bs => writePlaces (writeLoc s p.loc (bs.take p.len)) ps (bs.drop p.len)

/-- The number of the access counter of a frame for a requesting die of a package (R46). -/
def accessKey (pa pkg die : Nat) : Nat := pa / 65536 * 4096 + pkg * 4 + die

/-- An access counter rises by 1, saturating at 16 bits (R46). -/
def countAccess (s : State) (pa pkg die : Nat) : State :=
  let k := accessKey pa pkg die
  { s with access := tset s.access k (min 65535 (tget s.access k 0 + 1)) }

/-- Count an access at its home: the access counter of the frame (R46) and the owner's tollbooth bytes (R338). -/
def countPlace (s : State) (q : Req) (p : Place) : State :=
  if isBuffer p.loc then s
  else
    let s := if q.nc || isHost p.loc then s else countAccess s p.loc s.pkg.toNat q.agent.die
    if q.agent.isHub || isHost p.loc then s
    else
      let t := s.toll q.owner
      s.setToll q.owner (if locLpd p.loc then { t with lpd := min (2 ^ 64 - 1) (t.lpd + p.len) }
        else { t with hbm := min (2 ^ 64 - 1) (t.hbm + p.len) })

/-- Count every part of an access. -/
def countPlaces (s : State) (q : Req) : List Place → State
  | [] => s
  | p :: ps => countPlaces (countPlace s q p) q ps

/-! ## Accesses that an operation or an instruction performs itself

A copy, a stream, a generator, a run's port and an instruction that reads a descriptor perform their accesses within their own step. One that a
migration holds, or that is remote, first stands in State.pend as a probe; MEMORY_ACCESS_PERFORM answers it, and once every access of the step
has its answer the step is made (R47, R48, R173, R321, R355). -/

/-- The kind of the probes of a request: of the device, of an operation, or of the instruction at the agent's PC. -/
def Req.probe (q : Req) : AccKind :=
  match q.dev with
  | some n => .device n
  | none => .probe q.tok

/-- Whether a waiting access is a probe, which the home does not perform by itself. -/
def isProbe (p : Pending) : Bool :=
  match p.kind with
  | .probe _ | .device _ => true
  | .load .. | .store _ | .atom .. | .cas .. => false

/-- Whether an entry is a probe of a request: of its operation or record, or of the instruction at its agent's PC. -/
def sameProbe (s : State) (q : Req) (p : Pending) : Bool :=
  decide (p.agent = q.agent) && decide (p.kind = q.probe) && (q.tok.isSome || q.dev.isSome || p.pc == (s.ctx q.agent).pc)

/-- The locations of routed parts. -/
def partsOf (ps : List Place) : List (Nat × Nat) := ps.map (fun p => (p.loc, p.len))

/-- Whether the home has answered the probe of an access of a request. -/
def answered (s : State) (q : Req) (ps : List Place) : Bool :=
  s.pend.any (fun p => sameProbe s q p && p.answered && decide (p.parts = partsOf ps))

/-- The fault that an access of the device has come to while it waited. -/
def deviceFault (s : State) (q : Req) (ps : List Place) : Option FaultInfo :=
  if q.dev.isNone then none else (s.pend.find? (fun p => sameProbe s q p && p.failed.isSome && decide (p.parts = partsOf ps))).bind (·.failed)

/-- The access that a request leaves waiting for its home. -/
def pendOf (s : State) (q : Req) (k : AccKind) (a : Word) (n len : Nat) (ps : List Place) : Pending :=
  { agent := q.agent, kind := k, addr := a, size := n, len := len, nc := q.nc
    owner := q.owner, task := q.task, apTile := q.apTile, apClus := q.apClus, apDie := q.apDie
    parts := partsOf ps, pc := (s.ctx q.agent).pc, arr := s.arrivals
    remote := ps.any (fun p => offDie s q.agent.die p.loc && !isHost p.loc)
    host := ps.any (fun p => isHost p.loc) }

/-- The request of a waiting access, as it stood at its issue. -/
def Pending.req (p : Pending) : Req := ⟨p.agent, p.apTile, p.apClus, p.apDie, p.owner, p.task, p.nc, false, none, true, none⟩

/-- An access waits for its home, after those that have come before it. -/
def addPend (s : State) (p : Pending) : State := { s with pend := s.pend ++ [p], arrivals := s.arrivals + 1 }

/-- Whether a migration holds a waiting access at its home (R47). -/
def isHeld (s : State) (p : Pending) : Bool := !p.answered && p.parts.any (fun x => locked s x.1 x.2)

/-- An access waits: its probe stands in State.pend, once. `bs` are the bytes that it is to write. -/
def noteProbe (s : State) (q : Req) (a : Word) (n : Nat) (ps : List Place) (bs : List Byte := []) : State :=
  if !q.waits || s.pend.any (fun p => sameProbe s q p && !p.answered && p.addr == a && decide (p.parts = partsOf ps)) then s
  else
    addPend { s with pend := s.pend.filter (fun p => !(sameProbe s q p && !p.answered)) } { pendOf s q q.probe a n n ps with data := bs }

/-- The step of a request is made: its probes go. -/
def dropProbes (s : State) (q : Req) : State := { s with pend := s.pend.filter (fun p => !sameProbe s q p) }

/-- The number that stands for a transformed copy's writes, beside its token for its reads. -/
def drainProbe (t : Nat) : Nat := 16 + t

/-- Every probe of a token goes: its operation has made its step or ended. -/
def clearProbes (s : State) (a : Agent) (t : Nat) : State :=
  { s with pend := s.pend.filter (fun p =>
      !(decide (p.agent = a) && (decide (p.kind = .probe (some t)) || decide (p.kind = .probe (some (drainProbe t)))))) }

/-- The token that the number of a probe stands for. -/
def probeTok (t : Nat) : Nat := if 16 ≤ t then t - 16 else t

/-- Every probe of an agent's instruction goes: it has retired, or it is abandoned. -/
def endProbes (s : State) (a : Agent) : State :=
  { s with pend := s.pend.filter (fun p => !(decide (p.agent = a) && decide (p.kind = .probe none))) }

/-- The probes of an agent's instructions at other addresses go: it has left them. -/
def leaveProbes (s : State) (a : Agent) : State :=
  { s with pend := s.pend.filter (fun p => !(decide (p.agent = a) && decide (p.kind = .probe none) && p.pc != (s.ctx a).pc)) }

/-- Whether the instruction at an agent's PC waits for the answer to its probe. -/
def probing (s : State) (a : Agent) : Bool :=
  s.pend.any (fun p => decide (p.agent = a) && decide (p.kind = .probe none) && !p.answered && p.pc == (s.ctx a).pc)

/-- What remains of an attempt that must wait: its probe, and the walks it has queued. -/
def State.waiting (s s1 : State) : State :=
  (List.range Config.dies).foldl (fun s d => s.modDie d (fun y => { y with walks := (s1.die d).walks }))
    { s with pend := s1.pend, arrivals := s1.arrivals }

/-- Whether a routed access must wait. -/
def waitsNow (s : State) (q : Req) (ps : List Place) : Bool :=
  ps.any (fun p => locked s p.loc p.len) || (q.waits && !answered s q ps && ps.any (mustWait s q.agent.die))

/-- The fault of a routed access that a request performs itself: what the device has come to while it waited, or that of the first part that
fails at its home. -/
def homeFault (s : State) (q : Req) (rd : Bool) (a : Word) (ps : List Place) : Option FaultInfo :=
  match deviceFault s q ps with
  | some f => some f
  | none => partFault s rd a ps

/-- Whether an access of the device for a function is one to host memory that its interface forbids (R355 detail 0x04). -/
def deviceBarred (s : State) (q : Req) (need : Need) (v : Nat) (a : Word) (n : Nat) : Bool :=
  funcBarred s v && (match (route s q need a n).2 with
  | .ok ps => ps.any (fun p => isHost p.loc)
  | _ => false)

/-- A read of `n` bytes that an operation or an instruction performs itself; `later` while a part is held or its home has not answered. -/
def readNeed (s : State) (q : Req) (need : Need) (a : Word) (n : Nat) : State × Try (List Byte) :=
  match route s q need a n with
  | (s, .fault f) => (s, .fault f)
  | (s, .later) => (s, .later)
  | (s, .ok ps) =>
    if waitsNow s q ps then (noteProbe s q a n ps, .later)
    else
      match homeFault s q true a ps with
      | some f => (s, .fault f)
      | none => (countPlaces s q ps, .ok (readPlaces s ps))

/-- An engine's or a descriptor's read of `n` bytes. -/
def readGen (s : State) (q : Req) (a : Word) (n : Nat) : State × Try (List Byte) := readNeed s q .load a n

/-- An engine's write of bytes; `later` while a part is held or its home has not answered. -/
def writeGen (s : State) (q : Req) (a : Word) (bs : List Byte) : State × Try Unit :=
  match route s q .store a bs.length with
  | (s, .fault f) => (s, .fault f)
  | (s, .later) => (s, .later)
  | (s, .ok ps) =>
    if waitsNow s q ps then (noteProbe s q a bs.length ps bs, .later)
    else
      match homeFault s q false a ps with
      | some f => (s, .fault f)
      | none => (countPlaces (writePlaces s ps bs) q ps, .ok ())

/-! ## Bytes that an operation has written itself (R275) -/

/-- The bytes of routed parts, each as it was before the operation first wrote it. -/
def oldBytes (s : State) (own : Tab Byte) (ps : List Place) : List Byte :=
  ps.flatMap (fun p => (List.range p.len).map (fun i => (tfind own (p.loc + i)).getD (mget s.mem (p.loc + i))))

/-- An engine's read that never sees what the operation has written itself: each such byte reads as it was before (R275). -/
def readGenOwn (s : State) (q : Req) (own : Tab Byte) (a : Word) (n : Nat) : State × Try (List Byte) :=
  match readGen s q a n with
  | (s1, .ok bs) =>
    if own.isEmpty then (s1, .ok bs)
    else
      match (route s1 q .load a n).2 with
      | .ok ps => (s1, .ok (oldBytes s1 own ps))
      | _ => (s1, .ok bs)
  | e => e

/-- The bytes that an operation has written, with those of one more write. -/
def noteOwn (s : State) (q : Req) (own : Tab Byte) (a : Word) (n : Nat) : Tab Byte :=
  match (route s q .store a n).2 with
  | .ok ps => ps.foldl (fun own p => (List.range p.len).foldl (fun own i =>
      if (tfind own (p.loc + i)).isSome then own else tset own (p.loc + i) (mget s.mem (p.loc + i))) own) own
  | _ => own

end Sys2Proof.Machine
end

