-- ==== Sys2Proof/Machine/Ops.lean ====
section
/-! DEFINITION. The shared operations of the strand instruction set: registers, issue, the loop-end step, tokens, taking a
fault (the halt line, the hub handler, freezing) and the return from a handler. -/

namespace Sys2Proof.Machine

/-! ## Registers (R16) -/

/-- s[n]; s0 reads as zero. -/
def Ctx.getS (c : Ctx) (n : SReg) : Word := if n = 0 then 0 else tget c.s n.toNat 0
/-- Write s[n]; a write to s0 is discarded. -/
def Ctx.putS (c : Ctx) (n : SReg) (v : Word) : Ctx := if n = 0 then c else { c with s := tset c.s n.toNat v }
/-- p[n]; p0 reads as 1. -/
def Ctx.getP (c : Ctx) (n : PReg) : Bool := n == 0 || c.p.getLsbD n.toNat
/-- Write p[n]; a write to p0 is discarded. -/
def Ctx.putP (c : Ctx) (n : PReg) (v : Bool) : Ctx :=
  if n = 0 then c else { c with p := if v then c.p ||| (1#8 <<< n.toNat) else c.p &&& ~~~(1#8 <<< n.toNat) }
/-- The stream register q[n]. -/
def Ctx.getQ (c : Ctx) (n : Nat) : Stream := tget c.q n {}
/-- Write the stream register q[n]. -/
def Ctx.putQ (c : Ctx) (n : Nat) (v : Stream) : Ctx := { c with q := tset c.q n v }
/-- The token t[n]. -/
def Ctx.getTok (c : Ctx) (n : Nat) : Token := tget c.tok n {}
/-- Write the token t[n]. -/
def Ctx.putTok (c : Ctx) (n : Nat) (v : Token) : Ctx := { c with tok := tset c.tok n v }
/-- A schedule slot. -/
def Ctx.getSch (c : Ctx) (n : Nat) : SchSlot := tget c.sch n {}
/-- Write a schedule slot. -/
def Ctx.putSch (c : Ctx) (n : Nat) (v : SchSlot) : Ctx := { c with sch := tset c.sch n v }

/-- s[n] of an agent. -/
def State.getS (s : State) (a : Agent) (n : SReg) : Word := (s.ctx a).getS n
/-- Write s[n] of an agent. -/
def State.putS (s : State) (a : Agent) (n : SReg) (v : Word) : State := s.modCtx a (·.putS n v)
/-- p[n] of an agent. -/
def State.getP (s : State) (a : Agent) (n : PReg) : Bool := (s.ctx a).getP n
/-- Write p[n] of an agent. -/
def State.putP (s : State) (a : Agent) (n : PReg) (v : Bool) : State := s.modCtx a (·.putP n v)
/-- A token of an agent. -/
def State.getTok (s : State) (a : Agent) (n : Nat) : Token := (s.ctx a).getTok n
/-- Write a token of an agent. -/
def State.putTok (s : State) (a : Agent) (n : Nat) (st : TokSt) (cause : Byte := 0) : State :=
  s.modCtx a (·.putTok n ⟨st, cause⟩)
/-- Whether a token is settled: DONE, ERROR or IDLE (R110). -/
def tokSettled (t : Token) : Bool := t.st != .busy

/-! ## Issue (R249) -/

/-- Whether the task of an agent is halted. -/
def State.halted (s : State) (a : Agent) : Bool :=
  match (s.taskOf a).bind s.task with
  | none => false
  | some k => k.halt.isSome

/-- Whether a schedule that its strand starts with has not read its table yet (R329). -/
def schStarting (c : Ctx) : Bool := c.sch.any (fun e => e.2.st == .run && e.2.count == 0)

/-- The duty pattern of the coming cycle: a new one takes effect at index 0 mod 32 (R165). -/
def dutyNow (x : Region) : Region :=
  match x.dutyNext with
  | some p => if x.dutyIdx % 32 = 0 then { x with duty := p, dutyNext := none } else x
  | none => x

/-- Whether the coming cycle's duty bit is 1; a pattern of zero is taken as 1 (R165). -/
def dutyBit (x : Region) : Bool := (if x.duty = 0 then 1#32 else x.duty).getLsbD (x.dutyIdx % 32)

/-- Whether a region has a run that takes cycles and its coming cycle is an empty one (R162, R165). -/
def emptyNext (x : Region) : Bool :=
  match x.run with
  | none => false
  | some u => u.started && u.fault.isNone && !u.stopped && !dutyBit (dutyNow x)

/-- Whether a strand is offered in the coming cycle of its tile: not in one that is empty for the run of its region, nor while its tile is in a
gear or spine change or a package stall (R249, R290). -/
def offered (s : State) (a : Agent) : Bool :=
  (s.tile a.die a.tile).st == .run && !s.shake && !((s.region ⟨a.die, a.tile, a.slot⟩).any emptyNext)

/-- Whether an agent may issue: it runs, waits for nothing (no fetch or read of its instruction is on its way, and its first schedules have
started), has not faulted or been frozen, its task is not halted, and a strand is offered (R249, R290, R329). -/
def State.ready (s : State) (a : Agent) : Bool :=
  let c := s.ctx a
  c.run == .running && c.stall == .none && !probing s a && !schStarting c && !c.frozen && c.fault == none && !s.halted a &&
  (a.isHub || offered s a)

/-- The strand slots after the one that issued last, in slot order, wrapping from 3 to 0 (R249). -/
def slotOrder (last : Nat) : List Nat := [(last + 1) % 4, (last + 2) % 4, (last + 3) % 4, last % 4]

/-- The agent that issues when the current unit has its turn. -/
def State.issuer (s : State) : Option Agent :=
  match s.cur with
  | .tile d t => ((slotOrder (s.tile d t).last).map (Agent.strand d t)).find? s.ready
  | .hub d c => if s.ready (.hub d c) then some (.hub d c) else none
  | .gen .. => none

/-- Note the slot that issues (R249). -/
def noteIssue (s : State) (a : Agent) : State :=
  match a with
  | .strand d t k => s.modTile d t (fun x => { x with last := k })
  | .hub .. => s

/-- Whether a word's guard holds (R18). -/
def guardHolds (c : Ctx) (g : Guard) : Bool := c.getP g.pg != g.pn

/-! ## The loop-end step (R260) -/

/-- The loop-end step after a word at `e`, over the loop stack from its top. -/
def loopEnd (e : Word) : List LoopEntry → Ctx → Ctx
  | [], c => { c with loops := [], pc := e + 8 }
  | l :: ls, c =>
    if l.last = e then
      let i := l.i + 1
      if i.toNat < l.n.toNat then { c with loops := { l with i := i } :: ls, pc := l.head }.putS l.xreg i
      else loopEnd e ls c
    else { c with loops := l :: ls, pc := e + 8 }

/-- A word that executed, or whose guard failed, retires and is not taken. -/
def Ctx.retire (c : Ctx) : Ctx := loopEnd c.pc c.loops c

/-- The agent's word retires and is not taken; the answers to its probes go with it. -/
def State.retire (s : State) (a : Agent) : State := (endProbes s a).modCtx a Ctx.retire

/-- An agent's stalled instruction ends: it retires. -/
def State.endStall (s : State) (a : Agent) : State :=
  (endProbes s a).modCtx a (fun c => Ctx.retire { c with stall := .none, ticks := 0 })

/-- An agent stalls. -/
def State.stallOn (s : State) (a : Agent) (w : Stall) : State := s.modCtx a (fun c => { c with stall := w, ticks := 0 })

/-! ## The halt line (R340) -/

/-- Discard the timed sends held in the tiles of a task (R318). -/
def dropSends (s : State) : List (Nat × Nat) → State
  | [] => s
  | (d, t) :: ts => dropSends (s.modTile d t (fun x => { x with sends := [] })) ts

/-- Raise the halt line of a task's partition; a second cause while it is up raises nothing further (R340). -/
def haltTask (s : State) (n : Nat) (why : HaltWhy) : State :=
  match s.task n with
  | none => s
  | some k =>
    if k.halt.isSome then s
    else
      dropSends (s.setTask n { k with
        halt := some why, haltTick := (s.die k.die).tick, haltTicks := 0
        firstCls := none, fastSeen := false, fatal := false, stops := [] }) k.tiles

/-- Raise the halt line of an agent's partition, if it has one. -/
def haltAgent (s : State) (a : Agent) : State :=
  match s.taskOf a with
  | none => s
  | some n => haltTask s n .fault

/-! ## Freezing (R344) -/

/-- The first FRZ entry not in use. -/
def freeFrz (y : Die) : Option Nat := (List.range 16).find? (fun n => (tfind y.frz n).isNone)

/-- Log a frozen master in its die's FRZ entries. -/
def logFreeze (s : State) (d : Nat) (z : Frz) : State :=
  s.modDie d (fun y =>
    match freeFrz y with
    | some n => { y with frz := tset y.frz n z }
    | none => { y with frzOvf := true })

/-- Freeze a strand or hub core and log it; kinds 0 and 4 (R344). -/
def freezeAgent (s : State) (a : Agent) (det : Nat) (wd : Bool) : State :=
  let z : Frz := if a.isHub then ⟨4, a.slot, 0, det, wd, a, none, 0⟩
    else ⟨0, (s.taskOf a).getD 0, (s.ctx a).ltile, det, wd, a, none, 0⟩
  logFreeze (s.modCtx a (fun c => { c with frozen := true })) a.die z

/-! ## Taking a fault -/

/-- An agent's instruction is abandoned: the accesses that it has issued are performed, and nothing takes their values; its probes go
(R250, R340). -/
def abandonPend (s : State) (a : Agent) : State :=
  { endProbes s a with pend := (endProbes s a).pend.map (fun p => if p.agent = a ∧ isProbe p = false then { p with stale := true } else p) }

/-- A hub core's handler entry, or its double fault (R251). -/
def hubEnter (s : State) (d k : Nat) (f : FaultInfo) : State :=
  let a := Agent.hub d k
  let c := s.ctx a
  let s := abandonPend s a
  if c.hstat then
    (s.setCtx a { c with run := .halted, stall := .none }).modDie d (fun y =>
      { y with dblf := y.dblf ||| (1#4 <<< k), stop := y.stop ||| (1#4 <<< k) })
  else
    s.setCtx a { c with
      hepc := c.pc
      hcause := BitVec.ofNat 64 (f.cls * 256 + f.detail)
      hfaddr := f.addr
      hstat := true
      stall := .none
      pc := c.htvec &&& ~~~7#64 }

/-- A fault with the tick count of the die that reports it (R341). -/
def stamp (s : State) (d : Nat) (f : FaultInfo) : FaultInfo := { f with tick := (s.die d).tick }

/-- A strand's fault: it is kept for the stop record and raises the halt line (R340); ISOL freezes the strand too (R344). -/
def strandFault (s : State) (a : Agent) (f : FaultInfo) : State :=
  let f := if f.cls = clsIsol then { f with info0 := 0, info1 := BitVec.ofNat 64 ((s.taskOf a).getD 0) } else f
  let s := s.modCtx a (fun c => { c with fault := some (stamp s a.die f), stall := .none, ticks := 0 })
  let s := if f.cls = clsIsol then freezeAgent s a f.detail false else s
  haltAgent s a

/-- Take a fault at an agent's current instruction: a hub core enters its handler, or is frozen by ISOL; a strand raises its
partition's halt line (R251, R340, R344). -/
def takeFault (s : State) (a : Agent) (f : FaultInfo) : State :=
  match a with
  | .hub d k => if f.cls = clsIsol then freezeAgent s a f.detail false else hubEnter s d k f
  | .strand .. => strandFault s a f

/-- The return from a handler (R268), for an aligned HEPC. -/
def hubReturn (s : State) (a : Agent) : State := s.modCtx a (fun c => { c with pc := c.hepc, hstat := false })

/-! ## Running a strand instruction -/

/-- What the effect of a strand instruction comes to. -/
inductive Res where
  /-- it executed and is not taken -/
  | ok (s : State)
  /-- a taken transfer to an address -/
  | taken (s : State) (pc : Word)
  /-- it raises a fault -/
  | fault (s : State) (f : FaultInfo)
  /-- it stalls, or is not begun -/
  | wait (s : State)

/-- An agent issues a word with a guard and an effect (R18, R249, R250). -/
def issueAs (g : Guard) (s : State) (a : Agent) (f : State → Agent → Res) : State :=
  let s1 := noteIssue s a
  if guardHolds (s1.ctx a) g then
    match f s1 a with
    | .ok s2 => s2.retire a
    | .taken s2 pc => (endProbes s2 a).modCtx a (fun c => { c with pc := pc })
    | .fault s2 x => takeFault s2 a x
    | .wait s2 => s2
  else s1.retire a

/-- The current unit issues a word; with no ready agent nothing happens. -/
def runStrand (g : Guard) (s : State) (f : State → Agent → Res) : Host.Outcome State Fault Refusal :=
  match s.issuer with
  | none => .next s
  | some a => .next (issueAs g s a f)

/-- An effect that always executes. -/
def runOk (g : Guard) (s : State) (f : State → Agent → State) : Host.Outcome State Fault Refusal :=
  runStrand g s (fun s a => .ok (f s a))

/-! ## Tokens and operations (R96) -/

/-- Issue on a token: TOKEN detail 0x01 if it is BUSY, 0x02 if it is ERROR (R95, R96). -/
def tokenCheck (s : State) (a : Agent) (t : Nat) : Option FaultInfo :=
  match (s.getTok a t).st with
  | .busy => some (flt clsToken 1)
  | .error => some (flt clsToken 2)
  | .idle | .done => none

/-- Whether a REPORT record of the operation last on a token is still to be written, which holds the next issue (R342). -/
def reportPending (s : State) (a : Agent) (t : Nat) : Bool :=
  match s.op a t with
  | none => false
  | some o => o.fault.isSome

/-- Start an operation on a token: BUSY, with the next sequence number (R89, R99). -/
def startOp (s : State) (o : EngOp) : State :=
  let s := { clearProbes s o.agent o.tok.toNat with opSeq := s.opSeq + 1 }
  (s.setOp o.agent o.tok.toNat { o with st := .queued s.opSeq, seq := s.opSeq }).putTok o.agent o.tok.toNat .busy

/-- A WAIT that masks a token makes progress: its watchdog resets (R173). -/
def noteProgress (s : State) (a : Agent) (t : Nat) : State :=
  s.modCtx a (fun c =>
    match c.stall with
    | .wait _ _ m => if m.getLsbD t then { c with ticks := 0 } else c
    | _ => c)

/-- A token leaves BUSY (R96); no access of its operation waits any more. -/
def settleTok (s : State) (a : Agent) (t : Nat) (st : TokSt) (cause : Byte := 0) : State :=
  noteProgress ((clearProbes s a t).putTok a t st cause) a t

/-- An operation completes: its token goes DONE (R96). -/
def opDone (s : State) (a : Agent) (t : Nat) : State := settleTok (s.delOp a t) a t .done

/-- The SRC and master kind of an operation (R341, R344). -/
def opFreezeKind : OpKind → Nat
  | .copy | .fill | .xform | .coll | .tsend => 1
  | .run => 2
  | .merge .. | .route | .hacc .. | .hflush .. | .feed .. | .drain .. | .grun .. | .grunT .. | .ginv .. => 3

/-- The number of the master that performs an operation: its copy engine, which is a free choice of the 32, or its task (R344). -/
def masterId (s : State) (o : EngOp) : Nat × State :=
  if opFreezeKind o.kind = 1 then (s.fresh.1.toNat % 32, s.fresh.2) else ((s.taskOf o.agent).getD 0, s)

/-- An ISOL or WATCHDOG fault with its master's kind and number (R341). -/
def masterInfo (f : FaultInfo) (kind id : Nat) : FaultInfo :=
  { f with info0 := BitVec.ofNat 64 kind, info1 := BitVec.ofNat 64 id }

/-- The SRC code of an operation (R341). -/
def opSrc : OpKind → Nat
  | .copy | .fill | .xform => 1
  | .run => 2
  | .merge .. => 3
  | .route => 4
  | .hacc .. | .hflush .. => 5
  | .grun _ | .grunT _ | .ginv _ => 6
  | .feed _ | .drain _ => 7
  | .tsend => 8
  | .coll => 9

/-- Freeze the engine of an operation: a copy engine leaves its die's pool; an irregular engine serves no task until it is released (R344). -/
def freezeOp (s : State) (o : EngOp) (id det : Nat) (wd : Bool) : State :=
  let d := o.agent.die
  let z : Frz := ⟨opFreezeKind o.kind, id, (s.ctx o.agent).ltile, det, wd, o.agent, some o.tok.toNat, opSrc o.kind⟩
  let s := match opFreezeKind o.kind with
    | 1 => s.modDie d (fun y => { y with lost := y.lost + 1 })
    | 3 => s.modTile d o.agent.tile (fun x => { x with dead := opSrc o.kind :: x.dead.filter (· != opSrc o.kind) })
    | _ => s
  logFreeze s d z

/-- Whether the engine of an operation is a frozen irregular engine (R344). -/
def engineDead (s : State) (o : EngOp) : Bool :=
  opFreezeKind o.kind == 3 && (s.tile o.agent.die o.agent.tile).dead.any (· == opSrc o.kind)

/-- HASHST notes a HACC that ends in ERROR: its token, and the first update not applied (R120, R127). -/
def noteHacc (s : State) (o : EngOp) : State :=
  match o.kind with
  | .hacc .. => s.modCtx o.agent (fun c => { c with hashst := BitVec.ofNat 64 (o.tok.toNat * 2 ^ 32 + o.start) })
  | _ => s

/-- An operation meets a fault: with REPLAY or RESUME status it stays BUSY and the partition halts; otherwise its token goes ERROR with
the cause given, and the partition halts unless the status is REPORT (R92, R339). A hub core's operation ends in ERROR and
the core enters its handler (DEDUCED, log entry 12). -/
def opFault (s : State) (a : Agent) (t : Nat) (f : FaultInfo) (cause : Byte := 1) : State :=
  match s.op a t with
  | none => s
  | some o =>
    let isol := f.cls = clsIsol
    let m := if isol then masterId s o else (0, s)
    let s := m.2
    let f := if isol then masterInfo f (opFreezeKind o.kind) m.1 else f
    if a.isHub then
      let s := settleTok ((noteHacc s o).delOp a t) a t .error cause
      if isol then freezeOp s o m.1 f.detail false
      else if fstatus f.cls f.detail = .none then s
      else takeFault s a f
    else
      match fstatus f.cls f.detail with
      | .replay | .resume => haltAgent (s.setOp a t { o with fault := some (stamp s a.die f) }) a
      | .report => settleTok ((noteHacc s o).setOp a t { o with fault := some (stamp s a.die f) }) a t .error cause
      | .none => settleTok ((noteHacc s o).delOp a t) a t .error cause
      | .fatal | .hardware =>
        let s := settleTok ((noteHacc s o).setOp a t { o with fault := some (stamp s a.die f), frozen := f.cls == clsIsol }) a t .error cause
        let s := if isol then freezeOp s o m.1 f.detail false else s
        haltAgent s a

/-! ## Time -/

/-- The offset of an agent's group on a die (R311). -/
def mpOff (s : State) (a : Agent) (d : Nat) : Word :=
  if a.isHub then tget s.hubMpoff d 0
  else
    match (s.taskOf a).bind s.task with
    | none => 0
    | some k => tget k.mpoff d 0

/-- The visible milepost of a die for an agent's group (R311). -/
def visible (s : State) (a : Agent) (d : Nat) : Word := (s.die d).raw + mpOff s a d

end Sys2Proof.Machine
end

