-- ==== Sys2Proof/Machine/Operands.lean ====
section
/-! DEFINITION. The operand forms of the strand instructions: sources (R21, R252), effective addresses (R22, R99). -/

namespace Sys2Proof.Machine

/-- The second source of an SR/SI instruction: a register, or the immediate sign-extended to 64 bits (R21, R252). -/
def srcVal (c : Ctx) : Src → Word
  | .reg b => c.getS b
  | .imm v => v.signExtend 64

/-- SizeOf of a size code: 1, 2, 4 or 8 (R35). -/
def sizeOf (z : BitVec 2) : Nat := 2 ^ z.toNat

/-- The effective address of an SM instruction (R22). -/
def effAddr (c : Ctx) (z : BitVec 2) (a b : SReg) (off : BitVec 29) : Word :=
  c.getS a + c.getS b * BitVec.ofNat 64 (sizeOf z) + off.signExtend 64

/-- A base register and a 29-bit byte offset (R87, R99). -/
def baseOff (c : Ctx) (a : SReg) (off : BitVec 29) : Word := c.getS a + off.signExtend 64

/-- A base register and ATOM's 25-bit byte offset (R85). -/
def baseOff25 (c : Ctx) (a : SReg) (off : BitVec 25) : Word := c.getS a + off.signExtend 64

/-- A transfer target: PC + 8 × SignExtend(IMM, 32) (R21). -/
def relTarget (pc : Word) (off : BitVec 32) : Word := pc + off.signExtend 64 * 8

/-- Whether an address is a multiple of n. -/
def aligned (a : Word) (n : Nat) : Bool := a.toNat % n == 0

/-- The second register of an LD2 or ST2 pair (R49). -/
def pairReg (d : SReg) : SReg := d + 1

/-- The base and size bits of a named window (R83), with its EN bit. -/
def windowReg (c : Ctx) (space : BitVec 2) : Word × Nat :=
  match space with
  | 0 => (c.apTile, 20)
  | 1 => (c.apClus, 22)
  | _ => (c.apDie, 29)

/-- Generic to relative through one window; all ones outside it or while it is disabled (R83). -/
def windowRel (c : Ctx) (space : BitVec 2) (v : Word) : Word :=
  let (r, b) := windowReg c space
  match inWindow r v b with
  | some o => BitVec.ofNat 64 o
  | none => BitVec.allOnes 64

/-- Relative to generic through one window (R83). -/
def windowGen (c : Ctx) (space : BitVec 2) (v : Word) : Word :=
  let (r, b) := windowReg c space
  if r.toNat.testBit 0 && v.toNat < 2 ^ b then BitVec.ofNat 64 (r.toNat / 2 ^ b * 2 ^ b + v.toNat)
  else BitVec.allOnes 64

/-- Whether an address lies in an enabled window: TILE, CLUSTER, DIE, or any (R84). -/
def inSpace (c : Ctx) (space : BitVec 2) (v : Word) : Bool :=
  match space with
  | 3 => (inWindow c.apTile v 20).isSome || (inWindow c.apClus v 22).isSome || (inWindow c.apDie v 29).isSome
  | k => (inWindow (windowReg c k).1 v (windowReg c k).2).isSome

end Sys2Proof.Machine
end

