-- ==== Sys2Proof/Machine/Flags.lean ====
section
/-! DEFINITION. The predicates that strand instructions compute (R256-R258, R110) and the sticky flags of a region
(R63). -/

namespace Sys2Proof.Machine

/-- The condition of CMP by its code (R256): eq, ne, lt, le, gt, ge, signed or natural. -/
def cmpCond (cond : BitVec 3) (sgn : Bool) (a b : Word) : Bool :=
  let lt := if sgn then a.slt b else a.ult b
  match cond with
  | 0 => a == b
  | 1 => a != b
  | 2 => lt
  | 3 => lt || a == b
  | 4 => !(lt || a == b)
  | _ => !lt

/-- The predicate operation of PLOG by its code (R257): and, or, xor, andn, orn, nand, nor, xnor. -/
def plogOp (op : BitVec 3) (a b : Bool) : Bool :=
  match op with
  | 0 => a && b
  | 1 => a || b
  | 2 => a != b
  | 3 => a && !b
  | 4 => a || !b
  | 5 => !(a && b)
  | 6 => !(a || b)
  | _ => a == b

/-- The predicates as a sum of p_i × 2^i; bit 0 is 1 (R258). -/
def predWord (c : Ctx) : Word := ((c.p ||| 1#8).zeroExtend 64)

/-- PMOV.SET: the masked predicates p1 to p7 take bits of a word (R258). -/
def predMask (c : Ctx) (v : Word) (m : BitVec 8) : Ctx :=
  let k := m &&& 0xFE#8
  { c with p := (c.p &&& ~~~k) ||| (v.truncate 8 &&& k) }

/-- The masked tokens of a WAIT. -/
def maskedToks (c : Ctx) (m : BitVec 8) : List Token :=
  ((List.range 8).filter (fun i => m.getLsbD i)).map c.getTok

/-- Whether a WAIT is over: all masked tokens settled, or in any mode at least one; a mask of 0 at once (R110). -/
def waitOver (c : Ctx) (any : Bool) (m : BitVec 8) : Bool :=
  m == 0 || (if any then (maskedToks c m).any tokSettled else (maskedToks c m).all tokSettled)

/-- The predicate of a WAIT: no masked token is ERROR (R110). -/
def waitPred (c : Ctx) (m : BitVec 8) : Bool := (maskedToks c m).all (fun t => t.st != .error)

/-- The code of a token state (R98). -/
def tokCode : TokSt → Nat
  | .idle => 0
  | .busy => 1
  | .done => 2
  | .error => 3

/-- TOKSTAT (R98). -/
def tokstat (c : Ctx) : Word :=
  BitVec.ofNat 64 (((List.range 8).map (fun i => tokCode (c.getTok i).st * 4 ^ i)).foldl (· + ·) 0)

/-- TOKERR (R98). -/
def tokerr (c : Ctx) : Word :=
  BitVec.ofNat 64 (((List.range 8).map (fun i => (c.getTok i).cause.toNat * 256 ^ i)).foldl (· + ·) 0)

end Sys2Proof.Machine
end

