-- ==== Sys2Proof/Machine/Num.lean ====
section
/-! DEFINITION. Number formats, exact values and the one rounding procedure (R36, R52-R67). -/

namespace Sys2Proof.Machine

/-- Which special codes a float format has (R54). -/
inductive Specials where
  | none | nanOnly | ieee
  deriving DecidableEq, Repr

/-- A number format (R52, R54, R56): integers of so many bits, naturals, K4X, and floats by exponent and mantissa bits. -/
inductive NFmt where
  | int (n : Nat)
  | nat (n : Nat)
  | k4x
  | float (eb mb bias : Nat) (sp : Specials)
  deriving DecidableEq, Repr

/-- FP32 (R54). -/
def fp32 : NFmt := .float 8 23 127 .ieee
/-- FP16 (R54). -/
def fp16 : NFmt := .float 5 10 15 .ieee
/-- BF16 (R54). -/
def bf16 : NFmt := .float 8 7 127 .ieee
/-- E5M2 (R54). -/
def e5m2 : NFmt := .float 5 2 15 .ieee
/-- E4M3 (R54). -/
def e4m3 : NFmt := .float 4 3 7 .nanOnly
/-- E3M2 (R54). -/
def e3m2 : NFmt := .float 3 2 3 .none
/-- E2M3 (R54). -/
def e2m3 : NFmt := .float 2 3 1 .none
/-- E2M1 (R54). -/
def e2m1 : NFmt := .float 2 1 1 .none

/-- The format of a tagged FMT code (R57). -/
def taggedFmt : Nat → Option NFmt
  | 0x01 => some (.int 2)
  | 0x02 => some (.int 4)
  | 0x03 => some (.int 6)
  | 0x04 => some (.int 8)
  | 0x05 => some (.int 16)
  | 0x06 => some (.nat 8)
  | 0x07 => some .k4x
  | 0x08 => some e2m1
  | 0x09 => some e2m3
  | 0x0A => some e3m2
  | 0x0B => some e4m3
  | 0x0C => some e5m2
  | 0x0D => some bf16
  | 0x0E => some fp16
  | _ => none

/-- Storage width of a format in bits (R57). -/
def fmtWidth : NFmt → Nat
  | .int n => n
  | .nat n => n
  | .k4x => 4
  | .float eb mb _ _ => 1 + eb + mb

/-- Storage width of a tagged FMT code. -/
def taggedWidth (k : Nat) : Nat := ((taggedFmt k).map fmtWidth).getD 0

/-- Whether a format is a float. -/
def fmtIsFloat : NFmt → Bool
  | .float .. => true
  | _ => false

/-! ## Exact values -/

/-- Exact zero of a sign. -/
def xzero (neg : Bool) : XNum := .fin neg 0 0
/-- The exact value of an integer. -/
def xint (i : Int) : XNum := .fin (decide (i < 0)) i.natAbs 0
/-- The sign of a value. -/
def xneg : XNum → Bool
  | .fin s _ _ => s
  | .inf s => s
  | .nan s => s
/-- Whether a value is a NaN. -/
def xisNan : XNum → Bool
  | .nan _ => true
  | _ => false
/-- Whether a value is a zero. -/
def xisZero : XNum → Bool
  | .fin _ m _ => m == 0
  | _ => false
/-- The value with its sign replaced. -/
def xsign (neg : Bool) : XNum → XNum
  | .fin _ m e => .fin neg m e
  | .inf _ => .inf neg
  | .nan _ => .nan neg
/-- The value times 2^k. -/
def xscale (x : XNum) (k : Int) : XNum :=
  match x with
  | .fin s m e => .fin s m (e + k)
  | y => y
/-- A signed mantissa at a lower exponent. -/
def xmant (neg : Bool) (m : Nat) (e lo : Int) : Int :=
  let v : Int := (m * 2 ^ (e - lo).toNat : Nat)
  if neg then -v else v
/-- Exact sum; a zero sum is +0 unless both are −0; ∞ + (−∞) and a NaN operand give a NaN of sign 0 (R86). -/
def xadd (a b : XNum) : XNum :=
  match a, b with
  | .nan _, _ => .nan false
  | _, .nan _ => .nan false
  | .inf s, .inf t => if s = t then .inf s else .nan false
  | .inf s, _ => .inf s
  | _, .inf s => .inf s
  | .fin s m e, .fin t n f =>
    if m = 0 ∧ n = 0 then .fin (s && t) 0 0
    else
      let lo := min e f
      let v := xmant s m e lo + xmant t n f lo
      if v = 0 then .fin false 0 0 else .fin (decide (v < 0)) v.natAbs lo
/-- Exact product; 0 × ∞ gives a NaN of sign 0. -/
def xmul (a b : XNum) : XNum :=
  match a, b with
  | .nan _, _ => .nan false
  | _, .nan _ => .nan false
  | .inf s, .inf t => .inf (s != t)
  | .inf s, .fin t n _ => if n = 0 then .nan false else .inf (s != t)
  | .fin s m _, .inf t => if m = 0 then .nan false else .inf (s != t)
  | .fin s m e, .fin t n f => .fin (s != t) (m * n) (e + f)
/-- Exact comparison of finite values and infinities: a < b. -/
def xlt (a b : XNum) : Bool :=
  match a, b with
  | .nan _, _ => false
  | _, .nan _ => false
  | .inf s, .inf t => s && !t
  | .inf s, _ => s
  | _, .inf t => !t
  | .fin s m e, .fin t n f => decide (xmant s m e (min e f) < xmant t n f (min e f))
/-- Exact equality, +0 and −0 being equal. -/
def xeq (a b : XNum) : Bool := !xisNan a && !xisNan b && !xlt a b && !xlt b a

/-! ## Codes and values (R52-R56) -/

/-- The value of a code (R35, R52-R56). -/
def valueOf (f : NFmt) (code : Nat) : XNum :=
  match f with
  | .int n => xint (sextNat code n)
  | .nat n => .fin false (code % 2 ^ n) 0
  | .k4x => xint (sextNat code 4)
  | .float eb mb bias sp =>
    let s := code.testBit (eb + mb)
    let e := (code >>> mb) % 2 ^ eb
    let m := code % 2 ^ mb
    let top := e = 2 ^ eb - 1
    if top ∧ sp = .ieee then (if m = 0 then .inf s else .nan s)
    else if top ∧ sp = .nanOnly ∧ m = 2 ^ mb - 1 then .nan s
    else if e = 0 then .fin s m (1 - (bias : Int) - mb)
    else .fin s (2 ^ mb + m) ((e : Int) - bias - mb)

/-- Whether a code is subnormal (R54). -/
def isSubnormal (f : NFmt) (code : Nat) : Bool :=
  match f with
  | .float eb mb _ _ => (code >>> mb) % 2 ^ eb == 0 && code % 2 ^ mb != 0
  | _ => false

/-- FlushIn (R35, R66): a subnormal code read as a zero of its sign. -/
def flushIn (f : NFmt) (ftzi : Bool) (code : Nat) : XNum :=
  if ftzi && isSubnormal f code then xzero (xneg (valueOf f code)) else valueOf f code

/-- The code of the largest finite magnitude, without sign (R52, R54). -/
def maxCode : NFmt → Nat
  | .int n => 2 ^ (n - 1) - 1
  | .nat n => 2 ^ n - 1
  | .k4x => 7
  | .float eb mb _ .none => 2 ^ (eb + mb) - 1
  | .float eb mb _ .nanOnly => 2 ^ (eb + mb) - 2
  | .float eb mb _ .ieee => (2 ^ eb - 1) * 2 ^ mb - 1

/-- MaxOf of a format (R35). -/
def maxOf (f : NFmt) : XNum := valueOf f (maxCode f)

/-- A magnitude code with a sign: the sign bit of a float, two's complement for an integer, 0 for a negative natural. -/
def withSign (f : NFmt) (neg : Bool) (mag : Nat) : Nat :=
  match f with
  | .float eb mb _ _ => if neg then 2 ^ (eb + mb) + mag else mag
  | .nat _ => if neg then 0 else mag
  | .int n => if neg then (2 ^ n - mag) % 2 ^ n else mag
  | .k4x => if neg then (16 - mag) % 16 else mag

/-- The canonical NaN of a format that has one (R55). -/
def nanOf (f : NFmt) (neg : Bool) : Option Nat :=
  match f with
  | .float eb mb _ .nanOnly => some (withSign f neg (2 ^ (eb + mb) - 1))
  | .float 5 2 _ .ieee => some (withSign f neg 0x7F)
  | .float eb mb _ .ieee => some (withSign f neg ((2 ^ eb - 1) * 2 ^ mb + 2 ^ (mb - 1)))
  | _ => none

/-- The infinity of a format that has one. -/
def infOf (f : NFmt) (neg : Bool) : Option Nat :=
  match f with
  | .float eb mb _ .ieee => some (withSign f neg ((2 ^ eb - 1) * 2 ^ mb))
  | _ => none

/-! ## Sticky flags (R63) and the RSR generator (R170) -/

/-- OVF. -/
def flgOVF : BitVec 5 := 1
/-- UNF. -/
def flgUNF : BitVec 5 := 2
/-- INV. -/
def flgINV : BitVec 5 := 4
/-- ISAT. -/
def flgISAT : BitVec 5 := 8
/-- BADESC. -/
def flgBADESC : BitVec 5 := 16

/-- What a rounding gives: the code, the sticky flags, and the RSR stream after it. -/
structure Rounded where
  code : Nat
  flg  : BitVec 5
  rsr  : Half
  deriving DecidableEq, Repr

/-- One step of the element's RSR stream (R170). -/
def rsrStep (z : Half) : Half :=
  let z := z ^^^ (z <<< 13)
  let z := z ^^^ (z >>> 17)
  z ^^^ (z <<< 5)

/-- RND codes (R26): whether to take z, the neighbour above, given the remainder of |x| at y: `num / den` of the gap, with
`odd` telling whether the code of y is odd. RSR draws 16 bits. -/
def roundUp (rnd : BitVec 2) (num den : Nat) (odd : Bool) (rsr : Half) : Bool × Half :=
  match rnd with
  | 0 => (decide (den ≤ 2 * num), rsr)
  | 1 => (decide (den < 2 * num) || (decide (2 * num = den) && odd), rsr)
  | 2 => (false, rsr)
  | _ =>
    let z := rsrStep rsr
    (decide ((z >>> 16).toNat < num * 65536 / den), z)

/-- Truncate m × 2^e to a multiple of 2^q: the multiple, and the remainder over its unit. -/
def truncAt (m : Nat) (e q : Int) : Nat × Nat × Nat :=
  if q ≤ e then (m * 2 ^ (e - q).toNat, 0, 1)
  else
    let den := 2 ^ (q - e).toNat
    (m / den, m % den, den)

/-- The quantum exponent of a format at a nonzero magnitude m × 2^e. -/
def quantum (f : NFmt) (m : Nat) (e : Int) : Int :=
  match f with
  | .float _ mb bias _ => max ((m.log2 : Int) + e) (1 - (bias : Int)) - mb
  | _ => 0

/-- The magnitude code of u quanta of 2^q. -/
def unitCode (f : NFmt) (u : Nat) (q : Int) : Nat :=
  match f with
  | .float _ mb bias _ => (q + mb + bias - 1).toNat * 2 ^ mb + u
  | _ => u

/-- RoundNarrow (R36), with the refinements of R52 and R53. -/
def roundNarrow (x : XNum) (f : NFmt) (rnd : BitVec 2) (ftzo : Bool) (rsr : Half) : Rounded :=
  match x with
  | .nan s =>
    (match nanOf f s with
    | some c => ⟨c, 0, rsr⟩
    | none => if fmtIsFloat f then ⟨withSign f s (maxCode f), flgINV, rsr⟩ else ⟨0, flgINV, rsr⟩)
  | .inf s =>
    (match infOf f s with
    | some c => if rnd = 2 then ⟨withSign f s (maxCode f), flgOVF, rsr⟩ else ⟨c, flgOVF, rsr⟩
    | none => ⟨withSign f s (maxCode f), flgOVF, rsr⟩)
  | .fin s m e =>
    if m = 0 then ⟨withSign f s 0, 0, rsr⟩
    else if xlt (maxOf f) (.fin false m e) then
      (match infOf f s with
      | some c => if rnd = 2 then ⟨withSign f s (maxCode f), flgOVF, rsr⟩ else ⟨c, flgOVF, rsr⟩
      | none => ⟨withSign f s (maxCode f), flgOVF, rsr⟩)
    else
      let q := quantum f m e
      let (y, num, den) := truncAt m e q
      let (up, rsr) := if num = 0 then (false, rsr) else roundUp rnd num den (unitCode f y q % 2 == 1) rsr
      let mag := unitCode f (if up then y + 1 else y) q
      let mag := if ftzo && isSubnormal f mag then 0 else mag
      let unf := if mag = 0 ∨ isSubnormal f mag then flgUNF else 0
      match f with
      | .nat _ => if s && mag ≠ 0 then ⟨0, flgOVF, rsr⟩ else ⟨mag, unf, rsr⟩
      | _ => ⟨withSign f s mag, unf, rsr⟩

/-- RoundNarrow to nearest even, with no flush, keeping subnormals (R86, R109). -/
def rne (f : NFmt) (x : XNum) : Nat := (roundNarrow x f 1 false 1).code

/-! ## The atomic units (R85, R86) -/

/-- The float sum of the atomic units and of reductions: no flush, RNE, the canonical NaN of sign 0 (R86). -/
def floatAdd (f : NFmt) (a b : Nat) : Nat := rne f (xadd (valueOf f a) (valueOf f b))

/-- The new value of an ATOM of n bytes (R85); reserved operations do not reach here (R19). -/
def atomNew (aop : BitVec 4) (n m v : Nat) : Nat :=
  let k := 8 * n
  match aop with
  | 0x0 => (m + v) % 2 ^ k
  | 0x1 => m &&& v
  | 0x2 => m ||| v
  | 0x3 => m ^^^ v
  | 0x4 => v
  | 0x5 => if sextNat m k ≤ sextNat v k then m else v
  | 0x6 => if sextNat m k ≤ sextNat v k then v else m
  | 0x7 => min m v
  | 0x8 => max m v
  | 0x9 => floatAdd fp32 m v
  | _ => floatAdd bf16 (m % 2 ^ 16) (v % 2 ^ 16) + floatAdd bf16 (m / 2 ^ 16) (v / 2 ^ 16) * 2 ^ 16

end Sys2Proof.Machine
end

