-- ==== Sys2Proof/Machine/Mem.lean ====
section
/-! DEFINITION. The meanings of loads, stores, atomics, PREF, the aperture instructions and FENCE, and the performing of an
access that waits for its home (R47-R51, R83-R88, R285). -/

namespace Sys2Proof.Machine

/-- What an access needs of its pages (R41). -/
def accNeed : AccKind → Need
  | .load .. => .load
  | .store _ => .store
  | .atom .. => .rmw
  | .cas .. => .rmw
  | .probe _ | .device _ => .load

/-- The PCIe AtomicOp of an ATOM to host memory exists (R88). -/
def hostAtomic : AccKind → Bool
  | .atom aop _ _ => aop == 0x0 || aop == 0x4
  | _ => true

/-- Write the elements of a load: s[D], and for a pair s[D+1], each of n bytes (R49). -/
def loadRegs (c : Ctx) (d : SReg) (pair : Bool) (n : Nat) (bs : List Byte) : Ctx :=
  let c1 := c.putS d (BitVec.ofNat 64 (leNat (bs.take n)))
  if pair then c1.putS (pairReg d) (BitVec.ofNat 64 (leNat (bs.drop n))) else c1

/-- Whether an access reads what stands at its home. -/
def accReads : AccKind → Bool
  | .store _ => false
  | .load .. | .atom .. | .cas .. | .probe _ | .device _ => true

/-- Perform an access whose parts are routed: the fault of its first failing part, else its effect in memory and in the issuer's
registers (R49, R50, R86, R87). `n` is the element size. The two elements of a pair, and the bytes of an access that is not single-copy
atomic, are performed together, which only another agent could tell apart (DESIGN CHOICE, log entry 104). -/
def performAt (s : State) (q : Req) (k : AccKind) (addr : Word) (n : Nat) (ps : List Place) : State × Try Unit :=
  let s1 := countPlaces s q ps
  match partFault s (accReads k) addr ps with
  | some f => (s, .fault f)
  | none =>
    match k with
    | .probe _ | .device _ => (s, .ok ())
    | .store bs => (writePlaces s1 ps bs, .ok ())
    | .load d pair => (s1.modCtx q.agent (fun c => loadRegs c d pair n (readPlaces s ps)), .ok ())
    | .atom aop d v =>
      let m := leNat (readPlaces s ps)
      ((writePlaces s1 ps (leBytes n (atomNew aop n m v.toNat))).putS q.agent d (BitVec.ofNat 64 m), .ok ())
    | .cas d e w =>
      let m := leNat (readPlaces s ps)
      ((if m = e.toNat then writePlaces s1 ps (leBytes n w.toNat) else s1).putS q.agent d (BitVec.ofNat 64 m), .ok ())

/-- Whether an access writes at its home. -/
def accWrites : AccKind → Bool
  | .store _ | .atom .. | .cas .. => true
  | .load .. | .probe _ | .device _ => false

/-- Whether a location lies within a scope of an agent (R278). A hub core's narrowest scope is its die. -/
def inScope (s : State) (u : Agent) (sc : ScopeCode) (loc : Nat) : Bool :=
  let n := sc.toNat
  if isBuffer loc then
    u.isHub || decide (3 ≤ n) || decide (loc / 2 ^ 20 = tbLoc u.die u.tile 0 / 2 ^ 20) ||
      (n == 2 && (decide (loc / 2 ^ 22 = cbLoc u.die (clusterOf u.tile) 0 / 2 ^ 22) ||
        (clusterTiles (clusterOf u.tile)).any (fun t => decide (loc / 2 ^ 20 = tbLoc u.die t 0 / 2 ^ 20))))
  else if isHost loc then n == 6
  else if locPkg loc ≠ s.pkg.toNat then decide (5 ≤ n)
  else if locDie loc ≠ u.die then decide (4 ≤ n)
  else decide (3 ≤ n) || u.isHub

/-- Whether some part lies within a scope. -/
def partsIn (s : State) (u : Agent) (sc : ScopeCode) (ps : List (Nat × Nat)) : Bool := ps.any (fun x => inScope s u sc x.1)

/-- Whether two accesses share a byte. -/
def partsMeet (xs ys : List (Nat × Nat)) : Bool := xs.any (fun x => ys.any (fun y => decide (x.1 < y.1 + y.2) && decide (y.1 < x.1 + x.2)))

/-- Whether an access acquires: a load or a read-modify-write with order 01 (R279). -/
def acquires (k : AccKind) (ord : BitVec 2) : Bool := ord == 1 && accReads k

/-- Whether an access releases: a store or a read-modify-write with order 01 (R279). -/
def releases (k : AccKind) (ord : BitVec 2) : Bool := ord == 1 && accWrites k

/-- Whether an edge orders a waiting access of a hub core before a later one of its: they share a byte, the first acquires, or the second releases
(R279). Its physical addresses have no page and no ORD, and are ordered like a RELEASE page's (DESIGN CHOICE, log entry 128). -/
def hubEdge (s : State) (p : Pending) (k : AccKind) (ord : BitVec 2) (scope : ScopeCode) (ps : List (Nat × Nat)) : Bool :=
  p.parts.isEmpty || partsMeet p.parts ps || (acquires p.kind p.ord && partsIn s p.agent p.scope ps) ||
    (releases k ord && partsIn s p.agent scope p.parts)

/-- Whether a waiting access is one that its agent has gone on from, and that its home is still to perform. -/
def leftBehind (u : Agent) (p : Pending) : Bool := decide (p.agent = u) && p.stale && !p.orphan

/-- Whether an access that a strand's abandoned instruction issued is still to be performed: a strand's accesses are performed in program
order, so its next one waits (R280, R340; log entry 9). -/
def owed (s : State) (u : Agent) : Bool := !u.isHub && s.pend.any (leftBehind u)

/-- Whether a hub core's access must wait for one that it has gone on from, by an edge (R280, R281). -/
def hubOwed (s : State) (u : Agent) (k : AccKind) (ord : BitVec 2) (scope : ScopeCode) (ps : List Place) : Bool :=
  u.isHub && s.pend.any (fun p => leftBehind u p && hubEdge s p k ord scope (partsOf ps))

/-- One access of an instruction: route every part, then perform it, or leave it waiting for its home (R48, R50). -/
def access (s : State) (u : Agent) (k : AccKind) (addr : Word) (n len : Nat) (o : SmOpt) : Res :=
  let q := s.req u (o.hint == 1)
  if owed s u then .wait s
  else
    match route s q (accNeed k) addr len with
    | (s, .fault f) => .fault s f
    | (s, .later) => .wait s
    | (s, .ok ps) =>
      if ps.any (fun p => isHost p.loc) && !hostAtomic k then .fault s (flt clsHost 1 addr)
      else if hubOwed s u k o.order o.scope ps then .wait s
      else if ps.any (mustWait s u.die) then
        .wait ((addPend s { pendOf s q k addr n len ps with ord := o.order, scope := o.scope }).stallOn u .access)
      else
        match performAt s q k addr n ps with
        | (s, .fault f) => .fault s f
        | (s, .later) => .wait s
        | (s, .ok _) => .ok s

/-- LD, ST, LD2 and ST2 (R50): the alignment check of an ordered access, then the access. -/
def ldst (o : SmOpt) (a b : SReg) (off : BitVec 29) (pair : Bool) (k : Ctx → Nat → AccKind) (s : State) (u : Agent) : Res :=
  let c := s.ctx u
  let n := sizeOf o.size
  let len := if pair then 2 * n else n
  let addr := effAddr c o.size a b off
  if o.order ≠ 0 ∧ ¬ aligned addr (min len 8) then .fault s (flt clsAlign 1 addr)
  else access s u (k c n) addr n len o

/-- LD (R49). -/
def execLd (g : Guard) (o : SmOpt) (d a b : SReg) (off : BitVec 29) (s : State) : Host.Outcome State Fault Refusal :=
  runStrand g s (ldst o a b off false (fun _ _ => .load d false))

/-- ST (R49). -/
def execSt (g : Guard) (o : SmOpt) (d a b : SReg) (off : BitVec 29) (s : State) : Host.Outcome State Fault Refusal :=
  runStrand g s (ldst o a b off false (fun c n => .store (leBytes n (c.getS d).toNat)))

/-- LD2 (R49). -/
def execLd2 (g : Guard) (o : SmOpt) (d a b : SReg) (off : BitVec 29) (s : State) : Host.Outcome State Fault Refusal :=
  runStrand g s (ldst o a b off true (fun _ _ => .load d true))

/-- ST2 (R49). -/
def execSt2 (g : Guard) (o : SmOpt) (d a b : SReg) (off : BitVec 29) (s : State) : Host.Outcome State Fault Refusal :=
  runStrand g s (ldst o a b off true (fun c n =>
    .store (leBytes n (c.getS d).toNat ++ leBytes n (c.getS (pairReg d)).toNat)))

/-- An atomic at an address: it must be a multiple of the size (R85, R87). -/
def atomicAt (o : SmOpt) (addr : Word) (k : AccKind) (s : State) (u : Agent) : Res :=
  let n := sizeOf o.size
  if !aligned addr n then .fault s (flt clsAlign 1 addr) else access s u k addr n n o

/-- ATOM (R85, R86). -/
def execAtom (g : Guard) (o : SmOpt) (aop : BitVec 4) (d a b : SReg) (off : BitVec 25) (s : State) :
    Host.Outcome State Fault Refusal :=
  runStrand g s (fun s u =>
    let c := s.ctx u
    atomicAt o (baseOff25 c a off) (.atom aop d (BitVec.ofNat 64 ((c.getS b).toNat % 2 ^ (8 * sizeOf o.size)))) s u)

/-- CAS (R87). -/
def execCas (g : Guard) (o : SmOpt) (d a b : SReg) (off : BitVec 29) (s : State) : Host.Outcome State Fault Refusal :=
  runStrand g s (fun s u =>
    let c := s.ctx u
    let m := 2 ^ (8 * sizeOf o.size)
    atomicAt o (baseOff c a off)
      (.cas d (BitVec.ofNat 64 ((c.getS b).toNat % m)) (BitVec.ofNat 64 ((c.getS d).toNat % m))) s u)

/-! ## Prefetching translations (R51) -/

/-- Count one access of a die to the frame of a physical address (R46); host memory has no home that counts. -/
def countFrame (s : State) (d pa : Nat) : State := if isHost pa then s else countAccess s pa s.pkg.toNat d

/-- The physical address that a translation gives a page of a PREF, if an access there would not fault: it is populated, granted, and its home can
be reached. A PREF is no load and no store, and needs no permission bit (R41, R51). -/
def prefLeaf (s : State) (q : Req) (a : Word) (l : Leaf) : Option Nat :=
  let pa := leafPa l a
  if inCapacity pa 1 && granted s q.owner pa && (paChecks s q pa a).isNone then some pa else none

/-- The page of a PREF that would not fault: its physical address. A hub core's addresses are physical (R79). -/
def prefFound (s : State) (u : Agent) (a : Word) : Option Nat :=
  let d := u.die
  let q := s.req u
  if u.isHub then
    (if populated s d a.toNat 1 && inFirmware a.toNat 1 && (paChecks s q a.toNat a).isNone then some a.toNat else none)
  else if !canonical a then none
  else
    match tlbLookup s d (some (clusterOf u.tile)) q.owner a with
    | some l => prefLeaf s q a l
    | none =>
      match walkOwner s d q.owner a with
      | .ok l => if populated s d (leafPa l a) 1 then prefLeaf s q a l else none
      | _ => none

/-- Whether a held translation shares an address with the page of `2^b` bytes at a virtual address. -/
def pageMeets (size va : Nat) (e : TlbEntry) : Bool :=
  let b := pageBits size
  let c := pageBits e.size
  let m := max b c
  bitsOf va 47 0 / 2 ^ m == e.vpage * 2 ^ c / 2 ^ m

/-- Whether a shootdown removes a held translation: KIND 0 one page of an owner, 1 every entry of an owner, 2 every entry (R43). -/
def shootHits (kind owner size : Nat) (va : Word) (e : TlbEntry) : Bool :=
  match kind with
  | 0 => e.owner == owner && pageMeets size va.toNat e
  | 1 => e.owner == owner
  | _ => true

/-- Whether a shootdown that the die buffer of a die has not acknowledged removes a held translation: what comes to a cluster buffer now must not
be of it (R44). -/
def beingShot (s : State) (d : Nat) (e : TlbEntry) : Bool :=
  (List.range Config.dies).any (fun n => match (s.die n).shoot with
    | some x => x.left.any (· == (d, 36)) && shootHits x.kind x.owner x.size x.va e
    | none => false) ||
  s.migs.any (fun m => m.left.any (· == (d, 36)) && shootHits 0 m.owner m.size m.va e)

/-- The translation of a page comes to the buffers of an agent's cluster and die: at once where the die's buffer holds it, else by the walk
of the page that is queued, or by one that is queued now (R42, R51). -/
def prefWalk (s : State) (u : Agent) (a : Word) : State :=
  let d := u.die
  let cl := clusterOf u.tile
  let o := (s.req u).owner
  if !canonical a || (tget (s.die d).ctlb cl []).any (tlbHit o a) then s
  else
    match ((s.die d).dtlb.find? (tlbHit o a)).filter (fun e => !beingShot s d e) with
    | some e => tlbInstall s d (some cl) o a ⟨e.leaf, e.size, 0⟩
    | none =>
      match walkIx s d o a with
      | some i => joinWalk s d i (some cl)
      | none => queueWalk s d o a (some cl)

/-- One page of a PREF: count the access of a page that would not fault, and bring its translation (R51). An address in a window does
nothing. -/
def prefPage (s : State) (u : Agent) (nc : Bool) (a : Word) : State :=
  if windowOf (s.req u nc) a != .virt then s
  else
    let s1 := match prefFound s u a with
      | some pa => if nc then s else countFrame s u.die pa
      | none => s
    if u.isHub then s1 else prefWalk s1 u a

/-- The pages of a span from an address. -/
def prefSpan (s : State) (u : Agent) (nc : Bool) (a : Word) : Nat → State
  | 0 => s
  | n + 1 => prefSpan (prefPage s u nc a) u nc (a + 65536) n

/-- PREF (R51): a span of 1, 4, 16 or 64 pages. -/
def execPref (g : Guard) (span : BitVec 2) (nc : Bool) (a b : SReg) (off : BitVec 29) (s : State) :
    Host.Outcome State Fault Refusal :=
  runOk g s (fun s u => prefSpan s u nc (effAddr (s.ctx u) span a b off) (4 ^ span.toNat))

/-- A queued walk that has a walker ends: what it finds is installed; a page that would fault is skipped (R42, R51). -/
def execWalkComplete (die i : Nat) (s : State) : Host.Outcome State Fault Refusal :=
  match (s.die die).walks[i]? with
  | none => .next s
  | some w =>
    if Config.walkers ≤ i then .next s
    else .next (walkNow (s.modDie die (fun y => { y with walks := y.walks.eraseIdx i })) die w.owner w.va 1 w.clusters).1

/-! ## Aperture instructions (R83, R84) -/

/-- APCV.REL (R83). -/
def execApcvRel (g : Guard) (space : BitVec 2) (d a : SReg) (s : State) : Host.Outcome State Fault Refusal :=
  runOk g s (fun s u => s.putS u d (windowRel (s.ctx u) space (s.getS u a)))

/-- APCV.GEN (R83). -/
def execApcvGen (g : Guard) (space : BitVec 2) (d a : SReg) (s : State) : Host.Outcome State Fault Refusal :=
  runOk g s (fun s u => s.putS u d (windowGen (s.ctx u) space (s.getS u a)))

/-- APIN (R84). -/
def execApin (g : Guard) (space : BitVec 2) (d : PReg) (a : SReg) (s : State) : Host.Outcome State Fault Refusal :=
  runOk g s (fun s u => s.putP u d (inSpace (s.ctx u) space (s.getS u a)))

/-- Whether a FENCE still waits for an access of its before-set within its scope: one that its agent has gone on from and that its home is still
to perform (R285). -/
def fenceWaits (s : State) (u : Agent) (pr pw : Bool) (scope : ScopeCode) : Bool :=
  s.pend.any (fun p => leftBehind u p && ((pr && accReads p.kind) || (pw && accWrites p.kind)) &&
    (p.parts.isEmpty || partsIn s u scope p.parts))

/-- FENCE: every access of its agent that has not been gone on from is performed, so that of its before-set only such a one can still be on its
way; the fence stalls until that is performed, and retires (R285; DEDUCED, log entry 9). -/
def execFence (g : Guard) (pr pw _sr _sw : Bool) (scope : ScopeCode) (s : State) : Host.Outcome State Fault Refusal :=
  runStrand g s (fun s u => if fenceWaits s u pr pw scope then .wait s else .ok s)

end Sys2Proof.Machine
end

