-- ==== Sys2Proof/Machine/Control.lean ====
section
/-! DEFINITION. The meanings of the transfers of control, the hardware loop, the itinerary and task control (R259-R270). -/

namespace Sys2Proof.Machine

/-- BR (R259). -/
def execBr (g : Guard) (off : BitVec 32) (s : State) : Host.Outcome State Fault Refusal :=
  runStrand g s (fun s u => .taken s (relTarget (s.ctx u).pc off))

/-- CALL writes s30 and branches (R259). -/
def execCall (g : Guard) (off : BitVec 32) (s : State) : Host.Outcome State Fault Refusal :=
  runStrand g s (fun s u => .taken (s.putS u 30 ((s.ctx u).pc + 8)) (relTarget (s.ctx u).pc off))

/-- An indirect transfer to s[A], which reads s[A] first; a target that is no multiple of 8 raises ALIGN detail 0x01 and
changes neither s30 nor PC (R23, R259). -/
def indirect (link : Bool) (a : SReg) (s : State) (u : Agent) : Res :=
  let t := s.getS u a
  if !aligned t 8 then .fault s (flt clsAlign 1 t)
  else .taken (if link then s.putS u 30 ((s.ctx u).pc + 8) else s) t

/-- BRX (R259). -/
def execBrx (g : Guard) (link : Bool) (a : SReg) (s : State) : Host.Outcome State Fault Refusal :=
  runStrand g s (indirect link a)

/-- RET differs from BRX only in its opcode (R259). -/
def execRet (g : Guard) (a : SReg) (s : State) : Host.Outcome State Fault Refusal := runStrand g s (indirect false a)

/-- The open form of LOOP at the PC (R260). -/
def loopOpen (d a : SReg) (last : BitVec 20) (s : State) (u : Agent) : Res :=
  let c := s.ctx u
  let n := c.getS a
  let e := c.pc + last.zeroExtend 64 * 8
  if n = 0 then .taken (s.putS u d 0) (e + 8)
  else if 4 ≤ c.loops.length then .fault s (flt clsIllegal 0x39)
  else .ok (s.modCtx u (fun c => { c with loops := ⟨0, n, c.pc + 8, e, d⟩ :: c.loops }.putS d 0))

/-- LOOP (R260). -/
def execLoop (g : Guard) (d a : SReg) (last : BitVec 20) (s : State) : Host.Outcome State Fault Refusal :=
  runStrand g s (loopOpen d a last)

/-- LOOP.BRK pops the top entry if there is one (R260). -/
def execLoopBrk (g : Guard) (s : State) : Host.Outcome State Fault Refusal :=
  runOk g s (fun s u => s.modCtx u (fun c => { c with loops := c.loops.drop 1 }))

/-- The effect of ITNEXT (R262). -/
def itNext (d : SReg) (p : PReg) (s0 : State) (u : Agent) : Res :=
  let t := s0.tile u.die u.tile
  let base := t.itbase &&& ~~~7#64
  let none_ (s : State) : Res := .ok ((s.putS u d 0).putP u p true)
  if !t.itbase.getLsbD 0 then none_ s0
  else
    match readGen s0 (s0.req u) base 8 with
    | (s, .fault f) => .fault s f
    | (s, .later) => .wait (s0.waiting s)
    | (s, .ok h) =>
      let hdr := leNat h
      if bitsOf hdr 63 32 ≠ 0 then .fault s (flt clsIllegal 0x3B)
      else if bitsOf hdr 31 0 ≤ t.itcur.toNat then none_ s
      else
        match readGen s (s.req u) (base + 8 + t.itcur.zeroExtend 64 * 8) 8 with
        | (s, .fault f) => .fault s f
        | (s, .later) => .wait (s0.waiting s)
        | (s, .ok v) =>
          .ok ((((s.putS u d (BitVec.ofNat 64 (leNat v))).putP u p false)).modTile u.die u.tile
            (fun x => { x with itcur := x.itcur + 1 }))

/-- ITNEXT (R262). -/
def execItnext (g : Guard) (d : SReg) (p : PReg) (s : State) : Host.Outcome State Fault Refusal :=
  runStrand g s (itNext d p)

/-- YIELD changes no state except PC: the slot that issued is already last in the order of R249 (R263). -/
def execYield (g : Guard) (s : State) : Host.Outcome State Fault Refusal := runOk g s (fun s _ => s)

/-- TRAP raises class TRAP; the PC it reports is the one after its loop-end step (R260, R267). -/
def execTrap (g : Guard) (code : BitVec 8) (s : State) : Host.Outcome State Fault Refusal :=
  runStrand g s (fun s u => .fault (s.retire u) (flt clsTrap code.toNat))

/-- TRET returns to HEPC, or raises ALIGN detail 0x01 when HEPC is no multiple of 8 (R268). -/
def execTret (g : Guard) (s : State) : Host.Outcome State Fault Refusal :=
  runStrand g s (fun s u =>
    let e := (s.ctx u).hepc
    if !aligned e 8 then .fault s (flt clsAlign 1 e) else .taken (hubReturn s u) e)

/-- CKPT: p[D] is 1 while the task is DRAINING; in a hub core it is 0 (R265). -/
def execCkpt (g : Guard) (d : PReg) (s : State) : Host.Outcome State Fault Refusal :=
  runOk g s (fun s u => s.putP u d (match (s.taskOf u).bind s.task with
    | some k => k.st == .draining
    | none => false))

/-- EST replaces the task's estimate and lets a drain be chosen again (R266, R332). -/
def execEst (g : Guard) (a : SReg) (s : State) : Host.Outcome State Fault Refusal :=
  runOk g s (fun s u =>
    match s.taskOf u with
    | none => s
    | some n => s.modTask n (fun k => { k with est := min (s.getS u a).toNat 0xFFFFFFFF, noDrain := false }))

/-! ## The lanes of a hub core (R342, R343) -/

/-- Whether a hub core serves its lanes: it is neither frozen nor halted. -/
def hubServes (s : State) (d c : Nat) : Bool :=
  let x := s.ctx (.hub d c)
  x.run == .running && !x.frozen

/-- The hub core that serves the fast or the slow lanes of a die: the one that LANEHUB names, else the next in number
order (R343). -/
def laneHub (s : State) (d : Nat) (fast : Bool) : Nat :=
  let v := (s.die d).lanehub.toNat
  let h := if fast then v % 4 else v / 4
  (([h, (h + 1) % 4, (h + 2) % 4, (h + 3) % 4]).find? (hubServes s d)).getD h

/-- The older of two records, each with its task: by tick, then by task number. -/
def olderRec (x y : Nat × StopRec) : Nat × StopRec :=
  if bitsOf x.2.toNat 255 192 ≤ bitsOf y.2.toNat 255 192 then x else y

/-- The oldest record on the fast or slow lanes of a die, with its task. -/
def oldestRec (s : State) (d : Nat) (fast : Bool) : Option (Nat × StopRec) :=
  (s.tasks.filter (fun e => e.2.die == d)).foldl (fun acc e =>
    match (if fast then e.2.fast else e.2.slow).head? with
    | none => acc
    | some (_, r) =>
      match acc with
      | none => some (e.1, r)
      | some x => some (olderRec x (e.1, r))) none

/-- The record that STOPR would give a hub core: fast before slow (R269, R342). -/
def stopNext (s : State) (d c : Nat) : Option (Bool × Nat × StopRec) :=
  match (if laneHub s d true = c then oldestRec s d true else none) with
  | some x => some (true, x)
  | none =>
    match (if laneHub s d false = c then oldestRec s d false else none) with
    | some x => some (false, x)
    | none => none

/-- Remove the oldest record of a lane of a task. -/
def dropRec (s : State) (n : Nat) (fast : Bool) : State :=
  s.modTask n (fun k => if fast then { k with fast := k.fast.drop 1 } else { k with slow := k.slow.drop 1 })

/-- STOPR (R269). -/
def execStopr (g : Guard) (d a : SReg) (off : BitVec 29) (s : State) : Host.Outcome State Fault Refusal :=
  runStrand g s (fun s u =>
    let addr := baseOff (s.ctx u) a off
    if !aligned addr 64 then .fault s (flt clsAlign 1 addr)
    else
      match stopNext s u.die u.slot with
      | none => .ok (s.putS u d 0)
      | some (fast, n, r) =>
        match writeGen s (s.req u) addr (leBytes 64 r.toNat) with
        | (s, .fault f) => .fault s f
        | (s, .later) => .wait s
        | (s, .ok _) => .ok ((dropRec s n fast).putS u d (if fast then 3 else 1)))

/-- Whether an IDLE is over: a record, the doorbell, or the tick deadline (R270). -/
def idleOver (s : State) (d c : Nat) (t : Word) : Bool :=
  (stopNext s d c).isSome || (s.die d).hdoor.getLsbD c || (t != 0 && t.toNat ≤ (s.die d).tick.toNat)

/-- IDLE (R270). -/
def execIdle (g : Guard) (a : SReg) (s : State) : Host.Outcome State Fault Refusal :=
  runStrand g s (fun s u =>
    let t := s.getS u a
    if idleOver s u.die u.slot t then .ok s else .wait (s.stallOn u (.idle t)))

/-- The end of an IDLE (R270). -/
def execIdleWake (die core : Nat) (s : State) : Host.Outcome State Fault Refusal :=
  let u := Agent.hub die core
  match (s.ctx u).stall with
  | .idle t => if idleOver s die core t && !(s.ctx u).frozen then .next (s.endStall u) else .next s
  | _ => .next s

end Sys2Proof.Machine
end

