-- ==== Sys2Proof/Machine/Sync.lean ====
section
/-! DEFINITION. The meanings of MEET, WAIT and TOKQ and of the steps that end their stalls (R110, R111, R173, R286-R288). -/

namespace Sys2Proof.Machine

/-! ## Limits of a task (R324) -/

/-- The barrier timeout of a task in ticks; 0 selects 20,000,000 (R324). -/
def bartoLimit (k : Task) : Nat := if recBits k.lrec 1023 992 = 0 then 20000000 else recBits k.lrec 1023 992

/-- The hold-watchdog limit of a task in ticks; 0 selects 1,000,000 (R172, R324). -/
def holdtoLimit (k : Task) : Nat := if recBits k.lrec 991 960 = 0 then 1000000 else recBits k.lrec 991 960

/-- Whether an agent's stall has counted up to a limit of its task; a hub core has none (R173, R288). -/
def stallExpired (s : State) (a : Agent) (limit : Task → Nat) : Bool :=
  match (s.taskOf a).bind s.task with
  | none => false
  | some k => decide (limit k ≤ (s.ctx a).ticks)

/-! ## Barrier slots (R286) -/

/-- The logical tile of a physical tile of a task on a die. -/
def logTile (k : Task) (d t : Nat) : Nat := (((k.tiles.filter (fun x => x.1 == d)).map (·.2)).idxOf? t).getD 0

/-- The lowest logical tile that a task holds in a cluster of a die (R346). -/
def clusterLead (k : Task) (d c : Nat) : Nat :=
  (((k.tiles.filter (fun x => x.1 == d)).map (·.2)).findIdx? (fun t => clusterOf t == c)).getD 0

/-- The number of a scope unit of an issuer: by logical tile, by a cluster's lowest logical tile, by die, or the package. -/
def unitOf (s : State) (a : Agent) (scope : ScopeCode) : Nat :=
  let k := (s.taskOf a).bind s.task
  match scope, k with
  | 1, some k => 1024 + a.die * 256 + logTile k a.die a.tile
  | 2, some k => 2048 + a.die * 256 + clusterLead k a.die (clusterOf a.tile)
  | 3, _ => 3072 + a.die
  | _, _ => 4096

/-- The barrier slots that an issuer's group holds: its task's, or the hub cores'. -/
def barTable (s : State) (a : Agent) : Tab Barrier :=
  if a.isHub then s.hubBars
  else
    match (s.taskOf a).bind s.task with
    | none => []
    | some k => k.bars

/-- A barrier slot of an issuer's unit. -/
def barSlot (s : State) (a : Agent) (scope : ScopeCode) (slot : Nat) : Barrier :=
  tget (barTable s a) (unitOf s a scope * 16 + slot) {}

/-- Write a barrier slot of an issuer's unit. -/
def setBarSlot (s : State) (a : Agent) (scope : ScopeCode) (slot : Nat) (b : Barrier) : State :=
  let i := unitOf s a scope * 16 + slot
  if a.isHub then { s with hubBars := tset s.hubBars i b }
  else
    match s.taskOf a with
    | none => s
    | some n => s.modTask n (fun k => { k with bars := tset k.bars i b })

/-- The arrival of one participant: the last completes the phase (R287). -/
def barArrive (b : Barrier) (n : BitVec 16) : Barrier :=
  let m := if b.count = 0 then n else b.n
  if b.count + 1 = m then { phase := b.phase + 1, count := 0, n := m } else { phase := b.phase, count := b.count + 1, n := m }

/-- The MEET at the PC has observed its phase: its arrival is spent. -/
def Ctx.observed (c : Ctx) : Ctx := { c with met := tdel c.met c.pc.toNat }

/-- The arrival of the MEET at the PC is kept until it has observed its phase (R288). -/
def Ctx.arriveAt (c : Ctx) (ph : BitVec 32) : Ctx := { c with met := tset c.met c.pc.toNat ph }

/-- The wait part of MEET: it ends when PHASE differs from the phase named (R287). -/
def meetWaitOn (scope : ScopeCode) (slot : Nat) (ph : BitVec 32) (s : State) (u : Agent) : Res :=
  if (barSlot s u scope slot).phase ≠ ph then .ok (s.modCtx u Ctx.observed)
  else .wait (s.stallOn u (.meet scope slot ph))

/-- The arrivals of a strand at phases that are not complete (R297). -/
def outstanding (s : State) (a : Agent) : List (ScopeCode × Nat × BitVec 32) :=
  (s.ctx a).arrived.filter (fun x => (barSlot s a x.1 x.2.1).phase == x.2.2)

/-- The arrive part of MEET, one indivisible step (R287). -/
def meetArriveOn (scope : ScopeCode) (d : SReg) (slot : Nat) (n : BitVec 16) (s : State) (u : Agent) : Except FaultInfo State :=
  let b := barSlot s u scope slot
  if b.count ≠ 0 ∧ b.n ≠ n then .error (flt clsBarto 2)
  else
    .ok (setBarSlot (s.modCtx u (fun c =>
      { c.putS d (b.phase.zeroExtend 64) with arrived := (scope, slot, b.phase) :: outstanding s u })) u scope slot (barArrive b n))

/-- MEET.ARRIVE (R287). -/
def execMeetArrive (g : Guard) (scope : ScopeCode) (d : SReg) (slot : BitVec 4) (n : BitVec 16) (s : State) :
    Host.Outcome State Fault Refusal :=
  runStrand g s (fun s u =>
    match meetArriveOn scope d slot.toNat n s u with
    | .error f => .fault s f
    | .ok s => .ok s)

/-- MEET.WAIT (R287). -/
def execMeetWait (g : Guard) (scope : ScopeCode) (a : SReg) (slot : BitVec 4) (s : State) :
    Host.Outcome State Fault Refusal :=
  runStrand g s (fun s u => meetWaitOn scope slot.toNat ((s.getS u a).truncate 32) s u)

/-- MEET.AW: arrive, then wait; one that was halted after its arrival performs only the wait (R287, R288). -/
def execMeetAw (g : Guard) (scope : ScopeCode) (d : SReg) (slot : BitVec 4) (n : BitVec 16) (s : State) :
    Host.Outcome State Fault Refusal :=
  runStrand g s (fun s u =>
    match tfind (s.ctx u).met (s.ctx u).pc.toNat with
    | some ph => meetWaitOn scope slot.toNat ph s u
    | none =>
      let ph := (barSlot s u scope slot.toNat).phase
      match meetArriveOn scope d slot.toNat n s u with
      | .error f => .fault s f
      | .ok s => meetWaitOn scope slot.toNat ph (s.modCtx u (fun c => c.arriveAt ph)) u)

/-- Whether an agent may go on: it is not frozen and its partition is not halted. -/
def mayProceed (s : State) (u : Agent) : Bool := !(s.ctx u).frozen && !s.halted u && (s.ctx u).fault == none

/-- Whether an agent has fabric cycles: a strand has none in a gear or spine change of its tile and in a package stall, and what it waits
for is observed in its first cycle after it (R90, R296, R298). -/
def hasCycles (s : State) (u : Agent) : Bool := u.isHub || ((s.tile u.die u.tile).st == .run && !s.shake)

/-- A waiting participant observes that its phase is complete, in a fabric cycle of its own (R288, R298). -/
def execMeetWaitComplete (u : Agent) (s : State) : Host.Outcome State Fault Refusal :=
  match (s.ctx u).stall with
  | .meet scope slot ph =>
    if (barSlot s u scope slot).phase ≠ ph ∧ mayProceed s u ∧ hasCycles s u then .next ((s.modCtx u Ctx.observed).endStall u)
    else .next s
  | _ => .next s

/-! ## WAIT and TOKQ (R110, R111) -/

/-- WAIT (R110). -/
def execWait (g : Guard) (any : Bool) (d : PReg) (mask : BitVec 8) (s : State) : Host.Outcome State Fault Refusal :=
  runStrand g s (fun s u =>
    let c := s.ctx u
    if waitOver c any mask then .ok (s.putP u d (waitPred c mask)) else .wait (s.stallOn u (.wait any d mask)))

/-- The masked tokens have settled: in the strand's next cycle WAIT ends and sets its predicate (R90, R110, R296). -/
def execWaitComplete (u : Agent) (s : State) : Host.Outcome State Fault Refusal :=
  let c := s.ctx u
  match c.stall with
  | .wait any d mask =>
    if waitOver c any mask && mayProceed s u && hasCycles s u then .next ((s.putP u d (waitPred c mask)).endStall u) else .next s
  | _ => .next s

/-- TOKQ.GET (R111). -/
def execTokqGet (g : Guard) (d : SReg) (t : TokIx) (s : State) : Host.Outcome State Fault Refusal :=
  runOk g s (fun s u => s.putS u d (BitVec.ofNat 64 (tokCode (s.getTok u t.toNat).st)))

/-- TOKQ.ALL (R111). -/
def execTokqAll (g : Guard) (d : SReg) (s : State) : Host.Outcome State Fault Refusal :=
  runOk g s (fun s u => s.putS u d (tokstat (s.ctx u)))

/-- TOKQ.CLR (R96, R111). -/
def execTokqClr (g : Guard) (t : TokIx) (s : State) : Host.Outcome State Fault Refusal :=
  runStrand g s (fun s u =>
    match (s.getTok u t.toNat).st with
    | .busy => .fault s (flt clsToken 3)
    | .idle => .ok s
    | .done | .error => .ok (s.putTok u t.toNat .idle))

/-! ## Watchdogs of a strand's waits (R173) -/

/-- A WAIT has stalled without progress for HOLDTO ticks: HOLDTO detail 0x02 (R173). -/
def execWaitWatchdogExpiry (u : Agent) (s : State) : Host.Outcome State Fault Refusal :=
  match (s.ctx u).stall with
  | .wait any _ m =>
    if stallExpired s u holdtoLimit && mayProceed s u && !waitOver (s.ctx u) any m then .next (takeFault s u (flt clsHoldto 2))
    else .next s
  | _ => .next s

end Sys2Proof.Machine
end

