-- ==== Sys2Proof/Machine/Copy.lean ====
section
/-! DEFINITION. Copy engines: descriptors, the checks at issue, CPY, CPYX, COLL, schedules, and the performing of copies and
collectives (R89-R109). -/

namespace Sys2Proof.Machine

/-! ## Descriptors (R91) -/

/-- Bits [hi:lo] of a descriptor. -/
def dbits (d : BitVec 512) (hi lo : Nat) : Nat := bitsOf d.toNat hi lo
/-- SRC, or the pattern of a FILL. -/
def dSrc (d : BitVec 512) : Word := BitVec.ofNat 64 (dbits d 63 0)
/-- DST. -/
def dDst (d : BitVec 512) : Word := BitVec.ofNat 64 (dbits d 127 64)
/-- LEN. -/
def dLen (d : BitVec 512) : Nat := dbits d 159 128
/-- ROWS. -/
def dRows (d : BitVec 512) : Nat := dbits d 175 160
/-- PLANES. -/
def dPlanes (d : BitVec 512) : Nat := dbits d 191 176
/-- A signed stride whose lowest bit is `lo`. -/
def dStride (d : BitVec 512) (lo : Nat) : Int := sextNat (dbits d (lo + 31) lo) 32
/-- KIND. -/
def dKind (d : BitVec 512) : Nat := dbits d 323 320
/-- SCOPE. -/
def dScope (d : BitVec 512) : ScopeCode := BitVec.ofNat 3 (dbits d 326 324)
/-- NTF. -/
def dNtf (d : BitVec 512) : Bool := d.toNat.testBit 327
/-- NC. -/
def dNc (d : BitVec 512) : Bool := d.toNat.testBit 332
/-- NADDR. -/
def dNaddr (d : BitVec 512) : Word := BitVec.ofNat 64 (dbits d 511 448)
/-- ROUT of a transform (R100). -/
def dRout (d : BitVec 512) : Nat := dbits d 431 416
/-- RIN of a transform (R100). -/
def dRin (d : BitVec 512) : Nat := dbits d 415 400
/-- BIDX of a transform (R100). -/
def dBidx (d : BitVec 512) : Nat := dbits d 399 384
/-- COP of a collective (R106). -/
def dCop (d : BitVec 512) : Nat := dbits d 386 384
/-- ROP of a collective (R106). -/
def dRop (d : BitVec 512) : Nat := dbits d 389 387
/-- EFMT of a collective (R106). -/
def dEfmt (d : BitVec 512) : Nat := dbits d 393 390
/-- GROUP of a collective (R106). -/
def dGroup (d : BitVec 512) : Nat := dbits d 409 394
/-- RANK of a collective (R106). -/
def dRank (d : BitVec 512) : Nat := dbits d 425 410
/-- ROOT of a collective (R106). -/
def dRoot (d : BitVec 512) : Nat := dbits d 441 426

/-- Whether a copy, fill or transform accesses nothing (R92). -/
def dEmpty (d : BitVec 512) : Bool := dLen d == 0 || dRows d == 0 || dPlanes d == 0

/-- Bytes of an element of a collective (R106). -/
def elemBytes (efmt : Nat) : Nat := if efmt ≤ 1 then 4 else 2

/-- Bytes of a transformed destination row (R100). -/
def xformLen (d : BitVec 512) : Nat := dLen d * dRout d / dRin d

/-- Bytes of a rank's result (R108). -/
def collDstLen (d : BitVec 512) (p : Nat) : Nat :=
  match dCop d with
  | 1 => dLen d / p
  | 2 => dLen d * p
  | _ => dLen d

/-! ## Extents and windows (R80, R82, R93) -/

/-- The windows and the parts of the DIE window (R76, R78, R79). -/
inductive Zone where
  | virt | tile | clus | dieBuf | dieMap | dieTop
  deriving DecidableEq, Repr

/-- The zone of a generic address. -/
def zoneOf (q : Req) (a : Word) : Zone :=
  match windowOf q a with
  | .virt => .virt
  | .tile _ => .tile
  | .clus _ => .clus
  | .die o =>
    if 0x1E000000 ≤ o then .dieTop
    else if q.agent.isHub || o < 0x15000000 then .dieBuf
    else .dieMap

/-- Whether the lowest and the highest of `n` bytes from an address lie in different windows or parts (R80, R82). A window that lies whole between
the two is not seen here: R80 compares the ends, though R93 says 'spans' (DESIGN CHOICE, log entry 129). -/
def spansZones (q : Req) (a : Word) (n : Nat) : Bool := zoneOf q (a + BitVec.ofNat 64 (n - 1)) != zoneOf q a

/-- The first address at or after one that lies in neither a TILE nor a CLUSTER window, which stand before the DIE window (R76). -/
def pastWindows (q : Req) : Nat → Word → Word
  | 0, x => x
  | k + 1, x =>
    match windowOf q x with
    | .tile o => pastWindows q k (x - BitVec.ofNat 64 o + BitVec.ofNat 64 (2 ^ 20))
    | .clus o => pastWindows q k (x - BitVec.ofNat 64 o + BitVec.ofNat 64 (2 ^ 22))
    | .die _ | .virt => x

/-- The lowest of `n` bytes from an address that lies at DIE-window offsets `lo` to `hi - 1`, and is reached through the DIE window (R80). -/
def firstIn (q : Req) (a : Word) (n lo hi : Nat) : Option Word :=
  let b : Word := BitVec.ofNat 64 (q.apDie.toNat / 2 ^ 29 * 2 ^ 29 + lo)
  let x := pastWindows q 4 (if (a - b).toNat < hi - lo then a else b)
  if lo < hi ∧ q.apDie.toNat.testBit 0 = true ∧ (x - a).toNat < n ∧ (x - b).toNat < hi - lo then some x else none

/-- The DIE-window offsets that cannot be accessed, with the APERTURE detail of each range: slices beyond the allocation, logical tiles that the
task does not hold, and the top (R79, R80). -/
def dieHoles (s : State) (q : Req) : List (Nat × Nat × Nat) :=
  let held (f : Task → Nat) : Nat := ((q.task.bind s.task).map f).getD 0
  let top := [(1, 0x1E000000, 2 ^ 29)]
  if q.agent.isHub then top
  else
    (2, 2 ^ 21 * held (fun k => (k.slices.filter (fun x => x.1 == q.agent.die)).length), 0x15000000) ::
    (3, 0x15000000 + 2 ^ 20 * held (fun k => (k.tiles.filter (fun x => x.1 == q.agent.die)).length), 0x1E000000) :: top

/-- The check of one extent or view of `n` bytes at an address: 0x06 where its ends lie in different windows or parts, else the lowest byte that
the DIE window cannot access, wherever the ends lie (R80, R82, R93). A window that lies whole between two ends of translated memory and in which every
byte can be accessed raises nothing: R80 compares the ends, though R93 says that the extent spans it (DESIGN CHOICE, log entry 129). -/
def extentFault (s : State) (q : Req) (a : Word) (n : Nat) : Option FaultInfo :=
  if spansZones q a n then some (flt clsAperture 6 a)
  else
    ((dieHoles s q).foldl (fun (m : Option (Word × Nat)) h =>
      match firstIn q a n h.2.1 h.2.2, m with
      | some x, some y => if (x - a).toNat < (y.1 - a).toNat then some (x, h.1) else m
      | some x, none => some (x, h.1)
      | none, _ => m) none).map (fun x => flt clsAperture x.2 x.1)

/-- The lowest and highest offsets of `n` things a signed stride apart. -/
def strideSpan (n : Nat) (st : Int) : Int × Int :=
  let e := ((n : Int) - 1) * st
  (min 0 e, max 0 e)

/-- The extent of a side: its lowest byte and its length (R93). -/
def extentOf (base : Word) (len rows planes : Nat) (rs ps : Int) : Word × Nat :=
  let r := strideSpan rows rs
  let p := strideSpan planes ps
  (base + wrapWord (r.1 + p.1), (r.2 + p.2 - r.1 - p.1).toNat + len)

/-- Whether two extents share a generic address (R94). -/
def extentsMeet (x y : Word × Nat) : Bool := decide ((y.1 - x.1).toNat < x.2) || decide ((x.1 - y.1).toNat < y.2)

/-! ## The checks at issue (R95) -/

/-- A fault with the first failing of several checks. -/
def firstFault : List (Bool × FaultInfo) → Option FaultInfo
  | [] => none
  | (b, f) :: t => if b then some f else firstFault t

/-- The descriptor's own fields: details 0x20, 0x21 and 0x22 (R91, R95, R100). -/
def fieldFault (d : BitVec 512) (accept : Nat → Bool) : Option FaultInfo :=
  let k := dKind d
  firstFault [
    (!(accept k) || decide (3 < k), flt clsIllegal 0x20),
    (dbits d 383 333 != 0 || dbits d 326 324 == 0 || dbits d 326 324 == 7 ||
      (decide (k ≤ 1) && dbits d 447 384 != 0) || (k == 2 && dbits d 447 432 != 0) || (k == 3 && dbits d 447 442 != 0),
      flt clsIllegal 0x21),
    (k == 2 && (dRout d == 0 || dRin d == 0 || dLen d == 0 || dLen d % 8 != 0 || dLen d * dRout d % (8 * dRin d) != 0),
      flt clsIllegal 0x22)]

/-- The collective fields that the descriptor alone decides (R106). A ROOT other than 0 that is not a broadcast's is a collective field out
of its range, ILLEGAL detail 0x23, and not a must-be-zero bit of the descriptor (DESIGN CHOICE, log entry 106). -/
def collOwnFault (d : BitVec 512) : Option FaultInfo :=
  let red := decide (dCop d ≤ 1)
  if decide (4 < dCop d) || decide (3 < dRop d) || decide (3 < dEfmt d) || (red == (dRop d == 3)) || dRows d != 1 || dPlanes d != 1 ||
    (dCop d != 3 && dRoot d != 0) then some (flt clsIllegal 0x23) else none

/-- The collective fields, with P of the group (R106). -/
def collFieldFault (d : BitVec 512) (p : Nat) : Option FaultInfo :=
  let es := elemBytes (dEfmt d)
  collOwnFault d <|>
  (if decide (p ≤ dRank d) || decide (p ≤ dRoot d) ||
      (if dCop d ≤ 1 || dCop d == 4 then dLen d % (p * es) != 0 else dLen d % es != 0) then some (flt clsIllegal 0x23) else none)

/-- NADDR (R95). -/
def naddrFault (d : BitVec 512) : Option FaultInfo :=
  if dNtf d && !aligned (dNaddr d) 8 then some (flt clsAlign 1 (dNaddr d)) else none

/-- The extents of a copy, fill or transform, and the intersection of a copy's (R93, R94). -/
def copyExtentFault (s : State) (q : Req) (d : BitVec 512) : Option FaultInfo :=
  if dEmpty d then none
  else
    let src := extentOf (dSrc d) (dLen d) (dRows d) (dPlanes d) (dStride d 192) (dStride d 256)
    let dst := extentOf (dDst d) (if dKind d = 2 then xformLen d else dLen d) (dRows d) (dPlanes d) (dStride d 224) (dStride d 288)
    (if dKind d = 1 then none else extentFault s q src.1 src.2) <|>
    extentFault s q dst.1 dst.2 <|>
    (if dKind d = 0 && extentsMeet src dst then some (flt clsIllegal 0x24) else none)

/-- The extents of a collective; a rank that is not the root of a broadcast reads nothing (R93, R109). -/
def collExtentFault (s : State) (q : Req) (d : BitVec 512) (p : Nat) : Option FaultInfo :=
  let one (a : Word) (n : Nat) : Option FaultInfo := if n = 0 then none else extentFault s q a n
  (if dCop d = 3 && dRank d != dRoot d then none else one (dSrc d) (dLen d)) <|> one (dDst d) (collDstLen d p)

/-- Read `n` dwords as loads (R99); where one must wait, none has been made. -/
def readLoads (s : State) (q : Req) (a : Word) : Nat → State × Try (List Byte)
  | 0 => (s, .ok [])
  | n + 1 =>
    match readGen s q a 8 with
    | (s1, .fault f) => (s1, .fault f)
    | (s1, .later) => (s1, .later)
    | (s1, .ok x) =>
      match readLoads s1 q (a + 8) n with
      | (s2, .ok y) => (s2, .ok (x ++ y))
      | (s2, .fault f) => (s2, .fault f)
      | (s2, .later) => (s.waiting s2, .later)

/-- Whether every member entry of a group is one that a rank can be: a tile of this package that the task holds, or a tile of another package
of the domain, whose task this package does not see. Remaining bits that are not zero raise APERTURE detail 0x03 too: the spec names no
fault for them (DESIGN CHOICE, log entry 107). -/
def membersHeld (s : State) (d : Nat) (k : Task) : List Byte → Nat → Bool
  | _, 0 => true
  | bs, n + 1 =>
    let e := leNat (bs.take 8)
    e / 2 ^ 20 == 0 &&
      (if bitsOf e 9 0 = s.pkg.toNat then (physTile k (bitsOf e 11 10) (bitsOf e 19 12)).isSome
      else inDomain s d (bitsOf e 9 0) && decide (bitsOf e 19 12 < Config.tilesPerDie)) &&
      membersHeld s d k (bs.drop 8) n

/-- The entry of a collective's group: P and the address of its member list (R107). -/
def groupEntry (s : State) (q : Req) (d : BitVec 512) : State × Try (Nat × Word) :=
  match q.task.bind s.task with
  | none => (s, .fault (flt clsAperture 3))
  | some k =>
    match readLoads s q (BitVec.ofNat 64 (recBits k.lrec 319 256) + BitVec.ofNat 64 (16 * dGroup d)) 2 with
    | (s, .fault f) => (s, .fault f)
    | (s, .later) => (s, .later)
    | (s, .ok e) =>
      let v := leNat e
      if bitsOf v 63 16 != 0 || bitsOf v 15 0 < 2 then (s, .fault (flt clsIllegal 0x23))
      else (s, .ok (bitsOf v 15 0, BitVec.ofNat 64 (bitsOf v 127 64)))

/-- The member list of a group of P ranks, or the fault of its read or of a member (R107). -/
def groupMembers (s : State) (q : Req) (a : Word) (p : Nat) : State × Try (List Byte) :=
  match q.task.bind s.task with
  | none => (s, .fault (flt clsAperture 3))
  | some k =>
    match readLoads s q a p with
    | (s, .fault f) => (s, .fault f)
    | (s, .later) => (s, .later)
    | (s, .ok m) => if membersHeld s q.agent.die k m p then (s, .ok m) else (s, .fault (flt clsAperture 3))

/-! ## Starting an operation -/

/-- A new operation of an agent on a token, with its windows (R77). -/
def newOp (s : State) (a : Agent) (t : TokIx) (k : OpKind) (scope : ScopeCode) (d : BitVec 512) : EngOp :=
  let c := s.ctx a
  { kind := k, st := .started, agent := a, tok := t, scope := scope, desc := d
    apTile := c.apTile, apClus := c.apClus, apDie := c.apDie }

/-- The quads of an agent's region, if it has one (R13, R330). -/
def ownRegion (s : State) (a : Agent) : Option RegionId :=
  match a with
  | .hub .. => none
  | .strand d t k => if (s.region ⟨d, t, k⟩).isSome then some ⟨d, t, k⟩ else none

/-- The die and the package at which a member entry of a group stands: their first byte of main memory, as a location (R38, R107). -/
def memberLoc (e : Nat) : Nat := bitsOf e 9 0 * 2 ^ 42 + bitsOf e 11 10 * 2 ^ 40

/-- The members of a group, by entry. -/
def memberEntries (bs : List Byte) (p : Nat) : List Nat := (List.range p).map (fun j => leNat ((bs.drop (8 * j)).take 8))

/-- A collective whose members cannot all be reached at issue raises LINK, as any remote access does (R321; DEDUCED, log entry 130). -/
def collLink (s : State) (d : Nat) (bs : List Byte) (p : Nat) : Option FaultInfo :=
  (memberEntries bs p).findSome? (fun e =>
    (linkDetail s d (memberLoc e)).map (fun k => { flt clsLink k 0 with
      info0 := BitVec.ofNat 64 (bitsOf e 9 0), info1 := BitVec.ofNat 64 (routeMask s d (bitsOf e 9 0)) }))

/-- The count of collectives that a rank of a group has issued, by group and rank (R107). -/
def collKey (d : BitVec 512) : Nat := dGroup d * 65536 + dRank d

/-- The collective that a descriptor names, after the fields common to every kind: its own fields and NADDR before the member list and the
extents (R95). P comes from the group's entry, which is read first. -/
def admitColl (s : State) (q : Req) (d : BitVec 512) (o : EngOp) : State × Try EngOp :=
  match collOwnFault d with
  | some f => (s, .fault f)
  | none =>
    match groupEntry s q d with
    | (s, .fault f) => (s, .fault ((if f.cls = clsIllegal then none else naddrFault d).getD f))
    | (s, .later) => (s, .later)
    | (s, .ok (p, ml)) =>
      match collFieldFault d p <|> naddrFault d with
      | some f => (s, .fault f)
      | none =>
        match groupMembers s q ml p with
        | (s, .fault f) => (s, .fault f)
        | (s, .later) => (s, .later)
        | (s, .ok m) =>
          match collExtentFault s q d p <|> collLink s q.agent.die m p with
          | some f => (s, .fault f)
          | none =>
            let n := match (s.taskOf q.agent).bind s.task with
              | some k => tget k.colls (collKey d) 0
              | none => 0
            (s, .ok { o with num := p, order := n, data := m })

/-- The checks after the token's state, and the operation they admit (R95). -/
def admitDesc (s : State) (q : Req) (t : TokIx) (d : BitVec 512) (accept : Nat → Bool) : State × Try EngOp :=
  let a := q.agent
  let o (k : OpKind) : EngOp := { newOp s a t k (dScope d) d with nc := dNc d }
  match fieldFault d accept with
  | some f => (s, .fault f)
  | none =>
    if dKind d = 3 then admitColl s q d (o .coll)
    else
      match naddrFault d with
      | some f => (s, .fault f)
      | none =>
        if dKind d = 2 && (ownRegion s a).isNone then (s, .fault (flt clsToken 5))
        else
          match copyExtentFault s q d with
          | some f => (s, .fault f)
          | none => (s, .ok (o (match dKind d with
            | 0 => .copy
            | 1 => .fill
            | _ => .xform)))

/-- Count a collective that a rank has issued (R107). -/
def noteColl (s : State) (o : EngOp) : State :=
  if o.kind = .coll then
    match s.taskOf o.agent with
    | none => s
    | some n => s.modTask n (fun k => { k with colls := tset k.colls (collKey o.desc) (tget k.colls (collKey o.desc) 0 + 1) })
  else s

/-! ## The notify and the end of an operation (R99) -/

/-- The notify: an atomic add of 1 to the 8 bytes at NADDR. -/
def notify (s : State) (q : Req) (a : Word) : State × Try Unit :=
  match route s q .rmw a 8 with
  | (s, .fault f) => (s, .fault f)
  | (s, .later) => (s, .later)
  | (s, .ok ps) =>
    if waitsNow s q ps then (noteProbe s q a 8 ps, .later)
    else
      match partFault s true a ps with
      | some f => (s, .fault f)
      | none => (countPlaces (writePlaces s ps (leBytes 8 (leNat (readPlaces s ps) + 1))) q ps, .ok ())

/-- The end of an operation that has done its accesses: the notify, then the token. When the notify must wait, nothing of the end is done. -/
def endCopy (s0 s : State) (o : EngOp) : State :=
  if dNtf o.desc then
    match notify s (s.opReq o) (dNaddr o.desc) with
    | (s, .ok _) => opDone s o.agent o.tok.toNat
    | (s, .fault f) => opFault s o.agent o.tok.toNat f
    | (s1, .later) => s0.waiting s1
  else opDone s o.agent o.tok.toNat

/-- An admitted operation starts; one that accesses nothing completes at once (R92). -/
def launchOp (s : State) (o : EngOp) : State :=
  let s := startOp (noteColl s o) o
  if o.kind ≠ .coll && dEmpty o.desc then endCopy s s o else s

/-! ## CPY, CPYX and COLL (R99) -/

/-- The mould of CPY, CPYX and COLL. -/
def copyMould (t : TokIx) (a : SReg) (off : BitVec 29) (accept : Nat → Bool) (s0 : State) (u : Agent) : Res :=
  let da := baseOff (s0.ctx u) a off
  if !aligned da 64 then .fault s0 (flt clsAlign 1 da)
  else
    match readLoads s0 (s0.req u) da 8 with
    | (s, .fault f) => .fault s f
    | (s, .later) => .wait (s0.waiting s)
    | (s, .ok bs) =>
      match tokenCheck s u t.toNat with
      | some f => .fault s f
      | none =>
        if reportPending s u t.toNat then .wait s
        else
          match admitDesc s (s.req u) t (BitVec.ofNat 512 (leNat bs)) accept with
          | (s, .fault f) => .fault s f
          | (s, .later) => .wait (s0.waiting s)
          | (s, .ok o) => .ok (launchOp s o)

/-- CPY (R99). -/
def execCpy (g : Guard) (t : TokIx) (a : SReg) (off : BitVec 29) (s : State) : Host.Outcome State Fault Refusal :=
  runStrand g s (copyMould t a off (fun k => decide (k ≤ 1)))

/-- CPYX (R99, R100). -/
def execCpyx (g : Guard) (t : TokIx) (a : SReg) (off : BitVec 29) (s : State) : Host.Outcome State Fault Refusal :=
  runStrand g s (copyMould t a off (fun k => k == 2))

/-- COLL (R99, R106). -/
def execColl (g : Guard) (t : TokIx) (a : SReg) (off : BitVec 29) (s : State) : Host.Outcome State Fault Refusal :=
  runStrand g s (copyMould t a off (fun k => k == 3))

/-! ## Schedules (R101-R105) -/

/-- The number that stands for a schedule slot, instead of a token, in the probes of its own reads. -/
def schProbe (slot : Nat) : Nat := 8 + slot

/-- The request of a schedule slot's own reads. -/
def schReq (s : State) (u : Agent) (slot : Nat) : Req := { s.req u with tok := some (schProbe slot) }

/-- CPYS after its checks: the slot runs (R104). -/
def startSlot (c : Ctx) (slot : Nat) (table : Word) (count : Nat) : Ctx :=
  c.putSch slot { st := .run, ctr := 0, cursor := 0, count := count, table := table }

/-- Whether a schedule header is malformed (R101). -/
def badHeader (v : Nat) : Bool := bitsOf v 8 0 == 0 || decide (256 < bitsOf v 8 0) || v / 2 ^ 9 != 0

/-- CPYS (R104). Of a misaligned table and a slot in RUN or WAITTOK the spec does not say which is reported; the address is checked first, as
in R95 (DESIGN CHOICE, log entry 108). -/
def execCpys (g : Guard) (slot : BitVec 3) (a : SReg) (off : BitVec 29) (s : State) : Host.Outcome State Fault Refusal :=
  runStrand g s (fun s u =>
    let ta := baseOff (s.ctx u) a off
    let st := ((s.ctx u).getSch slot.toNat).st
    if !aligned ta 16 then .fault s (flt clsAlign 1 ta)
    else if st = .run ∨ st = .waittok then .fault s (flt clsToken 4)
    else
      match readLoads s (s.req u) ta 2 with
      | (s, .fault f) => .fault s f
      | (s1, .later) => .wait (s.waiting s1)
      | (s, .ok h) =>
        if badHeader (leNat h) then .fault s (flt clsIllegal 0x25)
        else .ok ((clearProbes s u (schProbe slot.toNat)).modCtx u (fun c => startSlot c slot.toNat ta (bitsOf (leNat h) 8 0))))

/-- STAGE (R105). -/
def execStage (g : Guard) (slot : BitVec 3) (inc : BitVec 8) (s : State) : Host.Outcome State Fault Refusal :=
  runOk g s (fun s u => s.modCtx u (fun c =>
    let x := c.getSch slot.toNat
    c.putSch slot.toNat { x with ctr := min 255 (x.ctr + inc.toNat) }))

/-- Change a schedule slot of an agent. -/
def modSch (s : State) (u : Agent) (k : Nat) (f : SchSlot → SchSlot) : State :=
  s.modCtx u (fun c => c.putSch k (f (c.getSch k)))

/-- A release meets a fault. A replayable one leaves the slot to try again after the resume; another stops the schedule and
puts the entry's token, once known, in ERROR with cause 0x01 (R101, R339). -/
def schFault (s : State) (u : Agent) (k : Nat) (t : Option Nat) (f : FaultInfo) : State :=
  if fstatus f.cls f.detail = .replay ∧ !u.isHub then
    haltAgent (modSch s u k (fun x => { x with fault := some (stamp s u.die f, t) })) u
  else
    let s := modSch s u k (fun x => { x with st := .stopped, fault := if u.isHub then none else some (stamp s u.die f, t) })
    let s := match t with
      | some t => settleTok s u t .error 1
      | none => s
    if u.isHub then takeFault s u f else haltAgent s u

/-- The state of a slot whose cursor has advanced (R102). -/
def advanceSlot (x : SchSlot) : SchSlot :=
  { x with cursor := x.cursor + 1, st := if x.cursor + 1 = x.count then .done else .run }

/-- The release of an entry whose token is free: a malformed entry or descriptor stops the schedule (R101, R102). -/
def releaseNow (s0 s : State) (u : Agent) (k t : Nat) (bad : Option FaultInfo) (d : BitVec 512) : State :=
  match bad with
  | some f => schFault s u k (some t) f
  | none =>
    if reportPending s u t then s0
    else
      match admitDesc s (schReq s u k) (BitVec.ofNat 3 t) d (fun _ => true) with
      | (s, .fault f) => schFault s u k (some t) f
      | (s1, .later) => s0.waiting s1
      | (s, .ok o) => modSch (launchOp (clearProbes s u (schProbe k)) o) u k advanceSlot

/-- The entry at a slot's cursor, by the state of the token that its descriptor names: BUSY waits and ERROR stops the slot before the entry
is looked at further (R102). -/
def releaseDesc (s0 s : State) (u : Agent) (k t : Nat) (bad : Option FaultInfo) (d : BitVec 512) : State :=
  match (s.getTok u t).st with
  | .busy => modSch s u k (fun x => { x with st := .waittok })
  | .error => modSch s u k (fun x => { x with st := .stopped })
  | .idle | .done => releaseNow s0 s u k t bad d

/-- The TOKEN byte of a descriptor that cannot be read whole, where that byte can (R101). -/
def peekToken (s : State) (q : Req) (da : Word) : Option Nat :=
  match (readGen s q (da + 41) 1).2 with
  | .ok bs => some (leNat bs % 8)
  | _ => none

/-- The entry at a slot's cursor, whose stage has come, is released: its descriptor names the token. -/
def releaseEntry (s0 s : State) (u : Agent) (k : Nat) (e : Nat) : State :=
  let da : Word := BitVec.ofNat 64 (bitsOf e 63 0)
  let bad := if bitsOf e 127 72 ≠ 0 then some (flt clsIllegal 0x25) else if !aligned da 64 then some (flt clsAlign 1 da) else none
  match readLoads s (schReq s u k) da 8 with
  | (s1, .ok bs) =>
    let d := BitVec.ofNat 512 (leNat bs)
    releaseDesc s0 s1 u k (dbits d 330 328) bad d
  | (s1, .later) => s0.waiting s1
  | (s1, .fault f) =>
    match peekToken s1 (schReq s u k) da with
    | some t => releaseDesc s0 s1 u k t (some (bad.getD f)) 0
    | none => schFault s1 u k none (bad.getD f)

/-- Read the table of a schedule that starts with its strand (R104, R329). A replayable fault, or a read that must wait, leaves the slot with no
entries, to be started again before the strand issues. -/
def readSched (s : State) (u : Agent) (slot : Nat) (ta : Word) : State :=
  if !aligned ta 16 then takeFault s u (flt clsAlign 1 ta)
  else
    match readLoads s (schReq s u slot) ta 2 with
    | (s1, .ok h) =>
      if badHeader (leNat h) then takeFault s1 u (flt clsIllegal 0x25)
      else (clearProbes s1 u (schProbe slot)).modCtx u (fun c => startSlot c slot ta (bitsOf (leNat h) 8 0))
    | (s1, .fault f) => takeFault (s1.modCtx u (fun c => startSlot c slot ta 0)) u f
    | (s1, .later) => (s.waiting s1).modCtx u (fun c => startSlot c slot ta 0)

/-- Start a schedule as CPYS does, for a strand that has not begun (R104, R329). -/
def startSched (s : State) (u : Agent) (slot : Nat) (ta : Word) : State :=
  let st := ((s.ctx u).getSch slot).st
  if aligned ta 16 && (decide (st = .run) || decide (st = .waittok)) then takeFault s u (flt clsToken 4) else readSched s u slot ta

/-- A slot considers the entry at its cursor; one whose table was not read at its start reads it now (R102, R329). -/
def execScheduleRelease (u : Agent) (slot : Nat) (s : State) : Host.Outcome State Fault Refusal :=
  let x := (s.ctx u).getSch slot
  if (x.st = .run ∨ x.st = .waittok) ∧ mayProceed s u then
    if x.count = 0 then .next (readSched s u slot x.table)
    else if x.cursor < x.count then
      match readLoads s (schReq s u slot) (x.table + 16 + BitVec.ofNat 64 (16 * x.cursor)) 2 with
      | (s1, .fault f) => .next (schFault s1 u slot none f)
      | (s1, .later) => .next (s.waiting s1)
      | (s1, .ok e) =>
        if x.ctr < bitsOf (leNat e) 71 64 then .next s else .next (releaseEntry s s1 u slot (leNat e))
    else .next s
  else .next s

/-! ## The engines of a die (R89) -/

/-- Whether an operation may make progress: it has met no fault, neither it nor its engine is frozen, and its partition is not halted. -/
def opRuns (s : State) (o : EngOp) : Bool := o.fault.isNone && !o.stopped && !o.frozen && !engineDead s o && !s.halted o.agent

/-- The copy-engine operations of a die that hold an engine: those started and not ended. -/
def enginesBusy (s : State) (d : Nat) : Nat :=
  (s.ops.filter (fun e => opFreezeKind e.2.kind == 1 && decide (e.2.kind ≠ .tsend) && e.2.agent.die == d &&
    !(e.2.frozen || (e.2.fault.isSome && (s.getTok e.2.agent e.2.tok.toNat).st != .busy)) &&
    (match e.2.st with
    | .queued _ => false
    | _ => true))).length

/-- The sequence number of a queued operation. -/
def queuedSeq (o : EngOp) : Option Nat :=
  match o.st with
  | .queued n => some n
  | _ => none

/-- The oldest of the queued operations that satisfy a test (R89, R120). -/
def oldestQueued (s : State) (p : EngOp → Bool) : Option EngOp :=
  s.ops.foldl (fun acc e =>
    match queuedSeq e.2 with
    | none => acc
    | some n =>
      if p e.2 then
        match acc with
        | none => some e.2
        | some o => if (queuedSeq o).getD 0 ≤ n then some o else some e.2
      else acc) none

/-- A free copy engine takes the operation that has queued longest (R89). -/
def execCopyEngineStart (die : Nat) (s : State) : Host.Outcome State Fault Refusal :=
  if enginesBusy s die + (s.die die).lost < Config.copyEngines then
    match oldestQueued s (fun o => opFreezeKind o.kind == 1 && o.agent.die == die && opRuns s o) with
    | none => .next s
    | some o => .next (s.setOp o.agent o.tok.toNat { o with st := .started })
  else .next s

/-! ## Performing a copy (R92, R94) -/

/-- The addresses of row r of plane p on a side. -/
def rowAddr (base : Word) (p r : Nat) (rs ps : Int) : Word := base + wrapWord (p * ps + r * rs)

/-- The locations of routed parts, byte by byte. -/
def locsOf (ps : List Place) : List Nat := ps.flatMap (fun p => List.range' p.loc p.len)

/-- Move bytes between paired locations. A byte whose source this copy has already overwritten takes, for each destination
bank word, either the value before the copy or the present one (R94). -/
def moveBytes (m0 : Memory) (free w : Nat) : Memory → List (Nat × Nat) → Memory × Nat
  | m, [] => (m, free)
  | m, (a, b) :: l =>
    let free := if b / 8 = w then free else free + 1
    let old := mget m0 a
    let new := mget m a
    moveBytes m0 free (b / 8) (mset m b (if old = new || Config.freeChoice free then old else new)) l

/-- Copy one row; `m0` is the memory before the copy. -/
def copyRow (m0 : Memory) (s : State) (q : Req) (sa da : Word) (n : Nat) : State × Try Unit :=
  match route s q .load sa n with
  | (s, .fault f) => (s, .fault f)
  | (s, .later) => (s, .later)
  | (s, .ok ps) =>
    if waitsNow s q ps then (noteProbe s q sa n ps, .later)
    else
      match partFault s true sa ps with
      | some f => (s, .fault f)
      | none =>
        match route s q .store da n with
        | (s, .fault f) => (s, .fault f)
        | (s, .later) => (s, .later)
        | (s, .ok pd) =>
          if waitsNow s q pd then (noteProbe s q da n pd (readPlaces s ps), .later)
          else
            match partFault s false da pd with
            | some f => (s, .fault f)
            | none =>
              let r := moveBytes m0 s.free (2 ^ 64) s.mem (((locsOf ps).zip (locsOf pd)).filter (fun x => !boxBusy s x.2))
              let s := { s with mem := r.1, free := r.2 + 1
                                poison := s.poison.filter (fun w => !(pd.any (fun p => decide (p.loc ≤ w) && decide (w + 8 ≤ p.loc + p.len)))) }
              (countPlaces (countPlaces (pd.foldl (fun s p => afterWrite s p.loc p.len) s) q ps) q pd, .ok ())

/-- `n` bytes of the 8-byte pattern of a FILL (R92). -/
def fillBytes (pat : Word) (n : Nat) : List Byte := (List.range n).map (fun b => BitVec.ofNat 8 (pat.toNat >>> (8 * (b % 8))))

/-- Perform the rows of a COPY or FILL in order; the first fault ends them. -/
def copyRows (m0 : Memory) (q : Req) (d : BitVec 512) : State → List (Nat × Nat) → State × Try Unit
  | s, [] => (s, .ok ())
  | s, (p, r) :: l =>
    let da := rowAddr (dDst d) p r (dStride d 224) (dStride d 288)
    match (if dKind d = 1 then writeGen s q da (fillBytes (dSrc d) (dLen d))
      else copyRow m0 s q (rowAddr (dSrc d) p r (dStride d 192) (dStride d 256)) da (dLen d)) with
    | (s, .ok _) => copyRows m0 q d s l
    | (s, .fault f) => (s, .fault f)
    | (s, .later) => (s, .later)

/-- The rows of a descriptor, plane by plane. -/
def rowsOf (d : BitVec 512) : List (Nat × Nat) :=
  (List.range (dPlanes d)).flatMap (fun p => (List.range (dRows d)).map (fun r => (p, r)))

/-! ## Collectives (R107-R109) -/

/-- The format of a collective's elements. -/
def collFmt : Nat → NFmt
  | 0 => .int 32
  | 1 => fp32
  | 2 => bf16
  | _ => fp16

/-- The smaller or larger of two elements: a NaN gives the canonical NaN, and -0 lies below +0 (R109). -/
def collPick (f : NFmt) (max : Bool) (a b : Nat) : Nat :=
  let x := valueOf f a
  let y := valueOf f b
  if xisNan x || xisNan y then (nanOf f false).getD 0
  else if xisZero x && xisZero y then (if xneg x == max then b else a)
  else if xlt x y == max then b else a

/-- One step of a reduction (R109). -/
def collOp (efmt rop a b : Nat) : Nat :=
  let f := collFmt efmt
  match rop with
  | 0 => if efmt = 0 then (a + b) % 2 ^ 32 else floatAdd f a b
  | 1 => collPick f false a b
  | _ => collPick f true a b

/-- The elements of `n` bytes each of a byte string. -/
def elemsOf (n : Nat) (bs : List Byte) : List Nat :=
  (List.range (bs.length / n)).map (fun i => leNat ((bs.drop (i * n)).take n))

/-- The left fold in rank order of the ranks' elements (R109). -/
def reduceAll (efmt rop : Nat) : List (List Nat) → List Nat
  | [] => []
  | x :: xs => xs.foldl (fun acc y => acc.zipWith (collOp efmt rop) y) x

/-- Segment i of a byte string of P equal segments. -/
def segment (bs : List Byte) (p i : Nat) : List Byte := (bs.drop (bs.length / p * i)).take (bs.length / p)

/-- The result in rank j's DST (R108). -/
def collResult (d : BitVec 512) (p j : Nat) (srcs : List (List Byte)) : List Byte :=
  let es := elemBytes (dEfmt d)
  let red := (reduceAll (dEfmt d) (dRop d) (srcs.map (elemsOf es))).flatMap (leBytes es)
  match dCop d with
  | 0 => red
  | 1 => segment red p j
  | 2 => srcs.flatten
  | 3 => (srcs[dRoot d]?).getD []
  | _ => srcs.flatMap (fun x => segment x p j)

/-- The operations of one collective: those of the same task, group and order (R107). -/
def collSet (s : State) (o : EngOp) : List EngOp :=
  (s.ops.map (·.2)).filter (fun x =>
    decide (x.kind = .coll) && decide (s.taskOf x.agent = s.taskOf o.agent) && dGroup x.desc == dGroup o.desc && x.order == o.order &&
    x.fault.isNone)

/-- Whether two operations of a collective differ in a field that must agree (R107). -/
def collDiffer (x y : EngOp) : Bool :=
  dCop x.desc != dCop y.desc || dRop x.desc != dRop y.desc || dEfmt x.desc != dEfmt y.desc || dLen x.desc != dLen y.desc ||
  dRoot x.desc != dRoot y.desc || x.num != y.num

/-- The package of rank j of a collective's group, by its member list (R107). -/
def memberPkg (o : EngOp) (j : Nat) : Nat := bitsOf (leNat ((o.data.drop (8 * j)).take 8)) 9 0

/-- The ranks of a collective in rank order, when every rank of this package has issued and is on an engine: a rank of another package
stands as none. A COLL is that of the rank that its RANK field gives; the spec does not say what happens where that member entry locates another
tile than the issuer's (R107; DESIGN CHOICE, log entry 131). -/
def collRanks (s : State) (set : List EngOp) (o : EngOp) : Option (List (Option EngOp)) :=
  (List.range o.num).mapM (fun j =>
    if memberPkg o j = s.pkg.toNat then (set.find? (fun x => dRank x.desc == j && decide (x.st = .started))).map some else some none)

/-- The SRC of a rank of another package: free bytes, which only that package knows (DESIGN CHOICE, log entry 109). -/
def freeData (s : State) (n : Nat) : List Byte × State :=
  ((List.range n).map (fun i => (Config.freeBits (s.free + i / 32)).extractLsb' (8 * (i % 32)) 8), { s with free := s.free + n / 32 + 1 })

/-- Whether the COLL of a rank of another package differs in a field that must agree: a free choice, where there is such a rank. -/
def farDiffers (s : State) (os : List (Option EngOp)) : Bool × State :=
  if os.any (·.isNone) then s.freshChoice else (false, s)

/-- Read every rank's SRC; the first fault is that rank's. `d` gives the collective's COP, LEN and ROOT, `j` the next rank. -/
def collRead (d : BitVec 512) : State → Nat → List (Option EngOp) → State × Try (List (List Byte)) × Option EngOp
  | s, _, [] => (s, .ok [], none)
  | s, j, o :: os =>
    let one : State × Try (List Byte) :=
      if dCop d = 3 && j != dRoot d then (s, .ok [])
      else
        match o with
        | none => ((freeData s (dLen d)).2, .ok (freeData s (dLen d)).1)
        | some o => readGen s (s.opReq o) (dSrc o.desc) (dLen o.desc)
    match one with
    | (s, .fault f) => (s, .fault f, o)
    | (s, .later) => (s, .later, none)
    | (s, .ok b) =>
      match collRead d s (j + 1) os with
      | (s, .ok l, x) => (s, .ok (b :: l), x)
      | r => r

/-- Write every rank's DST in this package; a rank that has written is marked. -/
def collWrite (srcs : List (List Byte)) : State → List (Option EngOp) → State × Try Unit × Option EngOp
  | s, [] => (s, .ok (), none)
  | s, none :: os => collWrite srcs s os
  | s, some o :: os =>
    match writeGen s (s.opReq o) (dDst o.desc) (collResult o.desc o.num (dRank o.desc) srcs) with
    | (s, .fault f) => (s, .fault f, some o)
    | (s, .later) => (s, .later, none)
    | (s, .ok _) => collWrite srcs (s.setOp o.agent o.tok.toNat { o with st := .written }) os

/-- Every rank of a mismatched collective ends in ERROR with cause 0x03 and raises TOKEN detail 0x06 (R107). -/
def collMismatch (s : State) : List EngOp → State
  | [] => s
  | o :: os => collMismatch (opFault s o.agent o.tok.toNat (flt clsToken 6) 3) os

/-- The accesses of a collective whose ranks have all come: every SRC is read, then every DST written, and the rank that completes first
ends (R108, R109). -/
def collPerform (s : State) (o : EngOp) (os : List (Option EngOp)) : State :=
  match collRead o.desc s 0 os with
  | (s1, .fault f, some x) => opFault s1 x.agent x.tok.toNat f
  | (s1, .ok srcs, _) =>
    (match collWrite srcs s1 os with
    | (s2, .fault f, some x) => opFault s2 x.agent x.tok.toNat f
    | (s2, .ok _, _) =>
      (match s2.op o.agent o.tok.toNat with
      | some o2 => endCopy s2 s2 o2
      | none => s2)
    | (s2, _, _) => s.waiting s2)
  | (s1, _, _) => s.waiting s1

/-- The first member of a collective that a die cannot reach now, if any (R309, R321). -/
def collCut (s : State) (o : EngOp) : Option Nat :=
  (memberEntries o.data o.num).find? (fun e => !homeReach s o.agent.die (memberLoc e))

/-- A collective completes for a rank (R107-R109). The first rank to complete does the accesses of all. While a member cannot be reached it waits, as
a remote access whose acknowledgement may fail to come (R321; DEDUCED, log entry 130). -/
def execCollectiveComplete (u : Agent) (t : Nat) (s : State) : Host.Outcome State Fault Refusal :=
  match s.op u t with
  | none => .next s
  | some o =>
    if o.kind ≠ .coll ∨ !opRuns s o then .next s
    else if o.st = .written then .next (endCopy s s o)
    else
      let set := collSet s o
      if set.any (collDiffer o) then .next (collMismatch s set)
      else
        match collRanks s set o with
        | none => .next s
        | some os =>
          match collCut s o with
          | some e => .next (noteProbe s (s.opReq o) 0 0 [⟨memberLoc e, false, false, 0⟩])
          | none =>
            let far := farDiffers s os
            if far.1 then .next (collMismatch far.2 set) else .next (collPerform far.2 o os)

end Sys2Proof.Machine
end

