-- ==== Sys2Proof/Machine/Fifo.lean ====
section
/-! DEFINITION. Region FIFOs (R116, R243): what a consumer can read, what a producer can add, and who holds the roles. -/

namespace Sys2Proof.Machine

/-- Entries a FIFO holds (R116). -/
def fifoDepth : Nat := 64

/-- FIFO f of a region. -/
def Region.fifo (r : Region) (f : Nat) : Fifo := tget r.fifos f {}
/-- Replace FIFO f of a region. -/
def Region.setFifo (r : Region) (f : Nat) (x : Fifo) : Region := { r with fifos := tset r.fifos f x }

/-- The entries that a consumer can see: neither retained nor uncommitted (R243). -/
def Fifo.readable (x : Fifo) : List Val := (x.entries.drop x.retained).take (x.entries.length - x.retained - x.uncommitted)
/-- The entries that a producer can still add (R116, R163). -/
def Fifo.room (x : Fifo) : Nat := fifoDepth - x.entries.length - x.reserved

/-- A producer outside the block runs pushes an entry (R117). -/
def Fifo.push (x : Fifo) (v : Val) : Fifo := { x with entries := x.entries ++ [v] }
/-- A consumer outside the block runs takes the first readable entry (R117). -/
def Fifo.pop (x : Fifo) : Fifo := { x with entries := x.entries.eraseIdx x.retained }
/-- A block run pops: the entry is retained until the next waypoint (R243). -/
def Fifo.popRun (x : Fifo) : Fifo := { x with retained := x.retained + 1 }
/-- A block run pushes: the entry is uncommitted until the next waypoint (R243). -/
def Fifo.pushRun (x : Fifo) (v : Val) : Fifo := { x with entries := x.entries ++ [v], uncommitted := x.uncommitted + 1 }
/-- A waypoint of the run's stage that pops the FIFO drops the retained entries (R243). -/
def Fifo.commitPops (x : Fifo) : Fifo := { x with entries := x.entries.drop x.retained, retained := 0 }
/-- A waypoint of the run's stage that pushes it commits the uncommitted entries (R243). -/
def Fifo.commitPushes (x : Fifo) : Fifo := { x with uncommitted := 0 }
/-- A replay: retained entries return to the head, uncommitted ones are dropped (R243). -/
def Fifo.rewind (x : Fifo) : Fifo :=
  { x with entries := x.entries.take (x.entries.length - x.uncommitted), retained := 0, uncommitted := 0, reserved := 0 }
/-- QCLR.FLUSH: the FIFO is empty (R118). -/
def Fifo.flush (x : Fifo) : Fifo := { x with entries := [], retained := 0, uncommitted := 0 }

/-- Change FIFO f of the region of an agent. -/
def modFifo (s : State) (a : Agent) (f : Nat) (g : Fifo → Fifo) : State :=
  match ownRegion s a with
  | none => s
  | some r => s.modRegion r (fun x => x.setFifo f (g (x.fifo f)))

/-- FIFO f of the region of an agent; an agent without one sees an empty FIFO. -/
def agentFifo (s : State) (a : Agent) (f : Nat) : Fifo :=
  match (ownRegion s a).bind s.region with
  | none => {}
  | some x => x.fifo f

/-- Release the producer role that a claim holds. -/
def dropProducer (c : Claim) (x : Fifo) : Fifo := if x.producer = some c then { x with producer := none } else x
/-- Release the consumer role that a claim holds. -/
def dropConsumer (c : Claim) (x : Fifo) : Fifo := if x.consumer = some c then { x with consumer := none } else x

/-- A lane word with a side-band of 0x7F (R117). -/
def plainVal (w : Nat) : Val := { w := BitVec.ofNat 80 w, sb := 0x7F }

end Sys2Proof.Machine
end

