-- ==== Sys2Proof/Machine/RowWord.lean ====
section
/-! DEFINITION. The element row word (R26, R27), the fusing word (R177, R178) and the checks that BLOAD makes of both
(R187, R188, R192-R211, R219-R230). -/

namespace Sys2Proof.Machine

/-- Bits [hi:lo] of a row word. -/
def rbits (w : RowWord) (hi lo : Nat) : Nat := bitsOf w.toNat hi lo
/-- OP. -/
def rOp (w : RowWord) : Nat := rbits w 127 121
/-- SPLIT. -/
def rSplit (w : RowWord) : Nat := rbits w 120 119
/-- SHP. -/
def rShp (w : RowWord) : Nat := rbits w 118 117
/-- SA. -/
def rSA (w : RowWord) : Nat := rbits w 116 108
/-- SB. -/
def rSB (w : RowWord) : Nat := rbits w 107 99
/-- SC. -/
def rSC (w : RowWord) : Nat := rbits w 98 90
/-- DST. -/
def rDst (w : RowWord) : Nat := rbits w 89 84
/-- LIFE. -/
def rLife (w : RowWord) : Nat := rbits w 83 78
/-- HOLD. -/
def rHold (w : RowWord) : Nat := rbits w 77 74
/-- RND. -/
def rRnd (w : RowWord) : BitVec 2 := BitVec.ofNat 2 (rbits w 73 72)
/-- FTZI. -/
def rFtzi (w : RowWord) : Bool := w.toNat.testBit 71
/-- FTZO. -/
def rFtzo (w : RowWord) : Bool := w.toNat.testBit 70
/-- SAT. -/
def rSat (w : RowWord) : BitVec 2 := BitVec.ofNat 2 (rbits w 69 68)
/-- ACC. -/
def rAcc (w : RowWord) : Nat := rbits w 67 64
/-- CONST. -/
def rConst (w : RowWord) : Nat := rbits w 63 32
/-- EXT. -/
def rExt (w : RowWord) : Nat := rbits w 31 0
/-- Bits [hi:lo] of EXT. -/
def xbits (w : RowWord) (hi lo : Nat) : Nat := bitsOf (rExt w) hi lo
/-- A row word with its CONST replaced (R168). -/
def withConst (w : RowWord) (v : Half) : RowWord :=
  BitVec.ofNat 128 (w.toNat - rConst w * 2 ^ 32 + v.toNat * 2 ^ 32)

/-! ## The operations (R28, R188, R211) -/

/-- Which destinations an operation allows (R188, R211). -/
inductive DstSet where
  /-- 0-50 and 63 -/
  | any
  /-- 42-49 -/
  | fifo
  /-- 38-41 -/
  | acc
  /-- 0-37, 42-50 and 63 -/
  | accr
  /-- 63 -/
  | discard
  deriving DecidableEq, Repr

/-- A row of the operation summaries: the sources read, the destinations, the EXT bits defined, whether SPLIT must be 00, and
whether SAT, RND, FTZI and FTZO are used, and the latency (R187, R188, R210, R211). -/
structure OpRow where
  ra   : Bool
  rb   : Bool
  rc   : Bool
  dst  : DstSet
  ext  : Nat
  two  : Bool
  sat  : Bool
  rnd  : Bool
  ftzi : Bool
  ftzo : Bool
  lat  : Nat
  deriving DecidableEq, Repr

/-- An operation of the integer summary (R188): its sources by number, destinations, EXT bits, SAT, latency. -/
def intRow (n : Nat) (d : DstSet) (ext : Nat) (sat : Bool) (lat : Nat) : OpRow :=
  ⟨decide (1 ≤ n), decide (2 ≤ n), decide (3 ≤ n), d, ext, false, sat, false, false, false, lat⟩

/-- An operation of the float and conversion summary (R211): its sources by number, EXT bits, RND, FTZI, FTZO, latency. -/
def fltRow (n ext : Nat) (rnd ftzi ftzo : Bool) (lat : Nat) : OpRow :=
  ⟨decide (1 ≤ n), decide (2 ≤ n), decide (3 ≤ n), .any, ext, true, false, rnd, ftzi, ftzo, lat⟩

/-- The row of an OP in the summaries (R188, R211); EMPTY (00) stands apart (R192). -/
def opRow (op : Nat) : Option OpRow :=
  match op with
  | 0x01 => some (intRow 1 .any 0 false 1)
  | 0x02 => some (intRow 2 .any 0x3F false 1)
  | 0x03 => some (intRow 1 .any 3 false 1)
  | 0x04 => some (intRow 1 .fifo 3 false 1)
  | 0x05 => some (intRow 1 .discard 0 false 1)
  | 0x10 | 0x11 | 0x12 => some ⟨true, true, false, .acc, 0x3F, false, true, true, true, true, 3⟩
  | 0x13 => some (intRow 2 .any 7 false 2)
  | 0x14 => some (intRow 3 .any 7 true 2)
  | 0x15 => some (intRow 0 .accr 0 false 1)
  | 0x16 => some (intRow 0 .discard 0 false 1)
  | 0x17 => some ⟨true, false, false, .discard, 1, false, true, true, true, true, 2⟩
  | 0x18 => some (intRow 1 .discard 0 false 1)
  | 0x20 | 0x21 => some (intRow 2 .any 1 true 1)
  | 0x22 => some (intRow 2 .any 1 true 2)
  | 0x23 => some (intRow 3 .any 1 true 2)
  | 0x24 | 0x25 => some (intRow 2 .any 1 false 1)
  | 0x26 | 0x27 => some (intRow 1 .any 0 true 1)
  | 0x28 | 0x29 | 0x2A => some (intRow 2 .any 0 false 1)
  | 0x2B => some (intRow 1 .any 0 false 1)
  | 0x2C | 0x2D | 0x2E | 0x2F => some (intRow 2 .any 0 false 1)
  | 0x30 => some (intRow 3 .any 0 false 1)
  | 0x31 => some (intRow 3 .any 1 false 1)
  | 0x32 | 0x33 => some (intRow 1 .any 0 false 1)
  | 0x34 => some (intRow 1 .any 0xFFF false 1)
  | 0x35 | 0x36 => some (intRow 2 .any 1 true 1)
  | 0x40 | 0x41 | 0x42 => some (fltRow 2 0 true true true 2)
  | 0x43 | 0x44 => some (fltRow 3 0 true true true 3)
  | 0x45 | 0x46 => some (fltRow 2 0 false true true 1)
  | 0x47 | 0x48 => some (fltRow 1 0 false true true 1)
  | 0x49 => some (fltRow 2 0 false true false 1)
  | 0x4A | 0x4B | 0x4C | 0x4D => some (fltRow 1 0 false true true 4)
  | 0x4E => some (fltRow 1 0 true true true 1)
  | 0x4F => some (fltRow 1 0 false true false 1)
  | 0x50 | 0x51 | 0x52 => some (fltRow 2 0x3FFFFF true true true 1)
  | 0x53 => some (fltRow 2 0x1FFF001F true true true 2)
  | 0x54 => some (fltRow 1 0xFFE0 true true true 1)
  | 0x55 => some (fltRow 2 0x1F false true false 1)
  | 0x56 => some (fltRow 0 0xF false false false 1)
  | 0x57 => some (intRow 2 .any 4 true 1)
  | 0x58 => some (intRow 1 .any 7 false 1)
  | 0x59 => some (fltRow 2 0 true true true 2)
  | 0x5A => some (fltRow 1 1 false true true 1)
  | 0x60 | 0x61 => some (fltRow 2 0xFF false false false 1)
  | 0x68 => some ⟨true, true, false, .any, 3, true, true, true, true, true, 2⟩
  | 0x69 => some ⟨true, true, false, .any, 3, true, true, false, true, true, 1⟩
  | 0x6A => some ⟨false, false, false, .discard, 0x7FF, true, false, false, false, false, 1⟩
  | 0x6B => some ⟨true, false, false, .discard, 0xFF, true, false, false, false, false, 1⟩
  | _ => none

/-- The latency L of a row word's operation (R188). -/
def rowLatency (w : RowWord) : Nat := ((opRow (rOp w)).map (·.lat)).getD 1
/-- Whether a row word's operation is DOT, DOTA or DOTS. -/
def isDot (w : RowWord) : Bool := rOp w == 0x10 || rOp w == 0x11 || rOp w == 0x12

/-- Which sources a row word reads; SB of QIN and QOUT only under COND (R195, R196). -/
def rowReads (w : RowWord) : Bool × Bool × Bool :=
  match opRow (rOp w) with
  | none => (false, false, false)
  | some r => (r.ra, r.rb || ((rOp w == 3 || rOp w == 4) && (rExt w).testBit 1), r.rc)

/-! ## The fusing word (R177, R178) -/

/-- FMTA of a fusing word. -/
def fwA (f : Word) : Nat := bitsOf f.toNat 63 60
/-- FMTB of a fusing word. -/
def fwB (f : Word) : Nat := bitsOf f.toNat 59 56
/-- MODE of a fusing word: whether it is float. -/
def fwFloat (f : Word) : Bool := f.toNat.testBit 45
/-- ACCP of a fusing word. -/
def fwAccp (f : Word) : Nat := bitsOf f.toNat 44 43
/-- Digits of an operand of a tagged format (R176). -/
def fmtDigits (k : Nat) : Nat :=
  match k with
  | 0x1 | 0x8 => 1
  | 0x2 | 0x7 | 0x9 | 0xA | 0xB | 0xC => 2
  | 0x3 => 3
  | 0x4 | 0x6 | 0xD => 4
  | 0xE => 6
  | _ => 8
/-- The elements of a lane word of a tagged format (R57). -/
def wordSlots (k : Nat) : Nat := 80 / taggedWidth k
/-- Multipliers that fit the bricks (R178). -/
def fwP (f : Word) : Nat := 80 / (fmtDigits (fwA f) * fmtDigits (fwB f))
/-- U: the A elements used per output (R178). -/
def fwU (f : Word) : Nat := min (min (wordSlots (fwA f)) (wordSlots (fwB f))) (fwP f)
/-- NOUT: the outputs per DOT (R178). -/
def fwNout (f : Word) : Nat := min 4 (fwP f / fwU f)

/-- Whether a fusing word breaks a check of R178 (ILLEGAL detail 0x16). -/
def fusingBad (f : Word) : Bool :=
  let inInt (k : Nat) : Bool := decide (1 ≤ k) && decide (k ≤ 6)
  let inFlt (k : Nat) : Bool := decide (7 ≤ k) && decide (k ≤ 14)
  let sg (k : Nat) : Bool := decide (k ≤ 5)
  (if fwFloat f then !inFlt (fwA f) || !inFlt (fwB f) else !inInt (fwA f) || !inInt (fwB f)) ||
  bitsOf f.toNat 55 52 != fmtDigits (fwA f) || bitsOf f.toNat 51 48 != fmtDigits (fwB f) ||
  f.toNat.testBit 47 != sg (fwA f) || f.toNat.testBit 46 != sg (fwB f) ||
  bitsOf f.toNat 42 40 != fwNout f || bitsOf f.toNat 39 32 != fwNout f * fwU f ||
  decide (1 < fwAccp f) || (fwAccp f == 1 && fwFloat f) || bitsOf f.toNat 31 0 != 0

/-! ## Lane format codes (R218) -/

/-- The format of a lane format code. -/
def laneFmt (k : Nat) : Option NFmt :=
  match k with
  | 0x10 => some fp32
  | 0x11 => some (.int 32)
  | 0x12 => some (.nat 16)
  | _ => if k ≤ 14 then taggedFmt k else none
/-- Whether a lane format code names a float format other than K4X. -/
def laneIsFloat (k : Nat) : Bool := ((laneFmt k).map fmtIsFloat).getD false
/-- Whether a lane format code names one of I2 to I16, N8, I32 and N16. -/
def laneIsInt (k : Nat) : Bool := (laneFmt k).isSome && !laneIsFloat k && k != 7
/-- Elements of a lane word of a lane format code. -/
def laneSlots (k : Nat) : Nat :=
  match laneFmt k with
  | none => 0
  | some f => if k = 0x10 ∨ k = 0x11 then 2 else 80 / fmtWidth f

/-! ## The checks of a row word -/

/-- The special source that reads the anchor (R27). -/
def srcAnchor : Nat := 0x1C3

/-- Whether a source encoding is reserved (R27). -/
def srcReserved (v : Nat) : Bool :=
  let k := v % 64
  match v / 64 with
  | 0 => decide (8 ≤ k)
  | 1 => decide (32 ≤ k)
  | 2 => false
  | 3 => decide (3 ≤ k)
  | 4 => decide (4 ≤ k)
  | 5 => decide (16 ≤ k)
  | 6 => decide (2 ≤ k)
  | _ => decide (4 ≤ k)

/-- A source that is read: detail 0x10 for a reserved encoding, 0x14 for a tap beyond its line (R27). -/
def srcFault (hplen : List Nat) (v : Nat) : Option Nat :=
  if srcReserved v then some 0x10
  else if v / 64 = 2 ∧ (hplen[v % 64 / 16]?).getD 1 ≤ v % 16 then some 0x14
  else none

/-- Whether a set of destinations holds a value. -/
def dstIn (d : DstSet) (v : Nat) : Bool :=
  match d with
  | .any => decide (v ≤ 50) || v == 63
  | .fifo => decide (42 ≤ v) && decide (v ≤ 49)
  | .acc => decide (38 ≤ v) && decide (v ≤ 41)
  | .accr => decide (v ≤ 37) || (decide (42 ≤ v) && decide (v ≤ 50)) || v == 63
  | .discard => v == 63

/-- Whether an ACC value is one that the operation's entry defines. -/
def accOk (w : RowWord) : Bool :=
  let a := rAcc w
  let lo := a % 4
  let hi := a / 4
  match rOp w with
  | 0x05 => hi == 0 || ((hi == 1 || hi == 2) && lo == 0)
  | 0x10 | 0x12 => lo != 1 && hi == 0
  | 0x11 => lo != 1 && hi != 1 && (lo != hi || lo == 0)
  | 0x15 => !((a / 4) % 2 == 1 && lo == 3)
  | 0x16 => a != 0
  | 0x17 | 0x18 => decide (a < 8) && !(hi == 1 && lo == 3)
  | 0x2F => decide (a ≤ 9)
  | 0x49 => decide (a ≤ 7)
  | 0x6B => decide (a ≤ 3)
  | _ => a == 0

/-- Whether an operation uses SAT, RND, FTZI, FTZO and a SPLIT other than 00, where the mode or the formats decide
(R187, R205, R210, R219, R228). The DOT family uses FTZI and FTZO whatever its mode: R187 exempts it by name. -/
def rowUses (w : RowWord) (r : OpRow) : OpRow :=
  let im := (rExt w) % 2 == 1
  match rOp w with
  | 0x17 => if im then { r with rnd := false, ftzi := false, ftzo := false } else { r with sat := false }
  | 0x50 | 0x51 | 0x52 => { r with ftzi := laneIsFloat (xbits w 9 5), ftzo := laneIsFloat (xbits w 4 0) }
  | 0x68 => if im then { r with sat := false } else { r with rnd := false, ftzi := false, ftzo := false, two := false }
  | 0x69 => if im then { r with sat := false } else { r with sat := false, ftzi := false, ftzo := false, two := false }
  | _ => r

/-- The widening halves of a SPLIT (R201). -/
def halves2 (split : Nat) : Nat := if split = 1 then 3 else 2

/-- The checks of an operation's own entry, after its fields: the ILLEGAL detail and the bit position of the field
(R194-R230). -/
def entryFault (w : RowWord) (shape : Word) : Option (Nat × Nat) :=
  let dst := rDst w
  let chk (b : Bool) (k pos : Nat) : Option (Nat × Nat) := if b then some (k, pos) else none
  match rOp w with
  | 0x02 =>
    let d := xbits w 5 0
    chk ((d != 32 && d != 33 && d != 63) || (d == dst && d != 63)) 0x11 0
  | 0x03 => chk (rSA w / 64 != 5) 0x10 108
  | 0x05 => chk (rSA w == srcAnchor) 0x10 108
  | 0x10 | 0x11 | 0x12 =>
    let na := wordSlots (fwA shape)
    let nb := wordSlots (fwB shape)
    let j := xbits w 5 0
    let m := if rOp w = 0x11 then 1 else fwNout shape
    chk (rSA w / 64 == 4 || rSA w == srcAnchor) 0x10 108 <|>
    chk (if rOp w = 0x11 then rSB w / 64 == 4 || rSB w == srcAnchor else rSB w != srcAnchor) 0x10 99 <|>
    chk (decide (na < j + fwU shape) || (if na ≤ nb then decide (nb < j + fwU shape) else j % fwU shape != 0)) 0x03 0 <|>
    chk (decide (4 < dst - 38 + m)) 0x11 84
  | 0x13 | 0x14 => chk (decide (halves2 (rSplit w) ≤ xbits w 1 0)) 0x03 0
  | 0x34 =>
    let n := xbits w 10 5
    chk (n == 0 || decide (32 < n) || decide (([32, 16, 8, 4][rSplit w]?).getD 4 < xbits w 4 0 + n)) 0x03 5
  | 0x35 | 0x36 => chk (rSat w == 1 || rSat w == 3) 0x03 68
  | 0x50 | 0x51 | 0x52 =>
    let sf := xbits w 9 5
    let df := xbits w 4 0
    let n := min (laneSlots sf) (laneSlots df)
    chk (!(if rOp w = 0x51 then laneIsInt sf else laneIsFloat sf)) 0x03 5 <|>
    chk (!(if rOp w = 0x52 then laneIsInt df else laneIsFloat df)) 0x03 0 <|>
    chk (decide (laneSlots sf < xbits w 15 10 + n)) 0x03 10 <|> chk (decide (laneSlots df < xbits w 21 16 + n)) 0x03 16
  | 0x53 =>
    let df := xbits w 4 0
    chk (df == 0 || decide (14 < df) || df == 7) 0x03 0 <|> chk (decide (laneSlots df < xbits w 21 16 + 2)) 0x03 16 <|>
    chk (xbits w 23 22 == 3) 0x03 22 <|> chk (xbits w 23 22 == 2 && rConst w % 256 == 0xFF) 0x03 32
  | 0x54 =>
    let sf := xbits w 9 5
    chk (sf == 0 || decide (14 < sf)) 0x03 5 <|> chk (decide (laneSlots sf < xbits w 15 10 + 2)) 0x03 10
  | 0x57 => chk (rSplit w == 3) 0x03 119
  | 0x58 => chk (rSplit w == 0) 0x03 119 <|> chk (decide (halves2 (rSplit w) ≤ xbits w 1 0)) 0x03 0
  | 0x60 | 0x61 =>
    let d := xbits w 5 0
    chk (xbits w 7 6 == 3) 0x03 6 <|>
    chk (!((decide (32 ≤ d) && decide (d ≤ 49)) || d == 63) || (d == dst && d != 63)) 0x11 0
  | 0x68 | 0x69 => chk (xbits w 0 0 == 1 && xbits w 1 1 == 1) 0x03 1
  | 0x6A => chk (xbits w 10 4 == 0 || decide (64 < xbits w 10 4)) 0x03 4
  | _ => none

/-- The lowest bit set in a number of 32 bits. -/
def lowBit (v : Nat) : Nat := ((List.range 32).find? (fun i => v.testBit i)).getD 0

/-- A check with its detail and field position. -/
def rowChk (b : Bool) (k pos : Nat) : Option (Nat × Nat) := if b then some (k, pos) else none

/-- The first broken check of an EMPTY word: every field but HOLD is zero, and HOLD is 0000 or 0111; a destination is one that the entry
does not allow, an ACC one that it does not define, any other field one that it does not use (R26, R192). -/
def emptyFault (w : RowWord) : Option (Nat × Nat) :=
  rowChk (rHold w != 0 && rHold w != 7) 0x15 74 <|> rowChk (rDst w != 0) 0x11 84 <|> rowChk (rLife w != 0) 0x02 78 <|>
  rowChk (rSA w != 0) 0x02 108 <|> rowChk (rSB w != 0) 0x02 99 <|> rowChk (rSC w != 0) 0x02 90 <|> rowChk (rShp w != 0) 0x02 117 <|>
  rowChk (rSat w != 0) 0x02 68 <|> rowChk (rRnd w != 0) 0x02 72 <|> rowChk (rFtzi w) 0x02 71 <|> rowChk (rFtzo w) 0x02 70 <|>
  rowChk (rSplit w != 0) 0x02 119 <|> rowChk (rExt w != 0) 0x02 (lowBit (rExt w)) <|> rowChk (rConst w != 0) 0x02 32 <|>
  rowChk (rAcc w != 0) 0x03 64

/-- The first broken check of a row word in a block with these shapes and hairpin lengths: its ILLEGAL detail and the bit
position of the field (R25, R26, R187, R192, R210). `srcs` says whether the source fields are to be read as R27 encodings; where
a record names a producer for a source, that field is checked with the graph (R233). -/
def rowFault (shapes : List Word) (hplen : List Nat) (srcs : Bool × Bool × Bool) (w : RowWord) : Option (Nat × Nat) :=
  let chk (b : Bool) (k pos : Nat) : Option (Nat × Nat) := if b then some (k, pos) else none
  let hold := rHold w
  if rOp w = 0 then emptyFault w
  else
    match opRow (rOp w) with
    | none => some (0x01, 121)
    | some r0 =>
      let shape := (shapes[rShp w]?).getD 0
      let r := rowUses w r0
      let (ra, rb, rc) := rowReads w
      let src (reads asked : Bool) (v pos : Nat) : Option (Nat × Nat) :=
        if reads then (if asked then (srcFault hplen v).map (fun k => (k, pos)) else none) else chk (v != 0) 0x02 pos
      let life := rLife w
      let odd := (rExt w) &&& (0xFFFFFFFF - r.ext)
      chk (decide (7 < hold)) 0x15 74 <|>
      chk (!dstIn r.dst (rDst w)) 0x11 84 <|>
      chk (if rDst w < 32 then life == 0 else life != 0) 0x12 78 <|>
      src ra srcs.1 (rSA w) 108 <|> src rb srcs.2.1 (rSB w) 99 <|> src rc srcs.2.2 (rSC w) 90 <|>
      (if isDot w then chk (decide (shapes.length ≤ rShp w)) 0x13 117 else chk (rShp w != 0) 0x02 117) <|>
      chk (!r.sat && rSat w != 0) 0x02 68 <|> chk (!r.rnd && rRnd w != 0) 0x02 72 <|>
      chk (!r.ftzi && rFtzi w) 0x02 71 <|> chk (!r.ftzo && rFtzo w) 0x02 70 <|>
      chk (r.two && rSplit w != 0) 0x03 119 <|>
      chk (odd != 0) 0x02 (lowBit odd) <|>
      chk (!accOk w) 0x03 64 <|>
      entryFault w shape

end Sys2Proof.Machine
end

