-- ==== Sys2Proof/Machine/Lanes.lean ====
section
/-! DEFINITION. Arithmetic on lane words: lanes and slots, IntOut (R190), the float lane (R212-R215), the seeds (R216), K4X
words (R60, R225, R226), the products and the tree of a dot product (R180-R183), and the accumulation steps (R184, R185). -/

namespace Sys2Proof.Machine

/-! ## Lanes and slots (R35, R57) -/

/-- Whether a code of a format is a zero. -/
def codeZero (f : NFmt) (c : Nat) : Bool := xisZero (valueOf f c)

/-- Lane width of a SPLIT. -/
def laneWidth (split : Nat) : Nat := ([32, 16, 8, 4][split]?).getD 4
/-- Lanes of a SPLIT. -/
def laneCount (split : Nat) : Nat := ([2, 5, 10, 20][split]?).getD 20
/-- Item i of width n of a lane word. -/
def slotOf (w : Lanes) (n i : Nat) : Nat := (w.toNat >>> (n * i)) % 2 ^ n
/-- The first `k` items of width n. -/
def slotsOf (w : Lanes) (n k : Nat) : List Nat := (List.range k).map (slotOf w n)
/-- The lanes of a word at a SPLIT. -/
def lanesOf (w : Lanes) (split : Nat) : List Nat := slotsOf w (laneWidth split) (laneCount split)
/-- Items of width n joined from bit 0 upward. -/
def joinSlots (n : Nat) : List Nat → Nat
  | [] => 0
  | x :: xs => x % 2 ^ n + 2 ^ n * joinSlots n xs
/-- A lane word of items of width n. -/
def wordOf (n : Nat) (xs : List Nat) : Lanes := BitVec.ofNat 80 (joinSlots n xs)
/-- A lane word with item i of width n replaced. -/
def putSlot (w : Lanes) (n i v : Nat) : Lanes :=
  BitVec.ofNat 80 (w.toNat - slotOf w n i * 2 ^ (n * i) + v % 2 ^ n * 2 ^ (n * i))
/-- Lane l of a word at 2×32. -/
def half32 (w : Lanes) (l : Nat) : Nat := slotOf w 32 l

/-- A lane read natural or signed. -/
def laneInt (v w : Nat) (nat : Bool) : Int := if nat then (v % 2 ^ w : Nat) else sextNat v w

/-! ## IntOut (R190) -/

/-- What IntOut gives: the lane, whether ISAT is set, whether SCHED detail 0x03 is raised. -/
structure IntRes where
  v     : Nat
  isat  : Bool := false
  fault : Bool := false
  deriving DecidableEq, Repr

/-- The lower end of a range of w bits. -/
def intLo (w : Nat) (nat : Bool) : Int := if nat then 0 else -((2 ^ (w - 1) : Nat) : Int)
/-- The upper end of a range of w bits. -/
def intHi (w : Nat) (nat : Bool) : Int := if nat then (2 ^ w : Nat) - 1 else ((2 ^ (w - 1) : Nat) : Int) - 1
/-- Wrap of an integer to n bits (R35). -/
def wrapInt (t : Int) (n : Nat) : Nat := (t % ((2 ^ n : Nat) : Int)).toNat
/-- The nearest end of a range, or the value inside it. -/
def clampInt (t lo hi : Int) : Int := max lo (min hi t)

/-- IntOut (R190). -/
def intOut (t : Int) (w : Nat) (nat : Bool) (sat : BitVec 2) : IntRes :=
  let lo := intLo w nat
  let hi := intHi w nat
  if lo ≤ t ∧ t ≤ hi then ⟨wrapInt t w, false, false⟩
  else
    match sat with
    | 0 => ⟨wrapInt t w, false, false⟩
    | 1 => ⟨wrapInt (clampInt t lo hi) w, false, false⟩
    | 2 => ⟨wrapInt (clampInt t lo hi) w, true, false⟩
    | _ => ⟨0, false, true⟩

/-! ## The float lane (R212-R215) -/

/-- The canonical FP32 NaN. -/
def nan32 : Nat := 0x7FC00000
/-- An FP32 lane after FlushIn. -/
def f32In (ftzi : Bool) (v : Nat) : XNum := flushIn fp32 ftzi v
/-- The sign of an FP32 code. -/
def f32Neg (v : Nat) : Bool := v.testBit 31

/-- The result of an exact term: a NaN, an infinity carried from an input, or one rounding (R212). -/
def floatOut (t : XNum) (rnd : BitVec 2) (ftzo : Bool) (rsr : Half) : Rounded :=
  match t with
  | .nan _ => ⟨nan32, 0, rsr⟩
  | .inf s => ⟨withSign fp32 s 0x7F800000, 0, rsr⟩
  | .fin .. => roundNarrow t fp32 rnd ftzo rsr

/-- The value negated. -/
def xflip (x : XNum) : XNum := xsign (!xneg x) x
/-- A code with its subnormals flushed to the zero of their sign (FTZO without a rounding, R213). -/
def flushCode (f : NFmt) (ftzo : Bool) (c : Nat) : Nat := if ftzo && isSubnormal f c then withSign f (xneg (valueOf f c)) 0 else c

/-- The exact code of an FP32 value that is one. -/
def code32 (x : XNum) : Nat :=
  match x with
  | .nan _ => nan32
  | .inf s => withSign fp32 s 0x7F800000
  | .fin .. => rne fp32 x

/-- FMIN or FMAX of two values (R213). -/
def pick32 (mx : Bool) (x y : XNum) : XNum :=
  if xisNan x || xisNan y then .nan false
  else if xisZero x && xisZero y then (if xneg x == mx then y else x)
  else if xlt x y == mx then y else x

/-- FRND of a lane (R215). -/
def frndLane (v : Nat) (ftzi : Bool) (rnd : BitVec 2) (rsr : Half) : Nat × Half :=
  match f32In ftzi v with
  | .nan _ => (nan32, rsr)
  | .inf s => (withSign fp32 s 0x7F800000, rsr)
  | .fin s m e =>
    if 0 ≤ e then (code32 (.fin s m e), rsr)
    else
      let (y, num, den) := truncAt m e 0
      let (up, rsr) := if num = 0 then (false, rsr) else roundUp rnd num den (y % 2 == 1) rsr
      (code32 (.fin s (if up then y + 1 else y) 0), rsr)

/-- FCLS of a lane (R215). -/
def fclsLane (v : Nat) (ftzi : Bool) : Nat :=
  let x := f32In ftzi v
  let sub := isSubnormal fp32 v
  match x with
  | .nan _ => 2 ^ 8
  | .inf s => if s then 2 ^ 0 else 2 ^ 7
  | .fin s m _ => if m = 0 then (if s then 2 ^ 3 else 2 ^ 4) else if sub then (if s then 2 ^ 2 else 2 ^ 5) else (if s then 2 ^ 1 else 2 ^ 6)

/-- The condition of FCMP by its code (R214). -/
def fcmpCond (k : Nat) (x y : XNum) : Bool :=
  let uo := xisNan x || xisNan y
  match k with
  | 0 => xeq x y
  | 1 => !xeq x y
  | 2 => xlt x y
  | 3 => xlt x y || xeq x y
  | 4 => xlt y x
  | 5 => xlt y x || xeq x y
  | 6 => uo
  | _ => !uo

/-! ## Seeds (R216) -/

/-- Round12: 12 significant binary digits, ties to even. -/
def round12 (x : XNum) : XNum :=
  match x with
  | .fin s m e =>
    if m < 4096 then x
    else
      let k := m.log2 - 11
      let y := m / 2 ^ k
      let r := m % 2 ^ k
      .fin s (if 2 ^ k < 2 * r ∨ (2 * r = 2 ^ k ∧ y % 2 = 1) then y + 1 else y) (e + k)
  | y => y

/-- The integer square root, bit by bit from bit b - 1. -/
def isqrtFrom (n : Nat) : Nat → Nat → Nat
  | 0, r => r
  | b + 1, r => isqrtFrom n b (if (r + 2 ^ b) * (r + 2 ^ b) ≤ n then r + 2 ^ b else r)

/-- A real lying strictly between q × 2^e and (q + 1) × 2^e when `more`, else q × 2^e exactly; Round12 of it needs no more. -/
def sticky (neg : Bool) (q : Nat) (more : Bool) (e : Int) : XNum := .fin neg (2 * q + (if more then 1 else 0)) (e - 1)

/-- 1/a for a nonzero finite a. -/
def recipX (s : Bool) (m : Nat) (e : Int) : XNum :=
  let k := m.log2 + 16
  sticky s (2 ^ k / m) (2 ^ k % m != 0) (-e - k)

/-- 1/√a for a positive finite a. -/
def rsqrtX (m : Nat) (e : Int) : XNum :=
  let m := if e % 2 = 0 then m else 2 * m
  let e := if e % 2 = 0 then e else e - 1
  let k := m.log2 / 2 + 16
  let n := 2 ^ (2 * k) / m
  let q := isqrtFrom n 40 0
  sticky false q (q * q * m != 2 ^ (2 * k)) (-(e / 2) - k)

/-- Bits of fraction of the series below. -/
def fxBits : Nat := 240
/-- The sum of z^(2i+1)/(2i+1) from term i, `n` terms, in fixed point: z² and the power z^(2i+1). -/
def atanhFrom (z2 : Nat) : Nat → Nat → Nat → Nat
  | 0, _, _ => 0
  | n + 1, i, p => p / (2 * i + 1) + atanhFrom z2 n (i + 1) (p * z2 / 2 ^ fxBits)
/-- atanh of a fixed-point z of at most 1/3. -/
def atanhFx (z : Nat) : Nat := atanhFrom (z * z / 2 ^ fxBits) 80 0 z
/-- ln 2 in fixed point: 2 atanh(1/3). -/
def ln2Fx : Nat := 2 * atanhFx (2 ^ fxBits / 3)
/-- The sum of y^i/i! from term i, `n` terms, in fixed point. -/
def expFrom (y : Nat) : Nat → Nat → Nat → Nat
  | 0, _, _ => 0
  | n + 1, i, t => t + expFrom y n (i + 1) (t * y / 2 ^ fxBits / (i + 1))

/-- 2^a for a = sign × m × 2^e. -/
def exp2X (s : Bool) (m : Nat) (e : Int) : XNum :=
  let v : Int := (m * 2 ^ (e + fxBits).toNat : Nat)
  let v := if s then -v else v
  let n := v / ((2 ^ fxBits : Nat) : Int)
  let f := (v % ((2 ^ fxBits : Nat) : Int)).toNat
  if f = 0 then .fin false 1 n
  else sticky false (expFrom (f * ln2Fx / 2 ^ fxBits) 60 0 (2 ^ fxBits)) true (n - fxBits)

/-- log2 a for a positive finite a. -/
def log2X (m : Nat) (e : Int) : XNum :=
  let l := m.log2
  let k : Int := l + e
  if m = 2 ^ l then xint k
  else
    let at2 := 2 * atanhFx ((m - 2 ^ l) * 2 ^ fxBits / (m + 2 ^ l)) * 2 ^ fxBits / ln2Fx
    let t : Int := k * ((2 ^ fxBits : Nat) : Int) + (at2 : Nat)
    if 0 ≤ t then sticky false t.toNat true (-fxBits) else .fin true (2 * t.natAbs - 1) (-fxBits - 1)

/-- The seed of a lane: OP 4A RSQS, 4B RCPS, 4C EX2S, 4D LG2S (R216). -/
def seedLane (op : Nat) (x : XNum) (ftzo : Bool) : Rounded :=
  let inf (s : Bool) : Rounded := ⟨withSign fp32 s 0x7F800000, 0, 1⟩
  let nan : Rounded := ⟨nan32, 0, 1⟩
  let out (y : XNum) : Rounded := roundNarrow (round12 y) fp32 1 ftzo 1
  match op, x with
  | _, .nan _ => nan
  | 0x4A, .inf s => if s then nan else ⟨0, 0, 1⟩
  | 0x4A, .fin s m e => if m = 0 then inf s else if s then nan else out (rsqrtX m e)
  | 0x4B, .inf s => ⟨withSign fp32 s 0, 0, 1⟩
  | 0x4B, .fin s m e => if m = 0 then inf s else out (recipX s m e)
  | 0x4C, .inf s => if s then ⟨0, 0, 1⟩ else inf false
  | 0x4C, .fin s m e =>
    if m = 0 then ⟨0x3F800000, 0, 1⟩
    else if !s && !(xlt (.fin false m e) (.fin false 128 0)) then ⟨0x7F800000, flgOVF, 1⟩
    else if s && xlt (.fin false 150 0) (.fin false m e) then ⟨0, flgUNF, 1⟩
    else out (exp2X s m e)
  | _, .inf s => if s then nan else inf false
  | _, .fin s m e => if m = 0 then inf true else if s then nan else out (log2X m e)

/-! ## K4X words (R60, R181) -/

/-- What a position of a K4X word is (R60). -/
inductive K4 where
  | int (c : Nat) | esc (c : Nat) | gone | bad
  deriving DecidableEq, Repr

/-- The positions of a K4X word, from its slots upward; an escape needs two further slots (R60). -/
def k4xScan : List Nat → List K4
  | [] => []
  | 8 :: x :: y :: r => .esc (16 * x + y) :: .gone :: .gone :: k4xScan r
  | 8 :: t => .bad :: k4xScan t
  | c :: t => .int c :: k4xScan t

/-- The value of a K4X position (R60, R182). -/
def k4xVal (ftzi : Bool) : K4 → XNum
  | .int c => valueOf .k4x c
  | .esc c => flushIn e4m3 ftzi c
  | .gone | .bad => xzero false

/-- The values of the slots of a word of a lane format code, and whether BADESC is set (R181). -/
def wordVals (k : Nat) (ftzi : Bool) (w : Lanes) : List XNum × Bool :=
  if k = 7 then
    let p := k4xScan (slotsOf w 4 20)
    (p.map (k4xVal ftzi), p.any (· == .bad))
  else
    match laneFmt k with
    | none => ([], false)
    | some f => ((slotsOf w (fmtWidth f) (laneSlots k)).map (flushIn f ftzi), false)

/-- The slots of K4XE from the values of its positions (R225). -/
def k4xePack (rnd : BitVec 2) (ftzo : Bool) : List XNum → Half → List Nat × BitVec 5 × Half
  | [], z => ([], 0, z)
  | q :: t, z =>
    let small := !xlt (.fin false 7 0) (xsign false q)
    match t with
    | x :: y :: r =>
      if small then
        let o := roundNarrow q .k4x rnd false z
        let p := k4xePack rnd ftzo (x :: y :: r) o.rsr
        (o.code :: p.1, o.flg ||| p.2.1, p.2.2)
      else
        let o := roundNarrow q e4m3 rnd ftzo z
        let p := k4xePack rnd ftzo r o.rsr
        (8 :: o.code / 16 :: o.code % 16 :: p.1, o.flg ||| p.2.1, p.2.2)
    | t =>
      let o := roundNarrow q .k4x rnd false z
      let p := k4xePack rnd ftzo t o.rsr
      (o.code :: p.1, o.flg ||| p.2.1, p.2.2)

/-- The E4M3 code of a position in K4XD and the flags that its conversion sets (R67, R226): an escaped element is its own code after FlushIn
with FTZI and FTZO, a nonzero one that comes out subnormal or flushed by FTZO setting UNF. -/
def k4xdCode (ftzi ftzo : Bool) : K4 → Nat × BitVec 5
  | .int c => (rne e4m3 (valueOf .k4x c), 0)
  | .esc c =>
    let x := flushCode e4m3 ftzi c
    (flushCode e4m3 ftzo x, if isSubnormal e4m3 x then flgUNF else 0)
  | .gone | .bad => (0, 0)

/-! ## Dot products (R180-R183) -/

/-- The U products of one output: A from slot j0, B modulo its slots (R180). -/
def products (as bs : List XNum) (j0 u : Nat) : List XNum :=
  (List.range u).map (fun i => xmul ((as[j0 + i]?).getD (xzero false)) ((bs[(j0 + i) % bs.length]?).getD (xzero false)))

/-- The sum of exact integer products. -/
def intSum : List XNum → Int
  | [] => 0
  | .fin s m _ :: t => (if s then -(m : Int) else m) + intSum t
  | _ :: t => intSum t

/-- The exponent of the leading bit of the largest nonzero finite product. -/
def topExp : List XNum → Option Int
  | [] => none
  | .fin _ m e :: t =>
    if m = 0 then topExp t
    else
      match topExp t with
      | none => some (m.log2 + e)
      | some x => some (max x (m.log2 + e))
  | _ :: t => topExp t

/-- The truncated products of R183 summed in units of 2^q, and STICKY. -/
def truncSum (q : Int) : List XNum → Int × Bool
  | [] => (0, false)
  | .fin s m e :: t =>
    let (y, num, _) := truncAt m e q
    let (v, k) := truncSum q t
    ((if s then -(y : Int) else y) + v, k || num != 0)
  | _ :: t => truncSum q t

/-- The reduction tree over finite products (R183): exact, or with BF16 or FP16 operands truncated. -/
def treeSum (wide : Bool) (ps : List XNum) : XNum :=
  if wide then
    match topExp ps with
    | none => xzero false
    | some e =>
      let q := e - 56
      let (t, k) := truncSum q ps
      if t = 0 then xzero false
      else if k then .fin (decide (t < 0)) (2 * t.natAbs + 1) (q - 1)
      else .fin (decide (t < 0)) t.natAbs q
  else ps.foldl xadd (xzero false)

/-- Whether a product is an infinity of a sign. -/
def isInfOf (s : Bool) : XNum → Bool
  | .inf t => s == t
  | _ => false

/-- V of R184 from the products and the two scales. -/
def dotValue (wide : Bool) (ps : List XNum) (scla sclb : Byte) : XNum :=
  if scla = 0xFF ∨ sclb = 0xFF ∨ ps.any xisNan ∨ (ps.any (isInfOf false) ∧ ps.any (isInfOf true)) then .nan false
  else if ps.any (isInfOf false) then .inf false
  else if ps.any (isInfOf true) then .inf true
  else
    match treeSum wide ps with
    | .fin s m e => if m = 0 then xzero false else .fin s m (e + ((scla.toNat : Int) + sclb.toNat - 254))
    | x => x

/-! ## Accumulation steps -/

/-- The accumulation step of R184. -/
def accFloatStep (acc : Half) (v : XNum) (ftzo : Bool) : Half × BitVec 5 :=
  let a := valueOf fp32 acc.toNat
  match xadd a v with
  | .nan _ => (BitVec.ofNat 32 nan32, 0)
  | .inf s => (BitVec.ofNat 32 (withSign fp32 s 0x7F800000), 0)
  | .fin s m e =>
    let o := roundNarrow (.fin s m e) fp32 1 ftzo 1
    (BitVec.ofNat 32 o.code, o.flg)

/-- The integer accumulation of R185: the accumulator, ISAT, and whether SCHED detail 0x03 is raised. -/
def accIntStep (acc : Half) (t : Int) (l : Nat) (sat : BitVec 2) : Half × BitVec 5 × Bool :=
  let r := intOut (acc.toInt + t) l false sat
  (BitVec.ofInt 32 (sextNat r.v l), if r.isat then flgISAT else 0, r.fault)

/-! ## Keys of the sorting cells (R227) -/

/-- The order of a key by its code KT. -/
def keyOrd (kt : Nat) (v : Nat) : Int :=
  match kt with
  | 0 => sextNat v 32
  | 1 => (v : Int)
  | _ => if xisNan (valueOf fp32 v) then (2 ^ 32 : Nat) else if v.testBit 31 then -((v % 2 ^ 31 : Nat) : Int) - 1 else (v : Int)

/-- Whether word b is lower than word a, by key and then index (R227). -/
def keyLower (kt : Nat) (a b : Lanes) : Bool :=
  let ka := keyOrd kt (half32 a 0)
  let kb := keyOrd kt (half32 b 0)
  decide (kb < ka) || (decide (kb = ka) && decide (half32 b 1 < half32 a 1))

end Sys2Proof.Machine
end

