-- ==== Sys2Proof/Machine/Tracker.lean ====
section
/-! DEFINITION. Scale trackers (R68-R71): feeds, counts, the close of a step, SCLC, and the sticky flags and counters of a
region that they set. -/

namespace Sys2Proof.Machine

/-- The largest entry of a tracker's window; 0 when it is empty (R68). -/
def Tracker.peak (t : Tracker) : Half := t.window.foldl (fun a b => if a.toNat ≤ b.toNat then b else a) 0
/-- A tracker's window cut to its W + 1 most recent entries (R69). -/
def Tracker.trimWindow (t : Tracker) : Tracker := { t with window := t.window.drop (t.window.length - (t.w.toNat + 1)) }

/-- Feed an FP32 value: a NaN is ignored and sets INV (R69). -/
def Tracker.feed (t : Tracker) (v : Half) : Tracker × BitVec 5 :=
  if xisNan (valueOf fp32 v.toNat) then (t, flgINV)
  else
    let m := v &&& 0x7FFFFFFF#32
    ({ t with cur := if t.cur.toNat ≤ m.toNat then m else t.cur }, 0)

/-- Whether a count of a tracker exceeds its threshold (R70). -/
def Tracker.over (t : Tracker) : Bool × Bool := (decide (t.satth.toNat < t.satcnt), decide (t.unfth.toNat < t.unfcnt))

/-- STALE is set in the cycle in which a count comes to exceed its threshold, whether the count rose or the threshold fell; a count that
exceeded before sets nothing again after a resync (R70; DEDUCED, log entry 111). -/
def Tracker.mark (old t : Tracker) : Tracker :=
  { t with stale := t.stale || (!old.over.1 && t.over.1) || (!old.over.2 && t.over.2) }

/-- Count saturations and underflows (R69, R70). -/
def Tracker.count (t : Tracker) (sat unf : Nat) : Tracker :=
  Tracker.mark t { t with satcnt := min 0xFFFF (t.satcnt + sat), unfcnt := min 0xFFFF (t.unfcnt + unf) }

/-- A step closes (R69). -/
def Tracker.close (t : Tracker) : Tracker :=
  { ({ t with window := (if t.stale then [] else t.window) ++ [t.cur], stale := false } : Tracker).trimWindow with
    cur := 0, satcnt := 0, unfcnt := 0 }

/-- TRKSTAT.CLR (R68, R69). -/
def Tracker.clear (t : Tracker) : Tracker := { t with window := [], cur := 0, satcnt := 0, unfcnt := 0, stale := false }

/-- The scale for a peak: the smallest s with 2^(s-127) at least peak × 2^MARGIN / MaxOf, clamped with OVF (R71). -/
def scaleFor (peak : XNum) (margin : Nat) (f : NFmt) : Byte × BitVec 5 :=
  if xisZero peak then (0x7F, 0)
  else
    match (List.range 255).find? (fun s : Nat => !xlt (xscale (maxOf f) ((s : Int) - 127)) (xscale peak margin)) with
    | some s => (BitVec.ofNat 8 s, 0)
    | none => (254, flgOVF)

/-- The scale that SCLC derives from a tracker (R71). -/
def Tracker.scale (t : Tracker) : Byte × BitVec 5 :=
  scaleFor (valueOf fp32 (if t.stale || t.window.isEmpty then t.cur else t.peak).toNat) t.margin.toNat
    ((taggedFmt t.tgt.toNat).getD (.int 8))

/-- SCLC: the resync and LASTSCL (R71). -/
def Tracker.sclc (t : Tracker) : Tracker :=
  { t with window := if t.stale then [] else t.window, stale := false, lastscl := t.scale.1 }

/-- TRKCFG as it reads (R68). -/
def Tracker.cfg (t : Tracker) : Nat :=
  t.satth.toNat * 2 ^ 48 + t.unfth.toNat * 2 ^ 32 + t.w.toNat * 2 ^ 28 + t.tgt.toNat * 2 ^ 24 + t.margin.toNat * 2 ^ 21 +
    (if t.auto then 2 ^ 20 else 0)
/-- TRKSTAT as it reads (R68). -/
def Tracker.stat (t : Tracker) : Nat :=
  (if t.stale then 2 ^ 63 else 0) + t.lastscl.toNat * 2 ^ 53 + t.window.length * 2 ^ 48 + t.satcnt * 2 ^ 32 + t.unfcnt * 2 ^ 16
/-- TRKPEAK as it reads (R68). -/
def Tracker.pk (t : Tracker) : Nat := t.cur.toNat * 2 ^ 32 + t.peak.toNat

/-- A write of TRKCFG; one with TGT = 0x0 or 0xF is ignored (R68). -/
def Tracker.writeCfg (t : Tracker) (v : Word) : Tracker :=
  let n := v.toNat
  let tgt := bitsOf n 27 24
  if tgt = 0 ∨ tgt = 15 then t
  else
    Tracker.mark t ({ t with
      satth := BitVec.ofNat 16 (bitsOf n 63 48), unfth := BitVec.ofNat 16 (bitsOf n 47 32), w := BitVec.ofNat 4 (bitsOf n 31 28)
      tgt := BitVec.ofNat 4 tgt, margin := BitVec.ofNat 3 (bitsOf n 23 21), auto := n.testBit 20 } : Tracker).trimWindow

/-- A write of TRKSTAT: STEP first, then CLR (R69). -/
def Tracker.writeStat (t : Tracker) (v : Word) : Tracker :=
  let t := if v.toNat.testBit 62 then t.close else t
  if v.toNat.testBit 61 then t.clear else t

/-- Close the step of a tracker if its AUTO is set (R69). -/
def autoClose (s : State) (d t n : Nat) : State := if (s.trk d t n).auto then s.setTrk d t n (s.trk d t n).close else s

/-- Close the AUTO steps of trackers. -/
def autoCloseAll (d t : Nat) : State → List Nat → State
  | s, [] => s
  | s, n :: ns => autoCloseAll d t (autoClose s d t n) ns

/-! ## A region's sticky flags and edge counters (R63, R152) -/

/-- Set sticky flags of a region. -/
def Region.setFlags (x : Region) (f : BitVec 5) : Region := { x with numflg := x.numflg ||| f }
/-- Add to EDGECNT.ZWORDS, saturating. -/
def Region.addZero (x : Region) (n : Nat) : Region := { x with zwords := BitVec.ofNat 32 (min 0xFFFFFFFF (x.zwords.toNat + n)) }
/-- Add to EDGECNT.ROVF, saturating. -/
def Region.addRovf (x : Region) (n : Nat) : Region := { x with rovf := BitVec.ofNat 32 (min 0xFFFFFFFF (x.rovf.toNat + n)) }

/-- Feed a tracker and set the region's flags (R69). A region of several tiles uses the trackers of its controlling strand's tile: R68 gives
trackers to a tile, and no rule says which tile's a region names (DESIGN CHOICE, log entry 112). -/
def feedTrk (s : State) (r : RegionId) (n : Nat) (v : Half) : State :=
  let (t, f) := (s.trk r.die r.tile n).feed v
  (s.setTrk r.die r.tile n t).modRegion r (·.setFlags f)

/-- Feed several values. -/
def feedAll (r : RegionId) (n : Nat) : State → List Half → State
  | s, [] => s
  | s, v :: vs => feedAll r n (feedTrk s r n v) vs

/-- Count for a tracker of a region's tile. -/
def countTrk (s : State) (r : RegionId) (n sat unf : Nat) : State := s.setTrk r.die r.tile n ((s.trk r.die r.tile n).count sat unf)

end Sys2Proof.Machine
end

