-- ==== Sys2Proof/Machine/Edge.lean ====
section
/-! DEFINITION. The edge units (R141-R157): edge control words, views (R81, R82), what a decode port makes of a line and an
encode port of a value. -/

namespace Sys2Proof.Machine

/-! ## The edge control word (R142) -/

/-- K. -/
def eK (v : Word) : Nat := bitsOf v.toNat 63 40
/-- LINES. -/
def eLines (v : Word) : Nat := bitsOf v.toNat 39 28
/-- POLICY. -/
def ePolicy (v : Word) : Nat := bitsOf v.toNat 27 26
/-- RND. -/
def eRnd (v : Word) : BitVec 2 := BitVec.ofNat 2 (bitsOf v.toNat 25 24)
/-- FTZI. -/
def eFtzi (v : Word) : Bool := v.toNat.testBit 23
/-- FTZO. -/
def eFtzo (v : Word) : Bool := v.toNat.testBit 22
/-- SCMODE. -/
def eScmode (v : Word) : Nat := bitsOf v.toNat 21 20
/-- TRK. -/
def eTrk (v : Word) : Nat := bitsOf v.toNat 19 16
/-- OFMT. -/
def eOfmt (v : Word) : Nat := bitsOf v.toNat 15 12
/-- TRKEN. -/
def eTrken (v : Word) : Bool := v.toNat.testBit 11
/-- FSCL. -/
def eFscl (v : Word) : Nat := bitsOf v.toNat 7 0
/-- Elements of a group of a tagged format (R57). -/
def groupLen (k : Nat) : Nat := 2 * wordSlots k
/-- The quotient rounded up. -/
def ceilDiv (a b : Nat) : Nat := (a + b - 1) / b

/-- The first breach of an edge control word of a decode (role 1) or encode (role 4) binding: its ILLEGAL detail (R142). -/
def ecwFault (role : Nat) (v : Word) : Option Nat :=
  let enc := role == 4
  let unused := if enc then bitsOf v.toNat 27 23 != 0 || bitsOf v.toNat 10 8 != 0 else bitsOf v.toNat 22 0 != 0
  if unused then some 0x02
  else if eK v = 0 ∨ eLines v = 0 ∨ ePolicy v = 3 ∨ eScmode v = 3 ∨
      (enc = true ∧ (eOfmt v = 0 ∨ eOfmt v = 15 ∨ (eScmode v = 2 ∧ eFscl v = 0xFF) ∨
        eLines v ≠ ceilDiv (ceilDiv (eK v) (groupLen (eOfmt v))) 3)) then some 0x03
  else none

/-! ## Views (R81, R82) -/

/-- ROWS of a geometry. -/
def gRows (g : Word) : Nat := bitsOf g.toNat 47 35
/-- The rotation step of a geometry. -/
def gRot (g : Word) : Nat := ([0, 1, 2, 4, 8, 16, 3, 5][bitsOf g.toNat 34 32]?).getD 0
/-- TP of a geometry. -/
def gTp (g : Word) : Nat := bitsOf g.toNat 31 16
/-- RP of a geometry. -/
def gRp (g : Word) : Nat := bitsOf g.toNat 15 0

/-- The bank-word offset of word w of row i of tile step t (R81). -/
def viewOff (g : Word) (nb t i w : Nat) : Nat := t * gTp g + i * gRp g + (w - w % nb) + (w + i * gRot g) % nb

/-- The banks of the buffer that a view lies in (R73). -/
def viewBanks (q : Req) (base : Word) : Nat := if zoneOf q base = .clus then 64 else 32

/-- Bank word w of row i of tile step t of a view (R81). -/
def viewAddr (q : Req) (v : Word × Word) (t i w : Nat) : Word := v.1 + BitVec.ofNat 64 (8 * viewOff v.2 (viewBanks q v.1) t i w)

/-- The check of a view whose binding walks `steps` tile steps, `rows` rows and `words` bank words of each (R82). Detail 0x05 reports the view's
base: R80 names no address for it (DESIGN CHOICE, log entry 116). A binding that touches no word, for want of an iteration or of a line, is checked
as for one tile step (DESIGN CHOICE, log entry 135). -/
def viewFault (s : State) (q : Req) (v : Word × Word) (steps rows words : Nat) : Option FaultInfo :=
  let (base, g) := v
  if bitsOf g.toNat 63 48 ≠ 0 ∨ gRows g = 0 ∨ !aligned base 8 then some (flt clsAperture 5 base)
  else if zoneOf q base = .virt then some (flt clsAperture 6 base)
  else
    let nb := viewBanks q base
    let last := words - 1
    let run := List.range' (last - last % nb) (last % nb + 1)
    let top := ((List.range (max 1 rows)).flatMap (fun i => run.map (fun w => viewOff g nb (max 1 steps - 1) i w))).foldl max 0
    extentFault s q base (8 * top + 8)

/-- Read `n` bank words of a view row from word w, none of them as the operation itself has written it (R275, R284). -/
def readView (s : State) (q : Req) (own : Tab Byte) (v : Word × Word) (t i w : Nat) : Nat → State × Try (List Byte)
  | 0 => (s, .ok [])
  | n + 1 =>
    match readGenOwn s q own (viewAddr q v t i w) 8 with
    | (s, .fault f) => (s, .fault f)
    | (s, .later) => (s, .later)
    | (s, .ok b) =>
      match readView s q own v t i (w + 1) n with
      | (s, .ok bs) => (s, .ok (b ++ bs))
      | (s, .fault f) => (s, .fault f)
      | (s, .later) => (s, .later)

/-- Write bank words of a view row from word w (R156, R284), noting the bytes written (R275). -/
def writeView (s : State) (q : Req) (own : Tab Byte) (v : Word × Word) (t i w : Nat) : List (List Byte) → State × Try (Tab Byte)
  | [] => (s, .ok own)
  | b :: bs =>
    match writeGen s q (viewAddr q v t i w) b with
    | (s1, .fault f) => (s1, .fault f)
    | (s1, .later) => (s1, .later)
    | (s1, .ok _) => writeView s1 q (noteOwn s q own (viewAddr q v t i w) b.length) v t i (w + 1) bs

/-- Line ℓ of a view row: bank words 8ℓ to 8ℓ + 7 (R142), which an anchor load reads in one step (log entry 113). -/
def readLine (s : State) (q : Req) (own : Tab Byte) (v : Word × Word) (t i l : Nat) : State × Try (List Byte) :=
  readView s q own v t i (8 * l) 8

/-! ## Tagged lines (R37, R59) -/

/-- A tagged line split by DecodeLine: FMT, the three scales, and the codes of the three groups. -/
structure TagLine where
  fmt  : Nat
  scls : List Nat
  grps : List (List Nat)
  deriving DecidableEq, Repr

/-- Lane word k of group g of a line, as a number. -/
def lineWord (bs : List Byte) (g k : Nat) : Nat := leNat ((bs.drop (2 + 21 * g + 10 * k)).take 10)

/-- DecodeLine (R37), or its FMT detail. -/
def decodeLine (bs : List Byte) : Except Nat TagLine :=
  let fmt := leNat (bs.take 1)
  if fmt = 0 then .error 1
  else if 14 < fmt then .error 2
  else
    let w := taggedWidth fmt
    let words := (List.range 3).map (fun g => [lineWord bs g 0, lineWord bs g 1])
    if w = 6 ∧ words.any (fun g => g.any (fun x => x / 2 ^ 78 != 0)) then .error 3
    else
      .ok { fmt := fmt
            scls := (List.range 3).map (fun g => leNat ((bs.drop (1 + 21 * g)).take 1))
            grps := words.map (fun g => g.flatMap (fun x => slotsOf (BitVec.ofNat 80 x) w (wordSlots fmt))) }

/-! ## Decoding (R143-R151) -/

/-- The formats that WIDEN also accepts (R146). -/
def widens (decl fmt : Nat) : Bool :=
  match decl with
  | 0x2 => fmt == 0x1
  | 0x4 => fmt == 0x1 || fmt == 0x2
  | 0x5 => fmt == 0x1 || fmt == 0x2 || fmt == 0x4 || fmt == 0x6
  | 0xB => fmt == 0x8
  | 0xC => fmt == 0x8
  | 0xD => fmt == 0xB || fmt == 0xC
  | 0xE => fmt == 0xB || fmt == 0xC
  | _ => false

/-- The formats that ROUND also accepts, narrowed (R146). -/
def narrows (decl fmt : Nat) : Bool :=
  match decl with
  | 0x2 => fmt == 0x4 || fmt == 0x5
  | 0x1 => fmt == 0x2 || fmt == 0x4 || fmt == 0x5
  | 0x4 => fmt == 0x5
  | 0x6 => fmt == 0x5
  | 0x7 => fmt == 0x2 || fmt == 0x4 || fmt == 0x5
  | 0x8 => fmt == 0xB || fmt == 0xC || fmt == 0xD || fmt == 0xE
  | 0xB => fmt == 0xC || fmt == 0xD || fmt == 0xE
  | 0xC => fmt == 0xB || fmt == 0xD || fmt == 0xE
  | 0xD => fmt == 0xE
  | 0xE => fmt == 0xD
  | _ => false

/-- Whether a port of a declared format and policy accepts a line's format (R146). -/
def accepts (decl policy fmt : Nat) : Bool :=
  fmt == decl || (policy != 0 && widens decl fmt) || (policy == 2 && narrows decl fmt)

/-- Whether a line group of a format at position a meets the alignment rule (R146): a narrowed one lies inside one declared
group, an exact one holds every declared group that it meets. -/
def groupAligned (decl fmt n a : Nat) : Bool :=
  let gd := groupLen decl
  let gl := groupLen fmt
  if narrows decl fmt then a / gd == (a + gl - 1) / gd
  else a % gd == 0 && decide (ceilDiv (min (a + gl) n) gd * gd ≤ a + gl)

/-- Whether a declared format is treated as a float one (R148, R149); K4X is read in float mode (R176; DEDUCED, log entry 57). -/
def declFloat (decl : Nat) : Bool := decide (7 ≤ decl)

/-- A code rewritten to the declared code of the same value, after FlushIn (R147). -/
def recode (decl fmt : Nat) (ftzi : Bool) (c : Nat) : Nat :=
  match taggedFmt fmt, taggedFmt decl with
  | some f, some g =>
    if fmt = decl then flushCode f ftzi c
    else
      (match flushIn f ftzi c with
      | .nan s => (nanOf g s).getD 0
      | .inf s => (infOf g s).getD 0
      | x => rne g x)
  | _, _ => c

/-- A K4X word's codes from position p: misplaced escapes become 0, positions at or beyond K become 0 except the nibbles of
an escape that begins below K; and whether a misplaced escape stood below K (R149). -/
def k4xRewrite (k : Nat) : Nat → List Nat → List Nat × Bool
  | _, [] => ([], false)
  | p, 8 :: x :: y :: r =>
    let t := k4xRewrite k (p + 3) r
    if p < k then (8 :: x :: y :: t.1, t.2) else (0 :: 0 :: 0 :: t.1, t.2)
  | p, 8 :: r =>
    let t := k4xRewrite k (p + 1) r
    (0 :: t.1, decide (p < k) || t.2)
  | p, c :: r =>
    let t := k4xRewrite k (p + 1) r
    ((if p < k then c else 0) :: t.1, t.2)

/-- Codes with those at or beyond K rewritten to 0 (R149). -/
def maskCodes (k : Nat) : Nat → List Nat → List Nat
  | _, [] => []
  | p, c :: r => (if p < k then c else 0) :: maskCodes k (p + 1) r

/-- The zero detector (R151). -/
def allZero (decl : Nat) (w : Lanes) : Bool := (wordVals decl false w).1.all xisZero

/-- What the conversion of a declared group gives: its codes, its side-band, flags, ROVF's increment, the RSR stream. -/
structure GroupOut where
  codes : List Nat
  sb    : Nat
  flg   : BitVec 5
  rovf  : Nat
  rsr   : Half
  deriving DecidableEq, Repr

/-- Narrow the elements of a declared group from position p: a position at or beyond K is 0, and for an integer declaration so
is an element of a line group with the NaN scale, with INV (R58, R72, R148). -/
def narrowAll (decl : Nat) (ecw : Word) (sd : Nat) : Nat → List (Nat × Nat × Nat) → Half → GroupOut
  | _, [], z => ⟨[], sd, 0, 0, z⟩
  | p, (c, fmt, scl) :: r, z =>
    match taggedFmt fmt, taggedFmt decl with
    | some f, some g =>
      let nanInt := !declFloat decl && scl == 0xFF
      let x := flushIn f (eFtzi ecw) c
      let x := if declFloat decl then xscale x ((scl : Int) - sd) else x
      let o : Rounded := if eK ecw ≤ p ∨ nanInt then ⟨0, if eK ecw ≤ p then 0 else flgINV, z⟩ else roundNarrow x g (eRnd ecw) false z
      let t := narrowAll decl ecw sd (p + 1) r o.rsr
      ⟨o.code :: t.codes, t.sb, o.flg ||| t.flg, (if o.flg &&& flgOVF != 0 then 1 else 0) + t.rovf, t.rsr⟩
    | _, _ => ⟨[], sd, 0, 0, z⟩

/-- The conversion of the elements of one lane word of a declared group, from position p, with the group's largest scale sd (R147-R149). Under
ROUND every element goes through R148's RoundNarrow, those of a line that WIDEN accepts or of the declared format among them (DEDUCED, log
entry 110); the nibbles of a K4X line read as K4X are no conversion. -/
def convWord (decl : Nat) (ecw : Word) (sd p : Nat) (els : List (Nat × Nat × Nat)) (rsr : Half) : GroupOut :=
  let codes := els.map (fun e => recode decl e.2.1 (eFtzi ecw) e.1)
  let zeros := els.map (fun _ => 0)
  if ePolicy ecw = 2 ∧ els.all (fun e => e.2.1 == 7) = false then
    if !declFloat decl then { narrowAll decl ecw sd p els rsr with sb := 0x7F }
    else if sd = 0xFF then ⟨zeros, 0xFF, 0, 0, rsr⟩
    else narrowAll decl ecw sd p els rsr
  else if sd = 0xFF ∧ !declFloat decl then ⟨zeros, 0x7F, flgINV, 0, rsr⟩
  else if sd = 0xFF ∧ ePolicy ecw = 2 then ⟨zeros, 0xFF, 0, 0, rsr⟩
  else ⟨codes, sd, 0, 0, rsr⟩

/-- What a port makes of a line: the words, the elements of a group not yet filled, the RSR stream after all draws. -/
structure LineOut where
  words : List PortWord
  part  : List (Nat × Nat × Nat)
  rsr   : Half
  deriving DecidableEq, Repr

/-- A lane word of a declared format from its converted codes (R149, R151), and whether it holds a misplaced escape. -/
def portWord (decl : Nat) (k p : Nat) (g : GroupOut) : PortWord × Bool :=
  let (cs, bad) := if decl = 7 then k4xRewrite k p g.codes else (maskCodes k p g.codes, false)
  let w := wordOf (taggedWidth decl) cs
  (⟨⟨w, BitVec.ofNat 8 g.sb⟩, g.sb != 0xFF && allZero decl w, g.flg ||| (if bad then flgBADESC else 0), g.rovf, g.rsr⟩, bad)

/-- Emit the declared groups that a list of elements completes, from position p, with fuel; FMT detail 0x04 for a misplaced
escape under the FAULT policy (R143-R149). -/
def emitGroups (decl : Nat) (ecw : Word) : Nat → Nat → List (Nat × Nat × Nat) → Half → Except Nat LineOut
  | 0, _, els, z => .ok ⟨[], els, z⟩
  | fuel + 1, p, els, z =>
    let gd := groupLen decl
    if els.length < gd then .ok ⟨[], els, z⟩
    else
      let n := wordSlots decl
      let grp := els.take gd
      let sd := (grp.map (·.2.2)).foldl max 0
      let w0 := portWord decl (eK ecw) p (convWord decl ecw sd p (grp.take n) z)
      let w1 := portWord decl (eK ecw) (p + n) (convWord decl ecw sd (p + n) (grp.drop n) w0.1.rsr)
      if (w0.2 || w1.2) && ePolicy ecw == 0 then .error 4
      else
        match emitGroups decl ecw fuel (p + gd) (els.drop gd) w1.1.rsr with
        | .error k => .error k
        | .ok t => .ok ⟨w0.1 :: w1.1 :: t.words, t.part, t.rsr⟩

/-- The positions of the elements that a decode port delivers in a tile step: G × ceil(K / G) (R143). -/
def portLen (decl : Nat) (ecw : Word) : Nat := groupLen decl * ceilDiv (eK ecw) (groupLen decl)

/-- The elements of the groups of a line that lie below N. -/
def lineEls (n p : Nat) (t : TagLine) : List (Nat × Nat × Nat) :=
  ((List.range 3).flatMap (fun g =>
    if n ≤ p + g * groupLen t.fmt then []
    else ((t.grps[g]?).getD []).map (fun c => (c, t.fmt, (t.scls[g]?).getD 0)))).take (n - p)

/-- What a port makes of a line at position P (R143): the words it emits, or an FMT detail. -/
def portLine (decl : Nat) (ecw : Word) (at_ : DecPos) (bs : List Byte) : Except Nat (LineOut × Nat) :=
  let n := portLen decl ecw
  if n ≤ at_.pos then .error 7
  else
    match decodeLine bs with
    | .error k => .error k
    | .ok t =>
      let gl := groupLen t.fmt
      if !accepts decl (ePolicy ecw) t.fmt then .error 5
      else if (List.range 3).any (fun g => decide (at_.pos + g * gl < n) && !groupAligned decl t.fmt n (at_.pos + g * gl)) then .error 5
      else
        let els := at_.part ++ lineEls n at_.pos t
        match emitGroups decl ecw (els.length + 1) (at_.pos - at_.part.length) els at_.rsr with
        | .error k => .error k
        | .ok o => .ok (o, at_.pos + 3 * gl)

/-! ## Encoding (R153-R156) -/

/-- Lines that a port has completed after `n` values of rows of K (R153, R156). -/
def linesDone (ecw : Word) (n : Nat) : Nat := n / eK ecw * eLines ecw + n % eK ecw / (3 * groupLen (eOfmt ecw))

/-- Whether an encode port with `fly` words still in flight can take one more (R153). -/
def canTake (ecw : Word) (p : EncPort) (fly : Nat) : Bool :=
  decide (linesDone ecw (p.count + 2 * fly + 2) + p.lines.length ≤ linesDone ecw p.count + 2)

/-- What the encoding of a group gives: its 21 bytes, flags, saturations and underflows. -/
structure EncOut where
  bytes : List Byte
  flg   : BitVec 5
  sat   : Nat
  unf   : Nat
  deriving DecidableEq, Repr

/-- The bytes of a group: its scale and two lane words (R37). -/
def groupBytes (fmt scl : Nat) (cs : List Nat) : List Byte :=
  let n := wordSlots fmt
  let w := taggedWidth fmt
  leBytes 1 scl ++ leBytes 10 (joinSlots w (cs.take n)) ++ leBytes 10 (joinSlots w (cs.drop n))

/-- The scale of a group of values (R154). -/
def encScale (ecw : Word) (scl : Byte) (vs : List Half) : Byte × BitVec 5 :=
  match eScmode ecw with
  | 0 =>
    scaleFor (vs.foldl (fun m v => pick32 true m (xsign false (valueOf fp32 v.toNat))) (xzero false)) 0 ((taggedFmt (eOfmt ecw)).getD (.int 8))
  | 1 => (scl, 0)
  | _ => (BitVec.ofNat 8 (eFscl ecw), 0)

/-- Encode a complete group (R64, R154, R155). -/
def encGroup (ecw : Word) (scl : Byte) (vs : List Half) : EncOut :=
  if vs.any (fun v => xisNan (valueOf fp32 v.toNat)) then ⟨groupBytes (eOfmt ecw) 0xFF [], 0, 0, 0⟩
  else
    match taggedFmt (eOfmt ecw) with
    | none => ⟨[], 0, 0, 0⟩
    | some f =>
      let (k, fl) := encScale ecw scl vs
      let os := vs.map (fun v => (v, roundNarrow (xscale (valueOf fp32 v.toNat) (127 - (k.toNat : Int))) f 0 (eFtzo ecw) 1))
      ⟨groupBytes (eOfmt ecw) k.toNat (os.map (·.2.code)), os.foldl (fun a o => a ||| o.2.flg) fl,
        (os.filter (fun o => o.2.flg &&& flgOVF != 0)).length,
        (os.filter (fun o => !xisZero (valueOf fp32 o.1.toNat) && codeZero f o.2.code)).length⟩

/-- A trailing group (R72). -/
def trailGroup : List Byte := 0x7F#8 :: List.replicate 20 0

/-- The 64 bytes of a line from its completed groups (R72, R156). -/
def lineBytes (fmt : Nat) (g : List Byte) : List Byte :=
  (BitVec.ofNat 8 fmt :: g ++ trailGroup ++ trailGroup).take 64

/-- An encode port takes a value (R153-R156): the port, and the group that it completed, if any, with its values. -/
def encTake (ecw : Word) (lastscl : Byte) (p : EncPort) (v : Half) : EncPort × Option (EncOut × List Half) :=
  let pos := p.count % eK ecw
  let scl := if p.vals.isEmpty then lastscl else p.scl
  let vals := p.vals ++ [v]
  let rowEnd := pos + 1 = eK ecw
  let p := { p with count := p.count + 1, vals := vals, scl := scl }
  if vals.length = groupLen (eOfmt ecw) ∨ rowEnd then
    let o := encGroup ecw scl vals
    let g := p.gbytes ++ o.bytes
    if g.length = 63 ∨ rowEnd then
      ({ p with vals := [], gbytes := []
                lines := p.lines ++ [⟨(p.count - 1) / eK ecw, pos / (3 * groupLen (eOfmt ecw)), lineBytes (eOfmt ecw) g⟩] },
        some (o, vals))
    else ({ p with vals := [], gbytes := g }, some (o, vals))
  else (p, none)

/-- Whether an encode binding feeds its tracker (R155). -/
def encFeeds (ecw : Word) : Bool := eScmode ecw == 1 || eTrken ecw

end Sys2Proof.Machine
end

