-- ==== Sys2Proof/Machine/Elem.lean ====
section
/-! DEFINITION. The element operations (R192-R230): what one row word of an advancing cycle computes from its sources and
its element, as results in flight, sticky flags, and schedule or trap faults. -/

namespace Sys2Proof.Machine

/-! ## The element's storage -/

/-- Accumulator k. -/
def Elem.getAcc (e : Elem) (k : Nat) : Half := tget e.acc k 0
/-- Anchor word m. -/
def Elem.getAnchor (e : Elem) (m : Nat) : Lanes := tget e.anchor m 0
/-- Anchor scale m. -/
def Elem.getAsc (e : Elem) (m : Nat) : Byte := tget e.asc m 0x7F
/-- Write anchor word m and its scale. -/
def Elem.putAnchor (e : Elem) (m : Nat) (v : Val) : Elem := { e with anchor := tset e.anchor m v.w, asc := tset e.asc m v.sb }
/-- Anchor word m with its scale. -/
def Elem.anchorVal (e : Elem) (m : Nat) : Val := ⟨e.getAnchor m, e.getAsc m⟩

/-- What a row word sees when it issues: its word with the CONST in force, its shape, the iteration number, its sources, its
element, and what the trackers give at the start of the cycle: LASTSCL and the scale that SCLC returns. -/
structure ElemIn where
  w       : RowWord
  shape   : Word
  j       : Nat
  a       : Val
  b       : Val
  c       : Val
  e       : Elem
  lastscl : Nat → Byte
  sclc    : Nat → Byte

/-- What a row word does when it issues. -/
structure Issue where
  /-- the results put in flight, each with the advancing cycles until it lands, this one included -/
  out  : List InFlight := []
  flg  : BitVec 5 := 0
  rsr  : Half
  /-- SCHED detail 0x03 (R190) -/
  ovfl : Bool := false
  /-- TRAP with this code (R230) -/
  trap : Option Nat := none
  /-- a QIN whose condition fails reads its FIFO as a peek (R195) -/
  peek : Bool := false
  /-- the tracker that an SCLC reads (R223) -/
  sclc : Option Nat := none
  deriving DecidableEq, Repr

/-- A result for a destination: a carousel slot is fixed at issue by the iteration (R166). -/
def destOf (x : ElemIn) (dst : Nat) (v : Val) : Effect :=
  .write dst (if dst < 32 then (dst + x.j) % 32 else dst) (rLife x.w) v

/-- The operation's one result, at its latency. -/
def oneOut (x : ElemIn) (v : Val) : List InFlight := [⟨rowLatency x.w, destOf x (rDst x.w) v⟩]
/-- The operation's one result with the side-band that an entry does not state (R158). -/
def plainOut (x : ElemIn) (w : Lanes) : List InFlight := oneOut x ⟨w, 0x7F⟩
/-- An issue with no effect on flags or streams. -/
def quiet (x : ElemIn) (o : List InFlight) : Issue := { out := o, rsr := x.e.rsr }

/-! ## Moving words (R193-R197) -/

/-- QIN (R195). -/
def opQin (x : ElemIn) : Issue :=
  let sb := if xbits x.w 0 0 = 1 then BitVec.ofNat 8 (rConst x.w) else x.a.sb
  { quiet x (oneOut x ⟨x.a.w, sb⟩) with peek := xbits x.w 1 1 == 1 && half32 x.b.w 0 == 0 }

/-- Whether a QOUT with COND suppresses its write (R196). -/
def qoutOff (w : RowWord) (b : Val) : Bool := rOp w == 4 && xbits w 1 1 == 1 && half32 b.w 0 == 0

/-- QOUT (R196). -/
def opQout (x : ElemIn) : Issue :=
  let sb := if xbits x.w 0 0 = 1 then BitVec.ofNat 8 (rConst x.w) else x.a.sb
  quiet x (if qoutOff x.w x.b then [] else oneOut x ⟨x.a.w, sb⟩)

/-- The forwards of a DOT, DOTA or DOTS (R200). -/
def forwards (x : ElemIn) : List InFlight :=
  let fwd (k : Nat) (v : Val) : List InFlight :=
    if k = 2 then [⟨1, destOf x 32 v⟩] else if k = 3 then [⟨1, destOf x 33 v⟩] else []
  fwd (rAcc x.w % 4) x.a ++ (if rOp x.w = 0x11 then fwd (rAcc x.w / 4) x.b else [])

/-- One output of DOT, DOTA or DOTS: its accumulation, and the flags met while its operands are read (R199). -/
def dotOutput (x : ElemIn) (m : Nat) : InFlight × BitVec 5 :=
  let f := x.shape
  let b := if rOp x.w = 0x11 then x.b else x.e.anchorVal m
  let (as, ba) := wordVals (fwA f) (rFtzi x.w) x.a.w
  let (bs, bb) := wordVals (fwB f) (rFtzi x.w) b.w
  let ps := products as bs (xbits x.w 5 0) (fwU f)
  let k := rDst x.w - 38 + m
  let fresh := rOp x.w == 0x12
  let bad := if ba || bb then flgBADESC else 0
  if fwFloat f then
    let wide := decide (8 < taggedWidth (fwA f)) || decide (8 < taggedWidth (fwB f))
    (⟨3, .accFloat k fresh (dotValue wide ps x.a.sb b.sb) (rFtzo x.w)⟩, bad)
  else
    let l := if fwAccp f = 1 then 16 else 32
    let nan := x.a.sb == 0xFF || b.sb == 0xFF
    (⟨3, .accInt k fresh (if nan then 0 else intSum ps) l (rSat x.w)⟩, if nan then flgINV else 0)

/-- DOT, DOTA and DOTS (R199, R200). -/
def opDot (x : ElemIn) : Issue :=
  let os := (List.range (if rOp x.w = 0x11 then 1 else fwNout x.shape)).map (dotOutput x)
  { quiet x (os.map (·.1) ++ forwards x) with flg := os.foldl (fun acc o => acc ||| o.2) 0 }

/-! ## Integer work (R190, R201-R209) -/

/-- A word of lanes that IntOut gave. -/
def intIssue (x : ElemIn) (w : Nat) (rs : List IntRes) : Issue :=
  { quiet x (plainOut x (wordOf w (rs.map (·.v)))) with
    flg := if rs.any (·.isat) then flgISAT else 0, ovfl := rs.any (·.fault) }

/-- MULW and MACW (R201). -/
def opWiden (x : ElemIn) : Issue :=
  let sp := rSplit x.w
  let w := laneWidth sp
  let n := ([1, 2, 5, 10][sp]?).getD 10
  let h := xbits x.w 1 0
  let nat := xbits x.w 2 2 == 1
  let lane (i : Nat) : IntRes :=
    if laneCount sp ≤ h * n + i then ⟨0, false, false⟩
    else
      let t := laneInt (slotOf x.a.w w (h * n + i)) w nat * laneInt (slotOf x.b.w w (h * n + i)) w nat
      if rOp x.w = 0x13 then ⟨wrapInt t (2 * w), false, false⟩
      else intOut (t + laneInt (slotOf x.c.w (2 * w) i) (2 * w) nat) (2 * w) nat (rSat x.w)
  intIssue x (2 * w) ((List.range n).map lane)

/-- An accumulator write of 32 bits, at the end of the cycle. -/
def accWrite (x : ElemIn) (k : Nat) (v : Nat) : InFlight := ⟨1, destOf x (38 + k) ⟨BitVec.ofNat 80 (v % 2 ^ 32), 0x7F⟩⟩

/-- ACCR (R202). -/
def opAccr (x : ElemIn) : Issue :=
  let k := rAcc x.w % 4
  let pair := (rAcc x.w).testBit 2
  let w := (x.e.getAcc k).toNat + (if pair then (x.e.getAcc (k + 1)).toNat * 2 ^ 32 else 0)
  let clr := if (rAcc x.w).testBit 3 then accWrite x k 0 :: (if pair then [accWrite x (k + 1) 0] else []) else []
  quiet x (plainOut x (BitVec.ofNat 80 w) ++ clr)

/-- ACCZ (R203). -/
def opAccz (x : ElemIn) : Issue :=
  quiet x (((List.range 4).filter (fun i => (rAcc x.w).testBit i)).map (fun i => accWrite x i 0))

/-- ACCW (R204). -/
def opAccw (x : ElemIn) : Issue :=
  let k := rAcc x.w % 4
  quiet x (accWrite x k (half32 x.a.w 0) :: (if (rAcc x.w).testBit 2 then [accWrite x (k + 1) (half32 x.a.w 1)] else []))

/-- ACCM (R205). -/
def opAccm (x : ElemIn) : Issue :=
  let k := rAcc x.w % 4
  let one (i : Nat) : InFlight :=
    ⟨2, if xbits x.w 0 0 = 1 then .accInt (k + i) false (sextNat (half32 x.a.w i) 32) 32 (rSat x.w)
      else .accFloat (k + i) false (f32In (rFtzi x.w) (half32 x.a.w i)) (rFtzo x.w)⟩
  quiet x (one 0 :: (if (rAcc x.w).testBit 2 then [one 1] else []))

/-- The condition of ICMP by its code, on lanes of width w (R207). -/
def icmpCond (k a b w : Nat) : Bool :=
  let sa := sextNat a w
  let sb := sextNat b w
  match k with
  | 0 => a == b
  | 1 => a != b
  | 2 => decide (sa < sb)
  | 3 => decide (sa ≤ sb)
  | 4 => decide (sb < sa)
  | 5 => decide (sb ≤ sa)
  | 6 => decide (a < b)
  | 7 => decide (a ≤ b)
  | 8 => decide (b < a)
  | _ => decide (b ≤ a)

/-- The leading zero bits of a lane within w. -/
def clzLane (a w : Nat) : Nat := if a = 0 then w else w - 1 - a.log2
/-- The 1 bits of a lane. -/
def bcntLane (a w : Nat) : Nat := ((List.range w).filter (fun i => a.testBit i)).length

/-- A lane of the integer operations (R206-R208). -/
def intLane (rw : RowWord) (w a b c : Nat) : IntRes :=
  let nat := xbits rw 0 0 == 1
  let sat := rSat rw
  let ia := laneInt a w nat
  let ib := laneInt b w nat
  let ic := laneInt c w nat
  let bit (v : Nat) : IntRes := ⟨v % 2 ^ w, false, false⟩
  let num (t : Int) : IntRes := ⟨wrapInt t w, false, false⟩
  let clamped (t : Int) : IntRes :=
    let u := clampInt t (intLo w nat) (intHi w nat)
    ⟨wrapInt u w, sat == 2 && decide (u ≠ t), false⟩
  match rOp rw with
  | 0x20 => intOut (ia + ib) w nat sat
  | 0x21 => intOut (ia - ib) w nat sat
  | 0x22 => intOut (ia * ib) w nat sat
  | 0x23 => intOut (ia * ib + ic) w nat sat
  | 0x24 => num (min ia ib)
  | 0x25 => num (max ia ib)
  | 0x26 => intOut (sextNat a w).natAbs w false sat
  | 0x27 => intOut (-(sextNat a w)) w false sat
  | 0x28 => bit (a &&& b)
  | 0x29 => bit (a ||| b)
  | 0x2A => bit (a ^^^ b)
  | 0x2B => bit (2 ^ w - 1 - a)
  | 0x2C => if b < w then bit (a * 2 ^ b) else bit 0
  | 0x2D => if b < w then bit (a / 2 ^ b) else bit 0
  | 0x2E =>
    let s := sextNat a w
    if b < w then num (s / ((2 ^ b : Nat) : Int)) else if 0 ≤ s then bit 0 else bit (2 ^ w - 1)
  | 0x2F => if icmpCond (rAcc rw) a b w then bit (2 ^ w - 1) else bit 0
  | 0x30 => if c ≠ 0 then bit a else bit b
  | 0x31 => num (min (max ia ib) ic)
  | 0x32 => bit (bcntLane a w)
  | 0x33 => bit (clzLane a w)
  | 0x34 =>
    let pos := xbits rw 4 0
    let len := xbits rw 10 5
    let v := bitsOf a (pos + len - 1) pos
    if xbits rw 11 11 = 1 then num (sextNat v len) else bit v
  | 0x35 => clamped (ia + ib)
  | _ => clamped (ia - ib)

/-- The integer lane operations (R206). -/
def opInt (x : ElemIn) : Issue :=
  let sp := rSplit x.w
  let w := laneWidth sp
  intIssue x w ((List.range (laneCount sp)).map (fun i => intLane x.w w (slotOf x.a.w w i) (slotOf x.b.w w i) (slotOf x.c.w w i)))

/-! ## The float lane (R212-R216) -/

/-- The exact term of FADD, FSUB, FMUL, FMA and FNMA (R212). -/
def floatTerm (op : Nat) (a b c : XNum) : XNum :=
  match op with
  | 0x40 => xadd a b
  | 0x41 => xadd a (xflip b)
  | 0x42 => xmul a b
  | 0x43 => xadd (xmul a b) c
  | _ => xadd c (xflip (xmul a b))

/-- One lane of the operations that round and may draw: its code, flags and the RSR stream after it. -/
def floatLane (x : ElemIn) (l : Nat) (rsr : Half) : Rounded :=
  let ftzi := rFtzi x.w
  let ftzo := rFtzo x.w
  let va := half32 x.a.w l
  let a := f32In ftzi va
  let b := f32In ftzi (half32 x.b.w l)
  let c := f32In ftzi (half32 x.c.w l)
  let plain (v : Nat) : Rounded := ⟨v, 0, rsr⟩
  match rOp x.w with
  | 0x45 => plain (flushCode fp32 ftzo (code32 (pick32 false a b)))
  | 0x46 => plain (flushCode fp32 ftzo (code32 (pick32 true a b)))
  | 0x47 => plain (if xisNan a then nan32 else flushCode fp32 ftzo (code32 (xsign false a)))
  | 0x48 => plain (if xisNan a then withSign fp32 (!xneg a) nan32 else flushCode fp32 ftzo (code32 (xflip a)))
  | 0x49 => plain (if fcmpCond (rAcc x.w) a b then 0xFFFFFFFF else 0)
  | 0x4A | 0x4B | 0x4C | 0x4D => { seedLane (rOp x.w) a ftzo with rsr := rsr }
  | 0x4E =>
    let (v, z) := frndLane va ftzi (rRnd x.w) rsr
    ⟨v, 0, z⟩
  | 0x4F => plain (fclsLane va ftzi)
  | op => floatOut (floatTerm op a b c) (rRnd x.w) ftzo rsr

/-- The two-lane float operations (R212-R216). -/
def opFloat (x : ElemIn) : Issue :=
  let o0 := floatLane x 0 x.e.rsr
  let o1 := floatLane x 1 o0.rsr
  { quiet x (plainOut x (wordOf 32 [o0.code, o1.code])) with flg := o0.flg ||| o1.flg, rsr := o1.rsr }

/-! ## Conversion and quantisation (R218-R226) -/

/-- Round values in turn into a format: codes, flags, the RSR stream. -/
def roundAll (f : NFmt) (rnd : BitVec 2) (ftzo : Bool) : List XNum → Half → List Nat × BitVec 5 × Half
  | [], z => ([], 0, z)
  | v :: vs, z =>
    let o := roundNarrow v f rnd ftzo z
    let p := roundAll f rnd ftzo vs o.rsr
    (o.code :: p.1, o.flg ||| p.2.1, p.2.2)

/-- Put codes of width n into consecutive items from i. -/
def putSlots (w : Lanes) (n : Nat) : Nat → List Nat → Lanes
  | _, [] => w
  | i, c :: cs => putSlots (putSlot w n i c) n (i + 1) cs

/-- FCNV, I2F and F2I (R219). -/
def opConv (x : ElemIn) : Issue :=
  let sf := xbits x.w 9 5
  let df := xbits x.w 4 0
  match laneFmt sf, laneFmt df with
  | some fs, some fd =>
    let n := min (laneSlots sf) (laneSlots df)
    let vs := (List.range n).map (fun i => flushIn fs (rFtzi x.w) (slotOf x.a.w (fmtWidth fs) (xbits x.w 15 10 + i)))
    let (cs, flg, z) := roundAll fd (rRnd x.w) (rFtzo x.w) vs x.e.rsr
    let w := putSlots x.b.w (fmtWidth fd) (xbits x.w 21 16) cs
    let w := if fmtWidth fd = 6 then BitVec.ofNat 80 (w.toNat % 2 ^ 78) else w
    { quiet x (oneOut x ⟨w, x.a.sb⟩) with flg := flg, rsr := z }
  | _, _ => quiet x []

/-- The scale that a QNT uses (R220). -/
def qntScale (x : ElemIn) : Byte :=
  match xbits x.w 23 22 with
  | 0 => x.b.sb
  | 1 => x.lastscl (xbits x.w 27 24)
  | _ => BitVec.ofNat 8 (rConst x.w)

/-- QNT (R220). -/
def opQnt (x : ElemIn) : Issue :=
  let scl := qntScale x
  let scm := xbits x.w 23 22
  let v0 := f32In (rFtzi x.w) (half32 x.a.w 0)
  let v1 := f32In (rFtzi x.w) (half32 x.a.w 1)
  let names := xbits x.w 28 28 == 1 || scm == 1
  let feed (sat unf : Nat) : List InFlight :=
    if names then [⟨2, .feed (xbits x.w 27 24) (BitVec.ofNat 32 (code32 v0)) (BitVec.ofNat 32 (code32 v1))
      (if scm = 1 then sat else 0) (if scm = 1 then unf else 0)⟩] else []
  if scl = 0xFF ∨ xisNan v0 ∨ xisNan v1 then quiet x (oneOut x ⟨0, 0xFF⟩ ++ feed 0 0)
  else
    match taggedFmt (xbits x.w 4 0) with
    | none => quiet x []
    | some f =>
      let k : Int := 127 - (scl.toNat : Int)
      let o0 := roundNarrow (xscale v0 k) f (rRnd x.w) (rFtzo x.w) x.e.rsr
      let o1 := roundNarrow (xscale v1 k) f (rRnd x.w) (rFtzo x.w) o0.rsr
      let sat (o : Rounded) : Nat := if o.flg &&& flgOVF != 0 then 1 else 0
      let unf (v : XNum) (o : Rounded) : Nat := if !xisZero v && codeZero f o.code then 1 else 0
      { quiet x (oneOut x ⟨putSlots x.b.w (fmtWidth f) (xbits x.w 21 16) [o0.code, o1.code], scl⟩ ++
          feed (sat o0 + sat o1) (unf v0 o0 + unf v1 o1)) with
        flg := o0.flg ||| o1.flg, rsr := o1.rsr }

/-- DQT (R221). -/
def opDqt (x : ElemIn) : Issue :=
  let (vs, bad) := wordVals (xbits x.w 9 5) (rFtzi x.w) x.a.w
  let lane (i : Nat) (z : Half) : Rounded :=
    let v := (vs[xbits x.w 15 10 + i]?).getD (xzero false)
    if x.a.sb = 0xFF ∨ xisNan v then ⟨nan32, 0, z⟩
    else roundNarrow (xscale v ((x.a.sb.toNat : Int) - 127)) fp32 (rRnd x.w) (rFtzo x.w) z
  let o0 := lane 0 x.e.rsr
  let o1 := lane 1 o0.rsr
  { quiet x (plainOut x (wordOf 32 [o0.code, o1.code])) with
    flg := o0.flg ||| o1.flg ||| (if bad then flgBADESC else 0), rsr := o1.rsr }

/-- AMAX (R222). -/
def opAmax (x : ElemIn) : Issue :=
  let mag (v : Nat) : XNum := xsign false (f32In (rFtzi x.w) v)
  let a0 := mag (half32 x.a.w 0)
  let a1 := mag (half32 x.a.w 1)
  let m := code32 (pick32 true (pick32 true a0 a1) (mag (half32 x.b.w 0)))
  let feed : List InFlight :=
    if xbits x.w 4 4 = 1 then [⟨1, .feed (xbits x.w 3 0) (BitVec.ofNat 32 (code32 a0)) (BitVec.ofNat 32 (code32 a1)) 0 0⟩] else []
  quiet x (plainOut x (BitVec.ofNat 80 m) ++ feed)

/-- SCLC (R223). -/
def opSclc (x : ElemIn) : Issue :=
  { quiet x (oneOut x ⟨0, x.sclc (xbits x.w 3 0)⟩) with sclc := some (xbits x.w 3 0) }

/-- PACK (R224). -/
def opPack (x : ElemIn) : Issue :=
  let sp := rSplit x.w
  let w := laneWidth sp
  let nat := xbits x.w 2 2 == 1
  intIssue x (w / 2) ((lanesOf x.a.w sp ++ lanesOf x.b.w sp).map (fun v => intOut (laneInt v w nat) (w / 2) nat (rSat x.w)))

/-- UNPK (R224). -/
def opUnpk (x : ElemIn) : Issue :=
  let sp := rSplit x.w
  let w := laneWidth sp
  let n := ([1, 2, 5, 10][sp]?).getD 10
  let nat := xbits x.w 2 2 == 1
  let lane (i : Nat) : Nat :=
    let k := xbits x.w 1 0 * n + i
    if laneCount sp ≤ k then 0 else wrapInt (laneInt (slotOf x.a.w w k) w nat) (2 * w)
  quiet x (plainOut x (wordOf (2 * w) ((List.range n).map lane)))

/-- K4XE (R225). -/
def opK4xe (x : ElemIn) : Issue :=
  let codes (w : Lanes) : List XNum := (slotsOf w 8 10).map (flushIn e4m3 (rFtzi x.w))
  let qa := codes x.a.w
  let qb := (codes x.b.w).map (fun v => xscale v ((x.b.sb.toNat : Int) - x.a.sb.toNat))
  if x.a.sb = 0xFF ∨ x.b.sb = 0xFF ∨ (qa ++ qb).any xisNan then quiet x (oneOut x ⟨0, 0xFF⟩)
  else
    let (cs, flg, z) := k4xePack (rRnd x.w) (rFtzo x.w) (qa ++ qb) x.e.rsr
    { quiet x (oneOut x ⟨wordOf 4 cs, x.a.sb⟩) with flg := flg, rsr := z }

/-- K4XD (R226). -/
def opK4xd (x : ElemIn) : Issue :=
  let p := k4xScan (slotsOf x.a.w 4 20)
  let half := ((p.drop (10 * xbits x.w 0 0)).take 10).map (k4xdCode (rFtzi x.w) (rFtzo x.w))
  { quiet x (oneOut x ⟨wordOf 8 (half.map (·.1)), x.a.sb⟩) with
    flg := half.foldl (fun f c => f ||| c.2) (if p.any (· == .bad) then flgBADESC else 0) }

/-! ## Sorting, reductions, trap (R227-R230) -/

/-- CSWAP and CSWPD (R227). -/
def opCswap (x : ElemIn) : Issue :=
  let swap := keyLower (xbits x.w 7 6) x.a.w x.b.w
  let lo := if swap then x.b else x.a
  let hi := if swap then x.a else x.b
  let first := if rOp x.w = 0x60 then lo else hi
  let second := if rOp x.w = 0x60 then hi else lo
  quiet x (oneOut x first ++ [⟨1, destOf x (xbits x.w 5 0) second⟩])

/-- HSUM and HMAX (R228). -/
def opHoriz (x : ElemIn) : Issue :=
  let isMax := rOp x.w == 0x69
  if xbits x.w 0 0 = 1 then
    let v (n : Nat) : XNum := f32In (rFtzi x.w) n
    let a0 := v (half32 x.a.w 0)
    let a1 := v (half32 x.a.w 1)
    let b0 := v (half32 x.b.w 0)
    let o : Rounded :=
      if isMax then ⟨flushCode fp32 (rFtzo x.w) (code32 (pick32 true (pick32 true a0 a1) b0)), 0, x.e.rsr⟩
      else floatOut (xadd (xadd a0 a1) b0) (rRnd x.w) (rFtzo x.w) x.e.rsr
    { quiet x (plainOut x (BitVec.ofNat 80 o.code)) with flg := o.flg, rsr := o.rsr }
  else
    let nat := xbits x.w 1 1 == 1
    let w := laneWidth (rSplit x.w)
    let b := laneInt (half32 x.b.w 0) 32 nat
    let as := (lanesOf x.a.w (rSplit x.w)).map (fun v => laneInt v w nat)
    let r := intOut (if isMax then as.foldl max b else as.foldl (· + ·) b) 32 nat (rSat x.w)
    intIssue x 32 [r]

/-- Whether a TRAPIF's condition holds (R230). -/
def trapHolds (w : RowWord) (a : Val) : Bool :=
  let l0 := valueOf fp32 (half32 a.w 0)
  let l1 := valueOf fp32 (half32 a.w 1)
  let inf (v : XNum) : Bool := isInfOf false v || isInfOf true v
  match rAcc w with
  | 0 => half32 a.w 0 != 0
  | 1 => half32 a.w 0 == 0
  | 2 => xisNan l0 || xisNan l1
  | _ => xisNan l0 || xisNan l1 || inf l0 || inf l1

/-! ## The operations together -/

/-- What a row word does when it issues (R28). -/
def elemExec (x : ElemIn) : Issue :=
  let op := rOp x.w
  if op = 0x00 ∨ op = 0x6A then quiet x []
  else if op = 0x01 then quiet x (oneOut x x.a)
  else if op = 0x02 then quiet x (oneOut x x.a ++ [⟨1, destOf x (xbits x.w 5 0) x.b⟩])
  else if op = 0x03 then opQin x
  else if op = 0x04 then opQout x
  else if op = 0x05 then quiet x [⟨1, .anch (rAcc x.w / 4) (rAcc x.w % 4) x.a⟩]
  else if op ≤ 0x12 then opDot x
  else if op ≤ 0x14 then opWiden x
  else if op = 0x15 then opAccr x
  else if op = 0x16 then opAccz x
  else if op = 0x17 then opAccm x
  else if op = 0x18 then opAccw x
  else if op ≤ 0x36 then opInt x
  else if op ≤ 0x4F then opFloat x
  else if op ≤ 0x52 then opConv x
  else if op = 0x53 then opQnt x
  else if op = 0x54 then opDqt x
  else if op = 0x55 then opAmax x
  else if op = 0x56 then opSclc x
  else if op = 0x57 then opPack x
  else if op = 0x58 then opUnpk x
  else if op = 0x59 then opK4xe x
  else if op = 0x5A then opK4xd x
  else if op ≤ 0x61 then opCswap x
  else if op ≤ 0x69 then opHoriz x
  else { quiet x [] with trap := if trapHolds x.w x.a then some (xbits x.w 7 0) else none }

end Sys2Proof.Machine
end

