-- ==== Sys2Proof/Machine/Cycle.lean ====
section
/-! DEFINITION. The fabric cycle of a region (R159-R174): the sources of its rows, hold, issue, landing, the counter, waypoints
and the shadow (R242, R243), and stage swaps (R244). -/

namespace Sys2Proof.Machine

/-! ## Elements of a region (R158, R159) -/

/-- Where an element of a region is kept: its tile, and its row and column of the tile's 16 by 16 elements. -/
def elemLoc (r : RegionId) (x : Region) (row col : Nat) : Nat :=
  match x.quads[row / 8 * x.qcols + col / 8]? with
  | none => 0
  | some (t, q) => (tileKey r.die t * 16 + (q / 2) * 8 + row % 8) * 16 + (q % 2) * 8 + col % 8

/-- An element of a region. -/
def State.elem (s : State) (r : RegionId) (x : Region) (row col : Nat) : Elem := tget s.elems (elemLoc r x row col) {}
/-- Replace an element of a region. -/
def State.setElem (s : State) (r : RegionId) (x : Region) (row col : Nat) (e : Elem) : State :=
  { s with elems := tset s.elems (elemLoc r x row col) e }
/-- Rows of a region. -/
def Region.nrows (x : Region) : Nat := 8 * x.qrows
/-- Columns of a region. -/
def Region.ncols (x : Region) : Nat := 8 * x.qcols
/-- The elements of a region, in ascending row and column. -/
def Region.coords (x : Region) : List (Nat × Nat) :=
  (List.range x.nrows).flatMap (fun i => (List.range x.ncols).map (fun k => (i, k)))

/-! ## Stages of a run (R234) -/

/-- The product of the trips of the levels from `lvl` on. -/
def tripsFrom (st : Stage) (lvl : Nat) : Nat := (st.trips.drop lvl).foldl (· * ·) 1
/-- T, as BDRAIN has left it (R234, R246). -/
def Stage.t (st : Stage) : Nat := st.cut.getD (tripsFrom st 0)
/-- Counter iterations of the run: T + S - 1, and none when T = 0. -/
def Stage.total (st : Stage) : Nat := if st.t = 0 then 0 else st.t + st.stg - 1
/-- The tile steps of a loop level: its iterations over the run. -/
def Stage.steps (st : Stage) (lvl : Nat) : Nat := ceilDiv st.t (max 1 (tripsFrom st (lvl + 1)))
/-- The iterations of a loop level begun by the current counter iteration (R236, R237). -/
def Stage.begun (st : Stage) (lvl : Nat) : Nat := if st.j < st.t then st.j / tripsFrom st (lvl + 1) + 1 else st.steps lvl

/-- The active stage of a run. -/
def Run.cur (u : Run) : Option Stage := u.stages[u.act]?
/-- Replace the active stage. -/
def Run.setCur (u : Run) (st : Stage) : Run := { u with stages := u.stages.set u.act st }

/-- The CONST of a node that the argument table lists: the argument's value (R168). -/
def nodeConst (st : Stage) (node : Option Nat) : Option Half :=
  match node with
  | none => none
  | some n => ((st.inst.block.args.filter (fun e => e.2 == n)).getLast?).map (fun e => tget st.consts e.1 0)

/-- A placed word with the CONST in force. -/
def liveWord (st : Stage) (p : PlacedWord) : RowWord :=
  match nodeConst st p.node with
  | none => p.word
  | some v => withConst p.word v

/-- The rows that issue in the current cycle, in ascending row and column: those of the counter's context whose node works for
an iteration of the run (R161, R234). -/
def activeRows (st : Stage) : List PlacedWord :=
  st.inst.image.words.filter (fun p => p.ctx == st.c && decide (p.stage ≤ st.j) && decide (st.j - p.stage < st.t) && decide (st.j < st.total))

/-- Whether an element holds a row word of a stage; the mapper has left the others empty (R160). -/
def occupied (st : Stage) (row col : Nat) : Bool := st.inst.image.words.any (fun p => p.row == row && p.col == col)

/-- The elements that hold row words of any stage of a run. -/
def runElems (x : Region) (u : Run) : List (Nat × Nat) := x.coords.filter (fun rc => u.stages.any (fun st => occupied st rc.1 rc.2))

/-- The elements that hold row words of a stage. -/
def stageElems (x : Region) (st : Stage) : List (Nat × Nat) := x.coords.filter (fun rc => occupied st rc.1 rc.2)

/-- The key of a port of a stage. -/
def portKey (u : Run) (port : Nat) : Nat := u.act * 64 + port

/-- A binding of a stage with its view. -/
def Stage.bind (st : Stage) (n : Nat) : Option (Binding × (Word × Word)) :=
  match st.inst.block.binds[n]?, st.views[n]? with
  | some b, some v => some (b, v)
  | _, _ => none

/-- Bindings of a role, with their numbers. -/
def bindsOf (st : Stage) (role : Nat) : List (Nat × Binding) :=
  ((List.range st.inst.block.binds.length).zip st.inst.block.binds).filter (fun e => e.2.role == role)

/-- Whether an anchor load of a binding is pending (R237). -/
def anchorPending (st : Stage) : Bool := (bindsOf st 2).any (fun e => decide (tget st.anchors e.1 0 < st.begun e.2.tlvl))

/-! ## Faults of a run (R171, R230, R339) -/

/-- The trackers that a run's rows and encode bindings name (R69, R220, R222): those that it feeds. An SCLC alone names none for the close of an AUTO
step (R69 does not say; DESIGN CHOICE, log entry 114). -/
def namedTrackers (u : Run) : List Nat :=
  (List.range 16).filter (fun n => u.stages.any (fun st =>
    st.inst.image.words.any (fun p =>
      (rOp p.word == 0x53 && (xbits p.word 28 28 == 1 || xbits p.word 23 22 == 1) && xbits p.word 27 24 == n) ||
      (rOp p.word == 0x55 && xbits p.word 4 4 == 1 && xbits p.word 3 0 == n)) ||
    (bindsOf st 4).any (fun e => encFeeds e.2.edge && eTrk e.2.edge == n)))

/-- The operation that stands for a run where an agent is frozen (R344). -/
def runOp (s : State) (r : RegionId) (u : Run) : EngOp := { newOp s r.strand u.tok .run u.scope 0 with st := .started }

/-- A run that meets poison of a trimmed island: the tile-ticks since its waypoint are left out of its owner's counter (R305). Gear-0 storage is
not trimmed (R304). -/
def withhold (s : State) (r : RegionId) (f : FaultInfo) : State :=
  match s.region r, s.ownerOf r.strand with
  | some x, some o =>
    if f.cls = clsEcc ∧ f.detail = 1 ∧ f.trim = true then
      (s.setToll o { s.toll o with credit := (s.toll o).credit + x.sinceWp }).setRegion r { x with sinceWp := 0 }
    else s
  | _, _ => s

/-- Whether a fault has put a run's token in ERROR. -/
def Run.ended (u : Run) : Bool :=
  match u.fault with
  | none => false
  | some f =>
    match fstatus f.cls f.detail with
    | .replay | .resume => false
    | .report | .fatal | .hardware | .none => true

/-- Every FIFO of a region loses the roles of its run (R236). -/
def releaseRun (x : Region) : Region := (List.range 8).foldl (fun x f => x.setFifo f (dropProducer .run (dropConsumer .run (x.fifo f)))) x

/-- A run meets a fault. A replayable one, or a TRAPIF, leaves its token BUSY; another puts it in ERROR with cause 0x01 and
closes the AUTO steps, and its claims are released (R236); the operation of a transformed copy ends with its run's record (R100). The partition halts (R339, R69). -/
def runFault (s : State) (r : RegionId) (f : FaultInfo) : State :=
  match (s.region r).bind (·.run) with
  | none => s
  | some u =>
    let f := if f.cls = clsIsol then masterInfo f 2 ((s.taskOf r.strand).getD 0) else f
    let s := withhold (s.modRegion r (fun x => { x with run := some { u with fault := some (stamp s r.die f) } })) r f
    match fstatus f.cls f.detail with
    | .replay | .resume => haltAgent s r.strand
    | _ =>
      let s := autoCloseAll r.die r.tile (settleTok (s.modRegion r releaseRun) r.strand u.tok.toNat .error 1) (namedTrackers u)
      let s := if f.cls = clsIsol then freezeOp s (runOp s r u) ((s.taskOf r.strand).getD 0) f.detail false else s
      haltAgent s r.strand

/-- A fault of the region with its place: element, schedule row, iteration, and slot, destination or FIFO (R341). -/
def cycleFault (cls det row col : Nat) (st : Stage) (what : Nat) : FaultInfo :=
  { flt cls det with info0 := BitVec.ofNat 64 (row + col * 65536), info1 := BitVec.ofNat 64 st.c
                     info2 := BitVec.ofNat 64 st.j, info3 := BitVec.ofNat 64 what }

/-! ## Sources (R27, R160) -/

/-- The element that a neighbour source reaches: N, E, S, W. -/
def neighbour (row col dir : Nat) : Option (Nat × Nat) :=
  match dir with
  | 0 => if row = 0 then none else some (row - 1, col)
  | 1 => some (row, col + 1)
  | 2 => some (row + 1, col)
  | _ => if col = 0 then none else some (row, col - 1)

/-- What a row sees of its region at the start of a cycle. -/
structure Sight where
  s  : State
  r  : RegionId
  x  : Region
  u  : Run
  st : Stage

/-- An output latch of an element. -/
def Elem.latch (e : Elem) (k : Nat) : Val := if k = 0 then e.o0 else e.o1

/-- Whether a source reads the head of a decode port. -/
def readsPort (col v : Nat) : Bool := (v == 6 || v == 7) && col == 0

/-- The head word of the decode port of a row. -/
def portHead (g : Sight) (row : Nat) : Option ReadyWord := (tfind g.x.dec (portKey g.u row)).bind (·.words.head?)

/-- The value of a source of an element at the start of the cycle; an error is a carousel slot that is not live (R166). -/
def readSrc (g : Sight) (w : RowWord) (row col v : Nat) : Except Nat Val :=
  let e := g.s.elem g.r g.x row col
  let k := v % 64
  match v / 64 with
  | 0 =>
    if readsPort col v then .ok (((portHead g row).map (·.w.v)).getD {})
    else
      (match neighbour row col (k / 2) with
      | none => .ok {}
      | some (i, j) =>
        if i < g.x.nrows ∧ j < g.x.ncols ∧ g.u.stages.any (fun st => occupied st i j) = true then .ok ((g.s.elem g.r g.x i j).latch (k % 2)) else .ok {})
  | 1 =>
    (match tfind e.car ((k + g.st.j) % 32) with
    | none => .error k
    | some c => .ok c.v)
  | 2 => .ok (tget (tget e.hair (k / 16) {}).stages (k % 16) {})
  | 3 =>
    let c := rConst w
    .ok ⟨(match k with
      | 0 => BitVec.ofNat 80 c
      | 1 => wordOf (laneWidth (rSplit w)) (List.replicate (laneCount (rSplit w)) c)
      | _ => (BitVec.ofNat 32 c).signExtend 80), 0x7F⟩
  | 4 => .ok ⟨(e.getAcc k).zeroExtend 80, 0x7F⟩
  | 5 => .ok (((g.x.fifo (k % 8)).readable.head?).getD {})
  | 6 => .ok (e.latch k)
  | _ =>
    (match k with
    | 1 => .ok ⟨wordOf (laneWidth (rSplit w)) (List.range (laneCount (rSplit w))), 0x7F⟩
    | 2 => .ok ⟨wordOf (laneWidth (rSplit w)) (List.replicate (laneCount (rSplit w)) g.st.j), 0x7F⟩
    | 3 => .ok (e.anchorVal 0)
    | _ => .ok {})

/-- The source fields that a row word reads. -/
def readFields (w : RowWord) : List Nat :=
  let (a, b, c) := rowReads w
  (if a then [rSA w] else []) ++ (if b then [rSB w] else []) ++ (if c then [rSC w] else [])

/-! ## Hold (R163) -/

/-- The FIFOs that a row word writes, unless a QOUT's condition suppresses its write (R196, R227). -/
def fifoDsts (w : RowWord) (off : Bool) : List Nat :=
  let one (d : Nat) : List Nat := if 42 ≤ d ∧ d ≤ 49 then [d - 42] else []
  if off then [] else one (rDst w) ++ (if rOp w = 0x60 ∨ rOp w = 0x61 then one (xbits w 5 0) else [])

/-- The words that a row word writes to o0 (R194, R200, R227). -/
def o0Writes (w : RowWord) : Nat :=
  let two := rOp w = 0x02 ∨ rOp w = 0x60 ∨ rOp w = 0x61
  (if rDst w = 32 then 1 else 0) + (if two ∧ xbits w 5 0 = 32 then 1 else 0) +
    (if isDot w then (if rAcc w % 4 = 2 then 1 else 0) + (if rOp w = 0x11 ∧ rAcc w / 4 = 2 then 1 else 0) else 0)

/-- Whether a row word reads or writes the anchor. -/
def touchesAnchor (w : RowWord) : Bool :=
  rOp w == 0x05 || rOp w == 0x10 || rOp w == 0x12 || (rDst w == 50 && rOp w != 0) || (readFields w).any (· == srcAnchor)

/-- Whether a QOUT's condition suppresses its write in this cycle (R196). -/
def rowOff (g : Sight) (w : RowWord) (row col : Nat) : Bool :=
  rOp w == 4 && xbits w 1 1 == 1 &&
  !(rSB w / 64 == 5 && (g.x.fifo (rSB w % 8)).readable.isEmpty) &&
  (match readSrc g w row col (rSB w) with
  | .ok b => qoutOff w b
  | .error _ => false)

/-- The o0 words of an element still in flight. -/
def o0Flight (e : Elem) : Nat := (e.flight.filter (fun f => match f.eff with
  | .write 32 _ _ _ => true
  | _ => false)).length

/-- The resources that a row needs, each by kind and whether it is ready: 0 a FIFO it reads, 1 a FIFO it writes, 2 the anchor,
3 its decode port, 4 its encode port (R163). -/
def rowNeeds (g : Sight) (counts : Nat → Nat) (p : PlacedWord) : List (Nat × Bool) :=
  let w := p.word
  let fs := readFields w
  (fs.filter (fun v => v / 64 == 5)).map (fun v => (0, !(g.x.fifo (v % 8)).readable.isEmpty)) ++
  (fifoDsts w (rowOff g w p.row p.col)).map (fun f => (1, decide (counts f ≤ (g.x.fifo f).room))) ++
  (if touchesAnchor w then [(2, !anchorPending g.st)] else []) ++
  (if fs.any (readsPort p.col) then [(3, (portHead g p.row).isSome)] else []) ++
  (if 0 < o0Writes w ∧ p.row + 1 = g.x.nrows then
    match tfind g.x.enc (portKey g.u p.col) with
    | none => []
    | some q =>
      let ecw := ((g.st.bind q.bind).map (·.1.edge)).getD 0
      [(4, canTake ecw q (o0Flight (g.s.elem g.r g.x p.row p.col) + o0Writes w - 1))]
  else [])

/-- Whether a HOLD value covers a kind of resource (R163). -/
def holdCovers (hold kind : Nat) : Bool :=
  match hold with
  | 1 => decide (kind ≤ 2)
  | 2 => kind == 0
  | 3 => kind == 1
  | 4 => kind == 2
  | 5 => kind == 3
  | 6 => kind == 4
  | _ => false

/-- HOLDIF's condition (R229). -/
def holdIf (g : Sight) (w : RowWord) : Bool :=
  let f := g.x.fifo (xbits w 2 0)
  rOp w == 0x6A && decide ((if xbits w 3 3 = 1 then f.room else f.readable.length) < xbits w 10 4)

/-- Whether an argument update is pending: some element that it names has not received it (R168). -/
def argWaits (x : Region) : Bool :=
  match x.argPend with
  | some (_, _, delivered) => !delivered
  | none => false

/-- Whether a row raises hold (R163). -/
def rowHolds (g : Sight) (counts : Nat → Nat) (p : PlacedWord) : Bool :=
  (rHold p.word == 7 && argWaits g.x) || holdIf g p.word ||
  (rowNeeds g counts p).any (fun n => !n.2 && holdCovers (rHold p.word) n.1)

/-- Whether a row needs a resource that is not ready and that its HOLD does not name (R163). -/
def rowStarves (g : Sight) (counts : Nat → Nat) (p : PlacedWord) : Bool :=
  (rowNeeds g counts p).any (fun n => !n.2 && !holdCovers (rHold p.word) n.1)

/-- How many rows of a cycle write a FIFO. -/
def fifoCount (g : Sight) (ps : List PlacedWord) (f : Nat) : Nat :=
  (ps.flatMap (fun p => (fifoDsts p.word (rowOff g p.word p.row p.col)).filter (· == f))).length

/-- Whether nothing of a stage is in flight. -/
def drained (s : State) (r : RegionId) (x : Region) (st : Stage) : Bool :=
  (stageElems x st).all (fun rc => (s.elem r x rc.1 rc.2).flight.isEmpty)

/-- A bound FIFO all of whose entries are retained or uncommitted while the stage still works (R243). -/
def pinnedFifo (g : Sight) : Option Nat :=
  if g.st.total ≤ g.st.j && drained g.s g.r g.x g.st then none
  else (List.range 8).find? (fun f =>
    g.u.stages.any (fun st => st.inst.block.binds.any (fun b => (b.role == 0 || b.role == 3) && b.fifo == f)) &&
    decide (fifoDepth ≤ (g.x.fifo f).retained + (g.x.fifo f).uncommitted))

/-! ## Issue -/

/-- What a row does in a cycle: its place, what it issues, the FIFOs that it pops, whether it takes its decode port's word. -/
structure RowIssue where
  row  : Nat
  col  : Nat
  dst  : Nat
  iss  : Issue
  pops : List Nat
  port : Bool
  deriving DecidableEq, Repr

/-- Issue one row; an error is the slot of an expired read (R166). -/
def issueRow (g : Sight) (p : PlacedWord) : Except Nat RowIssue :=
  let w := p.word
  let (ra, rb, rc) := rowReads w
  let rd (b : Bool) (v : Nat) : Except Nat Val := if b then readSrc g w p.row p.col v else .ok {}
  match rd ra (rSA w), rd rb (rSB w), rd rc (rSC w) with
  | .ok a, .ok b, .ok c =>
    let i := elemExec {
      w := w, shape := (g.st.inst.block.shapes[rShp w]?).getD 0, j := g.st.j, a := a, b := b, c := c
      e := g.s.elem g.r g.x p.row p.col
      lastscl := fun n => (g.s.trk g.r.die g.r.tile n).lastscl
      sclc := fun n => (g.s.trk g.r.die g.r.tile n).scale.1 }
    let popped := if i.peek then (if rb then [rSB w] else []) ++ (if rc then [rSC w] else []) else readFields w
    .ok ⟨p.row, p.col, rDst w, i, (popped.filter (fun v => v / 64 == 5 && v % 64 < 8)).map (· % 8), (readFields w).any (readsPort p.col)⟩
  | .error k, _, _ => .error k
  | _, .error k, _ => .error k
  | _, _, .error k => .error k

/-- Issue every row of a cycle; the first that expires or overflows is the cycle's SCHED fault (R171). -/
def issueRows (g : Sight) : List PlacedWord → Except FaultInfo (List RowIssue)
  | [] => .ok []
  | p :: ps =>
    match issueRow g p with
    | .error k => .error (cycleFault clsSched 1 p.row p.col g.st k)
    | .ok i =>
      if i.iss.ovfl then .error (cycleFault clsSched 3 p.row p.col g.st (rDst p.word))
      else
        match issueRows g ps with
        | .error f => .error f
        | .ok is => .ok (i :: is)

/-! ## Landing (R164, R166, R186) -/

/-- The destinations that an effect writes: DST values, a carousel slot by its physical number, the anchor word by word. -/
def effDests : Effect → List Nat
  | .write d phys _ _ => if d = 63 then [] else if d < 32 then [phys] else if d = 50 then [100] else [d]
  | .accFloat k _ _ _ => [38 + k]
  | .accInt k _ _ _ _ => [38 + k]
  | .feed .. => []
  | .anch mode m _ => if mode = 0 then [100 + m] else [100, 101, 102, 103]

/-- The DST value that a destination stands for in a record: an anchor word is DST 50. -/
def destName (d : Nat) : Nat := if 100 ≤ d then 50 else d

/-- The first value that stands twice in a list. -/
def firstTwice : List Nat → Option Nat
  | [] => none
  | d :: ds => if ds.any (· == d) then some d else firstTwice ds

/-- What lands outside an element. -/
inductive Landed where
  | fifo (f : Nat) (v : Val)
  | port (col : Nat) (v : Val)
  | feed (trk : Nat) (v0 v1 : Half) (sat unf : Nat)
  deriving DecidableEq, Repr

/-- Carousel slots at the end of a cycle: a lifetime that ends frees its slot (R166). -/
def ageCar (c : Tab CarSlot) : Tab CarSlot :=
  (c.filter (fun e => decide (1 < e.2.life))).map (fun e => (e.1, { e.2 with life := e.2.life - 1 }))

/-- An element takes an effect: the element, flags, the accumulator that overflows if SCHED detail 0x03 is raised, and what lands elsewhere. -/
def land (e : Elem) (col : Nat) : Effect → Elem × BitVec 5 × Option Nat × List Landed
  | .write d phys life v =>
    if d < 32 then ({ e with car := tset e.car phys ⟨v, life⟩ }, 0, none, [])
    else if d = 32 then ({ e with o0 := v }, 0, none, [.port col v])
    else if d = 33 then ({ e with o1 := v }, 0, none, [])
    else if d < 38 then ({ e with hair := tset e.hair (d - 34) { tget e.hair (d - 34) {} with input := v } }, 0, none, [])
    else if d < 42 then ({ e with acc := tset e.acc (d - 38) (v.w.truncate 32) }, 0, none, [])
    else if d < 50 then (e, 0, none, [.fifo (d - 42) v])
    else if d = 50 then (e.putAnchor 0 v, 0, none, [])
    else (e, 0, none, [])
  | .accFloat k fresh v ftzo =>
    let (a, f) := accFloatStep (if fresh then 0 else e.getAcc k) v ftzo
    ({ e with acc := tset e.acc k a }, f, none, [])
  | .accInt k fresh t l sat =>
    let (a, f, o) := accIntStep (if fresh then 0 else e.getAcc k) t l sat
    ({ e with acc := tset e.acc k a }, f, (if o then some (38 + k) else none), [])
  | .feed n v0 v1 sat unf => (e, 0, none, [.feed n v0 v1 sat unf])
  | .anch mode m v =>
    (match mode with
    | 0 => e.putAnchor m v
    | 1 => (((e.putAnchor 3 (e.anchorVal 2)).putAnchor 2 (e.anchorVal 1)).putAnchor 1 (e.anchorVal 0)).putAnchor 0 v
    | _ => (((e.putAnchor 3 v).putAnchor 2 v).putAnchor 1 v).putAnchor 0 v, 0, none, [])

/-- An element takes effects in turn. -/
def landAll (col : Nat) : Elem → List Effect → Elem × BitVec 5 × Option Nat × List Landed
  | e, [] => (e, 0, none, [])
  | e, f :: fs =>
    let (e1, g1, o1, l1) := land e col f
    let (e2, g2, o2, l2) := landAll col e1 fs
    (e2, g1 ||| g2, o1 <|> o2, l1 ++ l2)

/-- A hairpin line of `n` stages shifts (R167). -/
def shiftHair (n : Nat) (h : Hairpin) : Hairpin :=
  { h with stages := (0, h.input) :: (List.range (n - 1)).map (fun k => (k + 1, tget h.stages k {})) }

/-- The hairpin lines of an element at a wrap (R167): all that no other stage has. -/
def shiftHairs (lens : List Nat) (mine : Nat → Bool) (e : Elem) : Elem :=
  { e with hair := (List.range 4).map (fun h =>
      (h, if mine h then shiftHair ((lens[h]?).getD 1) (tget e.hair h {}) else tget e.hair h {})) }

/-! ## What a stage has of an element (R244) -/

/-- The parts of an element that a row word writes, or shifts: 0 to 3 accumulators, 4 the anchor, 5 and 6 output latches, 7 to 10 hairpin
lines, 11 the RSR stream. -/
def wordParts (st : Stage) (w : RowWord) : List Nat :=
  let of (d : Nat) : List Nat :=
    if d < 32 then [] else if d < 34 then [d - 27] else if d < 38 then [d - 27] else if d < 42 then [d - 38] else if d = 50 then [4] else []
  let k := rAcc w % 4
  let pair := if (rAcc w).testBit 2 then [k + 1] else []
  (if rOp w = 0 then [] else of (rDst w)) ++
  (if rOp w = 0x02 ∨ rOp w = 0x60 ∨ rOp w = 0x61 then of (xbits w 5 0) else []) ++
  (if rOp w = 0x05 then [4] else []) ++
  (if isDot w then
    (List.range (if rOp w = 0x11 then 1 else fwNout ((st.inst.block.shapes[rShp w]?).getD 0))).map (fun m => rDst w - 38 + m) ++
      (if 2 ≤ k then [k + 3] else []) ++ (if rOp w = 0x11 ∧ 2 ≤ rAcc w / 4 then [rAcc w / 4 + 3] else [])
  else []) ++
  (if rOp w = 0x15 ∧ (rAcc w).testBit 3 = true then k :: pair else []) ++
  (if rOp w = 0x16 then (List.range 4).filter (fun i => (rAcc w).testBit i) else []) ++
  (if rOp w = 0x17 ∨ rOp w = 0x18 then k :: pair else []) ++
  ((readFields w).filter (fun v => v / 64 == 2)).map (fun v => 7 + v % 64 / 16) ++
  (if rRnd w = 3 then [11] else [])

/-- Whether a stage has a part of an element: one of its words there writes it, or it loads anchors. -/
def hasPart (st : Stage) (row col n : Nat) : Bool :=
  (n == 4 && !(bindsOf st 2).isEmpty) ||
  st.inst.image.words.any (fun p => p.row == row && p.col == col && (wordParts st p.word).any (· == n))

/-- The stages of a run that have a part of an element, by number. -/
def partStages (u : Run) (row col n : Nat) : List Nat :=
  (List.range u.stages.length).filter (fun k => (u.stages[k]?).any (fun st => hasPart st row col n))

/-- Whether a hairpin line of an element shifts at a wrap of the active stage: it has the line, or no stage has (R167, R244). -/
def shiftsLine (u : Run) (row col h : Nat) : Bool :=
  let ks := partStages u row col (7 + h)
  ks.isEmpty || ks.any (· == u.act)

/-- What the end of a cycle leaves of one element, or its SCHED fault: slots freed, results due landed, the others one cycle
nearer, hairpins shifted at a wrap (R164). -/
def endElem (g : Sight) (is : List RowIssue) (row col : Nat) : Except FaultInfo (Elem × BitVec 5 × List Landed) :=
  let e := g.s.elem g.r g.x row col
  let mine := is.find? (fun i => i.row == row && i.col == col)
  let fly := e.flight ++ ((mine.map (·.iss.out)).getD [])
  let due := (fly.filter (fun f => decide (f.left ≤ 1))).map (·.eff)
  let car := ageCar e.car
  let dests := due.flatMap effDests
  match firstTwice dests <|> dests.find? (fun d => decide (d < 32) && (tfind car d).isSome) with
  | some d => .error (cycleFault clsSched 2 row col g.st (destName d))
  | none =>
    let e1 : Elem := { e with
      car := car, rsr := (mine.map (·.iss.rsr)).getD e.rsr
      flight := (fly.filter (fun f => decide (1 < f.left))).map (fun f => { f with left := f.left - 1 }) }
    let (e2, fl, ovfl, out) := landAll col e1 due
    match ovfl with
    | some d => .error (cycleFault clsSched 3 row col g.st d)
    | none =>
      .ok (if g.st.c + 1 = g.st.ii ∧ g.st.j < g.st.total then shiftHairs g.st.inst.block.hplen (shiftsLine g.u row col) e2 else e2, fl, out)

/-- Whether what lands outside an element counts: a word in o0 outside the south row is no port's (R153). -/
def leaves (south : Bool) : Landed → Bool
  | .port .. => south
  | _ => true

/-- The end of a cycle for elements in turn. -/
def endElems (g : Sight) (is : List RowIssue) : List (Nat × Nat) → Except FaultInfo (List (Nat × Nat × Elem) × BitVec 5 × List Landed)
  | [] => .ok ([], 0, [])
  | (row, col) :: cs =>
    match endElem g is row col with
    | .error f => .error f
    | .ok (e, fl, out) =>
      match endElems g is cs with
      | .error f => .error f
      | .ok (es, fl2, out2) => .ok ((row, col, e) :: es, fl ||| fl2, out.filter (leaves (row + 1 == g.x.nrows)) ++ out2)

/-! ## The region after a cycle -/

/-- FIFOs after the pops, the reservations and the pushes of a cycle (R163, R164, R243). -/
def cycleFifos (x : Region) (is : List RowIssue) (out : List Landed) : Region :=
  (List.range 8).foldl (fun x f =>
    let q := x.fifo f
    let q := if is.any (fun i => i.pops.any (· == f)) then q.popRun else q
    let n := ((is.flatMap (·.iss.out)).filter (fun l => match l.eff with
      | .write d _ _ _ => d == 42 + f
      | _ => false)).length
    let vs := out.filterMap (fun l => match l with
      | .fifo k v => if k = f then some v else none
      | _ => none)
    let q := { q with reserved := q.reserved + n - vs.length }
    x.setFifo f (vs.foldl (fun q v => q.pushRun v) q)) x

/-- A decode port's word is consumed: it leaves, its conversion's flags and draws take effect, and a marked one is counted (R144, R148, R162,
R170, R367). -/
def consumePort (u : Run) (x : Region) (row : Nat) : Region :=
  match tfind x.dec (portKey u row) with
  | none => x
  | some p =>
    match p.words with
    | [] => x
    | h :: ws =>
      let x := { x with dec := tset x.dec (portKey u row) { p with words := ws, rsr := h.w.rsr } }
      let x := (x.setFlags h.w.flg).addRovf h.w.rovf
      if h.w.zero then x.addZero 1 else x

/-- Take the words of the decode ports that rows have read. -/
def consumePorts (u : Run) (x : Region) (is : List RowIssue) : Region :=
  ((List.range x.nrows).filter (fun i => is.any (fun k => k.port && k.row == i))).foldl (consumePort u) x

/-- An encode port takes one value (R153-R156, R69). Its tracker is fed with all values of a group in the cycle that completes the group: R155 feeds
every value of the group and does not say when (DESIGN CHOICE, log entry 117). -/
def portTake (r : RegionId) (u : Run) (st : Stage) (col : Nat) (s : State) (v : Half) : State :=
  match s.region r with
  | none => s
  | some x =>
    match tfind x.enc (portKey u col) with
    | none => s
    | some p =>
      let ecw := ((st.bind p.bind).map (·.1.edge)).getD 0
      let (q, o) := encTake ecw (s.trk r.die r.tile (eTrk ecw)).lastscl p v
      let s := s.setRegion r { x with enc := tset x.enc (portKey u col) q }
      match o with
      | none => s
      | some (o, vs) =>
        let s := s.modRegion r (·.setFlags o.flg)
        let s := if encFeeds ecw then feedAll r (eTrk ecw) s vs else s
        if eScmode ecw = 1 then countTrk s r (eTrk ecw) o.sat o.unf else s

/-- What lands in ports and trackers (R69, R153). -/
def landOut (r : RegionId) (u : Run) (st : Stage) : State → List Landed → State
  | s, [] => s
  | s, .fifo _ _ :: ls => landOut r u st s ls
  | s, .port c v :: ls =>
    landOut r u st (portTake r u st c (portTake r u st c s (BitVec.ofNat 32 (half32 v.w 0))) (BitVec.ofNat 32 (half32 v.w 1))) ls
  | s, .feed n v0 v1 sat unf :: ls => landOut r u st (countTrk (feedTrk (feedTrk s r n v0) r n v1) r n sat unf) ls

/-- The trackers that SCLCs read are resynced once each, before the cycle's feeds (R71, R223). -/
def sclcAll (r : RegionId) (s : State) (is : List RowIssue) : State :=
  ((List.range 16).filter (fun n => is.any (fun i => i.iss.sclc == some n))).foldl (fun s n =>
    let t := s.trk r.die r.tile n
    (s.setTrk r.die r.tile n t.sclc).modRegion r (·.setFlags t.scale.2)) s

/-- Write the elements of a region. -/
def putElems (r : RegionId) (x : Region) : State → List (Nat × Nat × Elem) → State
  | s, [] => s
  | s, (row, col, e) :: es => putElems r x (s.setElem r x row col e) es

/-! ## Waypoints and the shadow (R157, R242, R243) -/

/-- A decode port as a restore finds it: it reads again from the line that holds its position (R157), which may be an earlier one than the line
that completes the group. -/
def DecPort.rewind (p : DecPort) : DecPort :=
  match p.words with
  | [] => if p.at_.part.isEmpty then { p with early := [] } else { p with at_ := p.org, skip := p.orgNo + p.skip, orgNo := 0, early := [] }
  | w :: _ => { p with at_ := w.src, skip := w.idx, words := [], org := w.src, orgNo := 0, early := [] }

/-- The FIFOs that a stage binds with a role. -/
def stageFifos (st : Stage) (role : Nat) : List Nat := (bindsOf st role).map (·.2.fifo)

/-- Commit the FIFOs that a stage binds: retained entries of those that it pops go, uncommitted entries of those that it pushes are readable
(R243). -/
def commitFifos (st : Stage) (x : Region) : Region :=
  let x := (stageFifos st 0).foldl (fun x f => x.setFifo f (x.fifo f).commitPops) x
  (stageFifos st 3).foldl (fun x f => x.setFifo f (x.fifo f).commitPushes) x

/-- Whether the stage's counter iteration begins an iteration of its waypoint loop within the run (R242). -/
def atWaypoint (st : Stage) : Bool :=
  match st.inst.block.wpl with
  | none => false
  | some l => st.c == 0 && decide (0 < st.j) && decide (st.j < st.t) && st.j % max 1 (tripsFrom st (l + 1)) == 0

/-- The ports of stage k. -/
def portsOfStage {α : Type} (k : Nat) (ps : Tab α) : Tab α := ps.filter (fun e => e.1 / 64 == k)

/-- The copy that a waypoint of stage k makes: every element, the stage, its ports (R242, R244). -/
def takeShadow (s : State) (r : RegionId) (x : Region) (k : Nat) (st : Stage) : Shadow :=
  { elems := x.coords.map (fun rc => (elemKey rc.1 rc.2, s.elem r x rc.1 rc.2))
    stage := st, dutyIdx := x.dutyIdx
    dec := (portsOfStage k x.dec).map (fun e => (e.1, e.2.rewind)), enc := portsOfStage k x.enc }

/-- A waypoint of stage k of a run: its shadow replaces the previous one, and its FIFOs commit (R242-R244). -/
def waypointOf (s : State) (r : RegionId) (k : Nat) (count : Bool) : State :=
  match (s.region r), (s.region r).bind (·.run) with
  | some x, some u =>
    (match u.stages[k]? with
    | none => s
    | some st =>
      let st := { st with upd := [], zSince := 0, rSince := 0, wpcnt := if count then min 0xFFFF (st.wpcnt + 1) else st.wpcnt }
      s.setRegion r { commitFifos st x with
        run := some { u with stages := u.stages.set k st }, sinceWp := 0
        shadows := tset x.shadows k (takeShadow s r x k st) })
  | _, _ => s

/-- A waypoint of the active stage. -/
def waypoint (s : State) (r : RegionId) : State :=
  match (s.region r).bind (·.run) with
  | none => s
  | some u => waypointOf s r u.act true

/-- The start of a run is a waypoint, of each of its stages (R242, R244). -/
def startWaypoint (s : State) (r : RegionId) : State :=
  match (s.region r).bind (·.run) with
  | none => s
  | some u => (List.range u.stages.length).foldl (fun s k => waypointOf s r k (k == 0)) s

/-- The FIFO entries that results in flight reserve (R163). -/
def reservedIn (es : List Elem) (f : Nat) : Nat :=
  ((es.flatMap (·.flight)).filter (fun l => match l.eff with
    | .write d _ _ _ => d == 42 + f
    | _ => false)).length

/-- Apply the argument updates of a list that iteration j is the first to have (R168). -/
def applyAt (j : Nat) (consts : Tab Half) (upd : List (Nat × Nat × Half)) : Tab Half :=
  upd.foldl (fun c e => if e.1 = j then tset c e.2.1 e.2.2 else c) consts

/-- A stage as a replay finds it: as its shadow holds it, but that a BDRAIN since then still cuts it and the argument updates applied since then
are applied again at their iterations (R168, R174, R246). -/
def replayStage (h now : Stage) (rewound : Bool) : Stage :=
  { h with cut := now.cut, upd := now.upd, consts := applyAt h.j h.consts now.upd, rewound := rewound }

/-- An element in the shadow of a stage; none of a stage that has finished. -/
def shadowElem (x : Region) (row col k : Nat) : Option Elem := (tfind x.shadows k).bind (fun h => tfind h.elems (elemKey row col))

/-- What gives a part back: the shadow of the one stage that has it; of several the active one's, or the first's that has not finished (R174
leaves open what several stages do to one part: DESIGN CHOICE, log entry 133). -/
def partFrom (x : Region) (u : Run) (row col n : Nat) : Option Elem :=
  let ks := partStages u row col n
  (if ks.isEmpty || ks.any (· == u.act) then some u.act else ks.find? (fun k => (shadowElem x row col k).isSome)).bind (shadowElem x row col)

/-- One part of an element taken from a shadow. -/
def putPart (n : Nat) (h e : Elem) : Elem :=
  if n < 4 then { e with acc := tset e.acc n (h.getAcc n) }
  else if n = 4 then { e with anchor := h.anchor, asc := h.asc }
  else if n = 5 then { e with o0 := h.o0 }
  else if n = 6 then { e with o1 := h.o1 }
  else if n < 11 then { e with hair := tset e.hair (n - 7) (tget h.hair (n - 7) {}) }
  else { e with rsr := h.rsr }

/-- The live slots and the results in flight of an element as stage k's shadow has them. -/
def putFlight (x : Region) (row col k : Nat) (e : Elem) : Elem :=
  match shadowElem x row col k with
  | none => e
  | some h => { e with car := h.car, flight := h.flight }

/-- The stage whose live slots and results in flight an element holds: the active one, or the first of the others with a word there. -/
def flightStage (u : Run) (row col : Nat) : Option Nat :=
  let ks := (List.range u.stages.length).filter (fun k => (u.stages[k]?).any (fun st => occupied st row col))
  if ks.any (· == u.act) then some u.act else ks.head?

/-- An element as a replay finds it: each part as its own stage's shadow holds it (R242, R244). -/
def rebuildElem (x : Region) (u : Run) (row col : Nat) (e : Elem) : Elem :=
  let e := (List.range 12).foldl (fun e n => match partFrom x u row col n with
    | some h => putPart n h e
    | none => e) e
  match flightStage u row col with
  | some k => putFlight x row col k e
  | none => e

/-- The elements of a region as a replay finds them. -/
def shadowElems (s : State) (r : RegionId) (x : Region) (u : Run) : List (Nat × Nat × Elem) :=
  (runElems x u).map (fun rc => (rc.1, rc.2, rebuildElem x u rc.1 rc.2 (s.elem r x rc.1 rc.2)))

/-- The elements that the shadow of stage k holds, of those with its words. -/
def stageShadow (x : Region) (k : Nat) (st : Stage) : List Elem := (stageElems x st).filterMap (fun rc => shadowElem x rc.1 rc.2 k)

/-- A region rebuilt from its shadows (R242, R243). A stage that has finished has none and stays. -/
def rebuild (s : State) (r : RegionId) : State :=
  match (s.region r), (s.region r).bind (·.run) with
  | some x, some u =>
    let s := putElems r x s (shadowElems s r x u)
    let nos := (List.range u.stages.length).zip u.stages
    let es := nos.flatMap (fun e => stageShadow x e.1 e.2)
    let x := (List.range 8).foldl (fun x f => x.setFifo f { (x.fifo f).rewind with reserved := reservedIn es f }) x
    let stages := nos.map (fun e => match tfind x.shadows e.1 with
      | some h => replayStage h.stage e.2 (e.1 != u.act)
      | none => e.2)
    s.setRegion r { x with
      run := some { u with stages := stages, fault := none, stopped := false }
      dutyIdx := ((tfind x.shadows u.act).map (·.dutyIdx)).getD x.dutyIdx
      dec := x.shadows.foldl (fun t h => h.2.dec.foldl (fun t e => tset t e.1 e.2) t) x.dec
      enc := x.shadows.foldl (fun t h => h.2.enc.foldl (fun t e => tset t e.1 e.2) t) x.enc
      heldNow := false, holdTicks := 0, sinceWp := 0 }
  | _, _ => s

/-! ## Stage swaps (R244) -/

/-- Whether no carousel slot of a stage's elements is live. -/
def carsFree (s : State) (r : RegionId) (x : Region) (st : Stage) : Bool :=
  (stageElems x st).all (fun rc => (s.elem r x rc.1 rc.2).car.isEmpty)

/-- Whether the active stage has finished steps 4 to 6 but for the commit: all iterations, all results, all lines (R241). -/
def stageOver (s : State) (r : RegionId) (x : Region) (u : Run) (st : Stage) : Bool :=
  decide (st.total ≤ st.j) && drained s r x st && (x.enc.filter (fun e => e.1 / 64 == u.act)).all (fun e => e.2.lines.isEmpty)

/-- The FIFO of a stage's lowest-numbered FEED-FIFO binding. -/
def feedFifo (st : Stage) : Option Nat := ((bindsOf st 0).head?).map (·.2.fifo)

/-- The stages after the active one, in slot order, wrapping. -/
def stagesAfter (u : Run) : List Nat := (List.range (u.stages.length - 1)).map (fun k => (u.act + 1 + k) % u.stages.length)

/-- The next unfinished stage after the active one that satisfies a test. -/
def nextStage (u : Run) (p : Stage → Bool) : Option Nat :=
  (stagesAfter u).find? (fun k => match u.stages[k]? with
    | none => false
    | some st => !st.done && p st)

/-- Stage k becomes the active one of a run: what a rewinding has left in its shadow goes back to its elements (R244). -/
def activate (s : State) (r : RegionId) (x : Region) (u : Run) (k : Nat) : State :=
  match u.stages[k]? with
  | none => s
  | some st =>
    let es := if st.rewound then (stageElems x st).map (fun rc => (rc.1, rc.2, putFlight x rc.1 rc.2 k (s.elem r x rc.1 rc.2))) else []
    (putElems r x s es).setRegion r { x with run := some { u with act := k, stages := u.stages.set k { st with rewound := false } } }

/-- Swap the active stage at a quiet point (R244). A stage that has finished commits its output and needs its shadow no more. -/
def swapStage (s : State) (r : RegionId) : State :=
  match s.region r with
  | none => s
  | some x =>
    match x.run with
    | none => s
    | some u =>
      match u.cur with
      | none => s
      | some st =>
        if !u.shared || st.c != 0 then s
        else if stageOver s r x u st then
          let u := u.setCur { st with done := true, zSince := 0, rSince := 0 }
          let y := { commitFifos st x with shadows := tdel x.shadows u.act }
          match nextStage u (fun _ => true) with
          | none => s.setRegion r { y with run := some u }
          | some k => activate s r y u k
        else if st.j < st.total && drained s r x st && carsFree s r x st then
          match feedFifo st with
          | none => s
          | some f =>
            if (x.fifo f).readable.isEmpty then
              match nextStage u (fun y => match feedFifo y with
                | none => false
                | some k => !(x.fifo k).readable.isEmpty) with
              | none => s
              | some k => activate s r x u k
            else s
        else s

/-! ## The cycle -/

/-- Whether a region's run may take cycles: it has started and met no fault, its partition is not halted, and no tile of the
region is in a gear or spine change or a package stall (R162). -/
def cycles (s : State) (r : RegionId) (x : Region) (u : Run) : Bool :=
  u.started && u.fault.isNone && !u.stopped && !s.halted r.strand && !s.shake &&
  x.quads.all (fun t => (s.tile r.die t.1).st == .run)

/-- The region as a coming cycle finds it: its run may take cycles, which it does until it ends (R162), a stage swap is made, and the duty pattern
is settled. -/
def cycleSight (s : State) (r : RegionId) : Option Sight :=
  match (s.region r), (s.region r).bind (·.run) with
  | some x, some u =>
    if cycles s r x u then
      let s := (swapStage s r).modRegion r dutyNow
      match (s.region r), (s.region r).bind (·.run) with
      | some x, some u =>
        (match u.cur with
        | none => none
        | some st => some ⟨s, r, x, u, st⟩)
      | _, _ => none
    else none
  | _, _ => none

/-- The rows of the coming cycle with the CONST in force. -/
def Sight.rows (g : Sight) : List PlacedWord := (activeRows g.st).map (fun p => { p with word := liveWord g.st p })

/-- Whether some row of the coming cycle raises hold. -/
def Sight.holds (g : Sight) : Bool :=
  let ps := g.rows
  ps.any (rowHolds g (fifoCount g ps))

/-- The duty index rises in every cycle (R165). -/
def bumpDuty (x : Region) : Region := { x with dutyIdx := x.dutyIdx + 1 }

/-- An empty cycle (R162, R165). -/
def execEmptyCycle (r : RegionId) (s : State) : Host.Outcome State Fault Refusal :=
  match cycleSight s r with
  | none => .next s
  | some g => if dutyBit g.x then .next s else .next (g.s.setRegion r (bumpDuty g.x))

/-- A held cycle (R162, R163, R172); a bound FIFO with no entry left but retained and uncommitted ones raises SCHED detail
0x05 (R243). -/
def execHeldCycle (r : RegionId) (s : State) : Host.Outcome State Fault Refusal :=
  match cycleSight s r with
  | none => .next s
  | some g =>
    if !dutyBit g.x then .next s
    else
      match pinnedFifo g with
      | some f => .next (runFault g.s r (cycleFault clsSched 5 0 0 g.st f))
      | none => if g.holds then .next (g.s.setRegion r { bumpDuty g.x with heldNow := true }) else .next s

/-- A pending argument update that has been delivered is applied at the end of an iteration, to every stage; one that a replay has still to apply
again gives way to it (R168). -/
def applyArg (x : Region) (u : Run) : Region × Run :=
  match x.argPend with
  | some (n, v, true) =>
    ({ x with argPend := none }, { u with stages := u.stages.map (fun st =>
      { st with consts := tset st.consts n v, upd := st.upd.filter (fun e => !(decide (st.j < e.1) && e.2.1 == n)) ++ [(st.j, n, v)] }) })
  | _ => (x, u)

/-- The counter after a cycle (R161, R234). -/
def stepCounter (st : Stage) : Stage :=
  if st.c + 1 < st.ii then { st with c := st.c + 1 }
  else if st.total ≤ st.j then { st with c := 0 }
  else
    { st with c := 0, j := st.j + 1, consts := applyAt (st.j + 1) st.consts st.upd
              iter := if st.stg ≤ st.j + 1 ∧ st.j + 1 - st.stg < st.t then st.iter + 1 else st.iter }

/-- A stage after a cycle that has taken a region's counters from those of `x0` to those of `x`. -/
def countSince (x0 x : Region) (st : Stage) : Stage :=
  { st with zSince := st.zSince + (x.zwords - x0.zwords).toNat, rSince := st.rSince + (x.rovf - x0.rovf).toNat }

/-- The region and its run at the end of an advancing cycle that began at `x0`: the counter, the argument update, the duty index, the hold
watchdog. -/
def endRegion (x0 x : Region) (u : Run) (st : Stage) : Region :=
  let u := u.setCur (stepCounter (countSince x0 x ((u.cur).getD st)))
  let (x, u) := if st.c + 1 = st.ii ∧ st.j < st.total then applyArg x u else (x, u)
  { bumpDuty x with run := some u, holdTicks := 0, heldNow := false }

/-- The effects of an advancing cycle, at its end (R164). An SCLC sets LASTSCL before the encode ports take the cycle's values, so one that samples it
in the same cycle has the new scale (R71 and R154 give no order; DESIGN CHOICE, log entry 115). -/
def advance (g : Sight) (is : List RowIssue) (es : List (Nat × Nat × Elem)) (fl : BitVec 5) (out : List Landed) : State :=
  let x := consumePorts g.u (cycleFifos g.x is out) is
  let x := x.setFlags (is.foldl (fun a i => a ||| i.iss.flg) fl)
  let s := landOut g.r g.u g.st (sclcAll g.r ((putElems g.r g.x g.s es).setRegion g.r x) is) out
  let s := s.modRegion g.r (fun x => endRegion g.x x g.u g.st)
  let s := noteProgress s g.r.strand g.u.tok.toNat
  if (((s.region g.r).bind (·.run)).bind (·.cur)).any atWaypoint && decide (g.st.c + 1 = g.st.ii) && decide (g.st.j < g.st.total) then
    waypoint s g.r
  else s

/-- The first TRAPIF of a cycle that traps (R230). -/
def firstTrap (is : List RowIssue) : Option (Nat × RowIssue) :=
  is.findSome? (fun i => i.iss.trap.map (fun k => (k, i)))

/-- An advancing cycle: every row takes effect, or the cycle's fault is raised and it has none (R162-R171, R230). -/
def execAdvancingCycle (r : RegionId) (s : State) : Host.Outcome State Fault Refusal :=
  match cycleSight s r with
  | none => .next s
  | some g =>
    if !dutyBit g.x then .next s
    else
      match pinnedFifo g with
      | some f => .next (runFault g.s r (cycleFault clsSched 5 0 0 g.st f))
      | none =>
        let ps := g.rows
        let n := fifoCount g ps
        if ps.any (rowHolds g n) then .next s
        else
          match ps.find? (rowStarves g n) with
          | some p => .next (runFault g.s r (cycleFault clsSched 4 p.row p.col g.st (rDst p.word)))
          | none =>
            match issueRows g ps with
            | .error f => .next (runFault g.s r f)
            | .ok is =>
              match endElems g is (stageElems g.x g.st) with
              | .error f => .next (runFault g.s r f)
              | .ok (es, fl, out) =>
                match firstTrap is with
                | some (k, i) => .next (runFault g.s r (cycleFault clsTrap k i.row i.col g.st i.dst))
                | none => .next (advance g is es fl out)

/-- The hold watchdog reaches the task's limit: HOLDTO detail 0x01 (R172). -/
def execHoldWatchdogExpiry (r : RegionId) (s : State) : Host.Outcome State Fault Refusal :=
  match s.region r, (s.taskOf r.strand).bind s.task with
  | some x, some k =>
    (match x.run with
    | some u => if holdtoLimit k ≤ x.holdTicks ∧ cycles s r x u = true then .next (runFault s r (flt clsHoldto 1)) else .next s
    | none => .next s)
  | _, _ => .next s

/-- A pending argument update reaches every element that it names (R168). -/
def execArgumentUpdateDelivered (r : RegionId) (s : State) : Host.Outcome State Fault Refusal :=
  match (s.region r).bind (·.argPend) with
  | some (n, v, _) => if s.halted r.strand then .next s else .next (s.modRegion r (fun x => { x with argPend := some (n, v, true) }))
  | none => .next s

end Sys2Proof.Machine
end

