-- ==== Sys2Proof/Machine/Streams.lean ====
section
/-! DEFINITION. Stream registers, the stream instructions, and the FEED and DRAIN operations (R113-R119, R173). -/

namespace Sys2Proof.Machine

/-! ## The walk (R113) -/

/-- T, the elements of a walk. -/
def dimsTotal (ds : List (BitVec 32 × BitVec 32)) : Nat := (ds.map (fun d => d.1.toNat)).foldl (· * ·) 1

/-- The indices of position n, dimension 0 first. -/
def dimsIndex : List (BitVec 32 × BitVec 32) → Nat → List Nat
  | [], _ => []
  | d :: ds, n => n % d.1.toNat :: dimsIndex ds (n / d.1.toNat)

/-- The byte offset of an element from its indices. -/
def dimsOffset : List (BitVec 32 × BitVec 32) → List Nat → Int
  | d :: ds, i :: is => i * d.2.toInt + dimsOffset ds is
  | _, _ => 0

/-- END flags of an element: END[k] when every index up to k is at its last value. -/
def dimsEnds : List (BitVec 32 × BitVec 32) → List Nat → List Bool
  | d :: ds, i :: is => if i + 1 = d.1.toNat then true :: dimsEnds ds is else []
  | _, _ => []

/-- The flags as a word of five bits. -/
def endBits (l : List Bool) : BitVec 5 := BitVec.ofNat 5 (2 ^ l.length - 1)

/-- T of a stream. -/
def Stream.total (q : Stream) : Nat := dimsTotal q.dims
/-- The address of the element at position n. -/
def Stream.addr (q : Stream) : Word := q.base + wrapWord (dimsOffset q.dims (dimsIndex q.dims q.n))
/-- The stream after its next element is taken. -/
def Stream.advance (q : Stream) : Stream :=
  { q with n := q.n + 1, ends := endBits (dimsEnds q.dims (dimsIndex q.dims q.n)), exh := q.n + 1 == q.total }
/-- The position set to n (R118). -/
def Stream.setPos (q : Stream) (n : Nat) : Stream := { q with n := min n q.total, ends := 0, exh := decide (q.total ≤ n) }

/-- The stream whose position and flags a stream uses: itself, or down its index streams (R118). -/
def baseStream (c : Ctx) : Nat → Nat → Nat
  | 0, q => q
  | fuel + 1, q =>
    match (c.getQ q).ind with
    | none => q
    | some i => baseStream c fuel i.qb.toNat

/-- Whether a stream and its index streams can be taken as READ streams. R119 does not say what becomes of a stream whose index stream is unbound,
bound anew or made cyclic after QIND: QRD raises ILLEGAL 0x31, QPOS and QFLAG act without a fault on the stream that baseStream finds,
and an active FEED takes an unbound index stream's elements from its base, 0 (DESIGN CHOICE, log entry 139). -/
def readChain (c : Ctx) : Nat → Nat → Bool
  | 0, _ => false
  | fuel + 1, q =>
    let x := c.getQ q
    decide (x.mode = .read) &&
    (match x.ind with
    | none => true
    | some i => readChain c fuel i.qb.toNat)

/-! ## Taking an element (R115, R118, R119) -/

/-- Take the next element of stream q of an agent, with the request its accesses make: its value, or none when the stream
is exhausted already. -/
def takeElem (q : Req) : Nat → State → Nat → State × Try (Option Nat)
  | 0, s, _ => (s, .fault (flt clsIllegal 0x31))
  | fuel + 1, s, k =>
    let x := (s.ctx q.agent).getQ k
    let n := sizeOf x.esize
    match x.ind with
    | none =>
      if x.exh then (s, .ok none)
      else
        (match readGen s q x.addr n with
        | (s, .fault f) => (s, .fault f)
        | (s, .later) => (s, .later)
        | (s, .ok bs) => (s.modCtx q.agent (fun c => c.putQ k x.advance), .ok (some (leNat bs))))
    | some i =>
      match takeElem q fuel s i.qb.toNat with
      | (s, .fault f) => (s, .fault f)
      | (s, .later) => (s, .later)
      | (s, .ok none) => (s, .ok none)
      | (s, .ok (some idx)) =>
        match x.dims with
        | [] => (s, .ok (some 0))
        | d :: _ =>
          if d.1.toNat ≤ idx then
            (if i.zero then (s, .ok (some 0)) else (s, .fault (flt clsAperture 7)))
          else
            match readGen s q (x.base + wrapWord (idx * d.2.toInt)) n with
            | (s, .fault f) => (s, .fault f)
            | (s, .later) => (s, .later)
            | (s, .ok bs) => (s, .ok (some (leNat bs)))

/-- Fuel that covers every chain of index streams. -/
def chainFuel : Nat := 17

/-- QRD (R115, R118). An element that faults is not taken. -/
def execQrd (g : Guard) (sx : Bool) (d : SReg) (q : QReg) (s : State) : Host.Outcome State Fault Refusal :=
  runStrand g s (fun s u =>
    let c := s.ctx u
    let n := 8 * sizeOf (c.getQ q.toNat).esize
    if !readChain c chainFuel q.toNat then .fault s (flt clsIllegal 0x31)
    else
      match takeElem (s.req u) chainFuel s q.toNat with
      | (s1, .fault f) => .fault (s1.setCtx u c) f
      | (s1, .later) => .wait (s.waiting s1)
      | (s1, .ok none) => .ok (s1.putS u d 0)
      | (s1, .ok (some v)) => .ok (s1.putS u d (if sx then wrapWord (sextNat v n) else BitVec.ofNat 64 v)))

/-! ## Binding (R114, R117, R118) -/

/-- The dimensions of a descriptor. -/
def descDims (d : BitVec 512) (n : Nat) : List (BitVec 32 × BitVec 32) :=
  (List.range n).map (fun k => (BitVec.ofNat 32 (dbits d (95 + 64 * k) (64 + 64 * k)), BitVec.ofNat 32 (dbits d (127 + 64 * k) (96 + 64 * k))))

/-- The checks of R114. A READ descriptor whose TOKEN or FIFO is not zero fails too: the table says that they must be zero, and the list of causes does
not name them (DESIGN CHOICE, log entry 138). -/
def streamDescBad (d : BitVec 512) : Bool :=
  let n := dbits d 388 386
  let mode := dbits d 390 389
  dbits d 511 397 != 0 || n == 0 || decide (6 ≤ n) || mode == 3 || (mode == 0 && dbits d 396 391 != 0) ||
  (descDims d n).any (fun x => x.1 == 0) ||
  decide (dbits d 383 64 / 2 ^ (64 * n) ≠ 0)

/-- Whether a stream is active: in FEED or DRAIN, its token BUSY. -/
def streamActive (s : State) (u : Agent) (q : Nat) : Bool :=
  let x := (s.ctx u).getQ q
  (decide (x.mode = .feed) || decide (x.mode = .drain)) && (s.getTok u x.tok.toNat).st == .busy

/-- Whether the operation of a stream is the one that holds its token: the token of a FEED or DRAIN that has ended may be BUSY with another. -/
def streamRuns (s : State) (u : Agent) (q : Nat) : Bool :=
  streamActive s u q &&
  (match s.op u ((s.ctx u).getQ q).tok.toNat with
  | some o => decide (o.kind = .feed (BitVec.ofNat 4 q)) || decide (o.kind = .drain (BitVec.ofNat 4 q))
  | none => false)

/-- Start a FEED or DRAIN: the FIFO role, the token and the stream, with the descriptor that bound it (R116, R117, R369). -/
def startStream (s : State) (u : Agent) (q : QReg) (x : Stream) (d : BitVec 512) : State :=
  let s := s.modCtx u (fun c => c.putQ q.toNat x)
  let cl := Claim.stream u q.toNat
  let o := newOp s u x.tok (if x.mode = .feed then .feed q else .drain q) 3 d
  let s := modFifo s u x.fifo.toNat (fun f => if x.mode = .feed then { f with producer := some cl } else { f with consumer := some cl })
  (startOp s { o with fifo := x.fifo }).modOp u x.tok.toNat (fun o => { o with st := .started })

/-- The checks of a FEED or DRAIN after its descriptor's: region, token, FIFO role (R118). -/
def streamFault (s : State) (u : Agent) (x : Stream) : Option FaultInfo :=
  if (ownRegion s u).isNone then some (flt clsToken 5)
  else
    match tokenCheck s u x.tok.toNat with
    | some f => some f
    | none =>
      let f := agentFifo s u x.fifo.toNat
      if (if x.mode = .feed then f.producer.isSome else f.consumer.isSome) then some (flt clsIllegal 0x33) else none

/-- Bind a checked stream. -/
def bindStream (q : QReg) (x : Stream) (d : BitVec 512) (s : State) (u : Agent) : Res :=
  if x.mode = .read then .ok (s.modCtx u (fun c => c.putQ q.toNat x))
  else
    match streamFault s u x with
    | some f => .fault s f
    | none => if reportPending s u x.tok.toNat then .wait s else .ok (startStream s u q x d)

/-- The stream that a descriptor binds. -/
def streamOfDesc (d : BitVec 512) : Stream :=
  { mode := match dbits d 390 389 with
      | 0 => .read
      | 1 => .feed
      | _ => .drain
    esize := BitVec.ofNat 2 (dbits d 385 384), base := BitVec.ofNat 64 (dbits d 63 0)
    dims := descDims d (dbits d 388 386), fifo := BitVec.ofNat 3 (dbits d 393 391), tok := BitVec.ofNat 3 (dbits d 396 394) }

/-- QSET (R114, R118). -/
def execQset (g : Guard) (q : QReg) (a : SReg) (off : BitVec 29) (s : State) : Host.Outcome State Fault Refusal :=
  runStrand g s (fun s u =>
    let da := baseOff (s.ctx u) a off
    if streamActive s u q.toNat then .fault s (flt clsToken 8)
    else if !aligned da 64 then .fault s (flt clsAlign 1 da)
    else
      match readLoads s (s.req u) da 8 with
      | (s, .fault f) => .fault s f
      | (s1, .later) => .wait (s.waiting s1)
      | (s, .ok bs) =>
        let d := BitVec.ofNat 512 (leNat bs)
        if streamDescBad d then .fault s (flt clsIllegal 0x30) else bindStream q (streamOfDesc d) d s u)

/-- The checks of QIND on its table and index streams (R119). -/
def indBad (c : Ctx) (q qa qb : QReg) : Bool :=
  let ta := c.getQ qa.toNat
  decide (ta.mode ≠ .read) || ta.ind.isSome || decide ((c.getQ qb.toNat).mode ≠ .read) || q == qb

/-- The stream that QIND binds: a snapshot of the table's base, stride, count and element size (R119). -/
def indStream (c : Ctx) (zero : Bool) (qa qb : QReg) (mode : QMode) (f : FReg) (t : TokIx) : Stream :=
  let ta := c.getQ qa.toNat
  { mode := mode, esize := ta.esize, base := ta.base, dims := ta.dims.take 1, fifo := f, tok := t, ind := some ⟨zero, qb⟩ }

/-- QIND in either form. -/
def indBind (zero : Bool) (q qa qb : QReg) (mode : QMode) (f : FReg) (t : TokIx) (s : State) (u : Agent) : Res :=
  let c := s.ctx u
  if streamActive s u q.toNat then .fault s (flt clsToken 8)
  else if indBad c q qa qb then .fault s (flt clsIllegal 0x32)
  else bindStream q (indStream c zero qa qb mode f t) 0 s u

/-- QIND (R119). -/
def execQind (g : Guard) (zero : Bool) (q qa qb : QReg) (s : State) : Host.Outcome State Fault Refusal :=
  runStrand g s (indBind zero q qa qb .read 0 0)

/-- QIND.FEED (R119). -/
def execQindFeed (g : Guard) (zero : Bool) (q qa qb : QReg) (f : FReg) (t : TokIx) (s : State) : Host.Outcome State Fault Refusal :=
  runStrand g s (indBind zero q qa qb .feed f t)

/-- QPOS.GET (R118). -/
def execQposGet (g : Guard) (d : SReg) (q : QReg) (s : State) : Host.Outcome State Fault Refusal :=
  runStrand g s (fun s u =>
    let c := s.ctx u
    if (c.getQ q.toNat).mode = .unbound then .fault s (flt clsIllegal 0x31)
    else .ok (s.putS u d (BitVec.ofNat 64 (c.getQ (baseStream c chainFuel q.toNat)).n)))

/-- QPOS.SET (R118). -/
def execQposSet (g : Guard) (q : QReg) (b : SReg) (s : State) : Host.Outcome State Fault Refusal :=
  runStrand g s (fun s u =>
    let c := s.ctx u
    let k := baseStream c chainFuel q.toNat
    if streamActive s u q.toNat then .fault s (flt clsToken 8)
    else if (c.getQ q.toNat).mode = .unbound then .fault s (flt clsIllegal 0x31)
    else .ok (s.modCtx u (fun c => c.putQ k ((c.getQ k).setPos (c.getS b).toNat))))

/-- QFLAG (R118). -/
def execQflag (g : Guard) (d : PReg) (q : QReg) (k : BitVec 3) (s : State) : Host.Outcome State Fault Refusal :=
  runStrand g s (fun s u =>
    let c := s.ctx u
    let x := c.getQ (baseStream c chainFuel q.toNat)
    let bound := decide ((c.getQ q.toNat).mode ≠ .unbound)
    if k = 6 then .ok (s.putP u d bound)
    else if !bound then .fault s (flt clsIllegal 0x31)
    else .ok (s.putP u d (if k = 5 then x.exh else x.ends.getLsbD k.toNat)))

/-- Release the FIFO role of a stream. -/
def dropStream (s : State) (u : Agent) (q : Nat) (f : Nat) : State :=
  modFifo s u f (fun x => dropProducer (.stream u q) (dropConsumer (.stream u q) x))

/-- QCLR (R118). Only a token that the stream's own operation holds goes DONE (DEDUCED, log entry 26). -/
def execQclr (g : Guard) (flush : Bool) (q : QReg) (s : State) : Host.Outcome State Fault Refusal :=
  runOk g s (fun s u =>
    let c := s.ctx u
    let x := c.getQ q.toNat
    let s1 := if streamRuns s u q.toNat then dropStream (opDone s u x.tok.toNat) u q.toNat x.fifo.toNat else s
    let s2 := if flush && (decide (x.mode = .feed) || decide (x.mode = .drain)) then modFifo s1 u x.fifo.toNat Fifo.flush else s1
    s2.modCtx u (fun c => { c with q := tdel c.q q.toNat }))

/-! ## FEED and DRAIN (R117) -/

/-- Elements of an entry by element size (Table: Stream packing). -/
def perEntry (z : BitVec 2) : Nat :=
  match z with
  | 0 => 10
  | 1 => 5
  | 2 => 2
  | _ => 1

/-- Take elements into one entry, to its last element or the end of the dimension-0 run; the elements taken. Where the index stream is itself
indirect, R119 does not say what its CNT0 is: the entry ends at END[0] of the bottom index stream (DESIGN CHOICE, log entry 139). -/
def packEntry (q : Req) (k base : Nat) : Nat → State → State × Try (List Nat)
  | 0, s => (s, .ok [])
  | n + 1, s =>
    match takeElem q chainFuel s k with
    | (s, .fault f) => (s, .fault f)
    | (s, .later) => (s, .later)
    | (s, .ok none) => (s, .ok [])
    | (s, .ok (some v)) =>
      if ((s.ctx q.agent).getQ base).ends.getLsbD 0 then (s, .ok [v])
      else
        match packEntry q k base n s with
        | (s, .ok vs) => (s, .ok (v :: vs))
        | (s, .fault f) => (s, .fault f)
        | (s, .later) => (s, .later)

/-- The lane word that packs elements of n bytes, from bit 0. -/
def packWord (n : Nat) : List Nat → Nat
  | [] => 0
  | v :: vs => v + 2 ^ (8 * n) * packWord n vs

/-- A stream's operation ends in a fault: a replayable one keeps its FIFO role and its position (R117). -/
def streamOpFault (s : State) (u : Agent) (q f : Nat) (t : Nat) (x : FaultInfo) : State :=
  if fstatus x.cls x.detail = .replay then opFault s u t x else dropStream (opFault s u t x) u q f

/-- The operation of an active stream that may make progress. -/
def streamOp (s : State) (u : Agent) (q : Nat) : Option EngOp :=
  let x := (s.ctx u).getQ q
  if !streamRuns s u q then none
  else
    match s.op u x.tok.toNat with
    | some o => if opRuns s o then some o else none
    | none => none

/-- A FEED pushes one entry of stream q into its FIFO (R117). -/
def feedStep (s : State) (u : Agent) (q : Nat) : State :=
  match streamOp s u q with
  | none => s
  | some o =>
    let c := s.ctx u
    let x := c.getQ q
    let b := baseStream c chainFuel q
    let finish (s : State) : State := dropStream (opDone s u x.tok.toNat) u q x.fifo.toNat
    if x.mode ≠ .feed then s
    else if (c.getQ b).exh then finish s
    else if (agentFifo s u x.fifo.toNat).room = 0 then s
    else
      match packEntry (s.opReq o) q b (perEntry x.esize) s with
      | (s1, .fault f) => streamOpFault (s1.setCtx u c) u q x.fifo.toNat x.tok.toNat f
      | (s1, .later) => s.waiting s1
      | (s1, .ok vs) =>
        let s2 := noteProgress (modFifo (clearProbes s1 u x.tok.toNat) u x.fifo.toNat (fun y => y.push (plainVal (packWord (sizeOf x.esize) vs)))) u x.tok.toNat
        if ((s2.ctx u).getQ b).exh then finish s2 else s2

/-- Write the elements of an entry at the positions of a DRAIN, to the end of the run. -/
def unpackEntry (q : Req) (k : Nat) : Nat → Nat → State → State × Try Unit
  | 0, _, s => (s, .ok ())
  | n + 1, w, s =>
    let x := (s.ctx q.agent).getQ k
    let z := sizeOf x.esize
    match writeGen s q x.addr (leBytes z w) with
    | (s, .fault f) => (s, .fault f)
    | (s, .later) => (s, .later)
    | (s, .ok _) =>
      let s := s.modCtx q.agent (fun c => c.putQ k { x.advance with ticks := 0 })
      if x.advance.ends.getLsbD 0 then (s, .ok ()) else unpackEntry q k n (w / 2 ^ (8 * z)) s

/-- The elements of its head entry that a DRAIN has written: an entry begins at the start of each dimension-0 run (R117). -/
def headWritten (x : Stream) : Nat :=
  match x.dims with
  | [] => 0
  | d :: _ => x.n % max 1 d.1.toNat % perEntry x.esize

/-- A DRAIN writes the elements of one entry that it has not written, and the entry then leaves the FIFO (R117). A fault leaves the position at
the element that it met (R369). -/
def drainStep (s : State) (u : Agent) (q : Nat) : State :=
  match streamOp s u q with
  | none => s
  | some o =>
    let c := s.ctx u
    let x := c.getQ q
    if x.mode ≠ .drain then s
    else
      match (agentFifo s u x.fifo.toNat).readable with
      | [] => s
      | v :: _ =>
        let k := headWritten x
        match unpackEntry (s.opReq o) q (perEntry x.esize - k) (v.w.toNat / 2 ^ (8 * sizeOf x.esize * k)) s with
        | (s1, .fault f) => streamOpFault s1 u q x.fifo.toNat x.tok.toNat f
        | (s1, .later) => s.waiting s1
        | (s1, .ok _) =>
          let s2 := noteProgress (modFifo (clearProbes s1 u x.tok.toNat) u x.fifo.toNat Fifo.pop) u x.tok.toNat
          if ((s2.ctx u).getQ q).exh then dropStream (opDone s2 u x.tok.toNat) u q x.fifo.toNat else s2

/-- A DRAIN has waited on an empty FIFO for HOLDTO ticks: HOLDTO detail 0x04 (R173). -/
def execDrainWatchdogExpiry (u : Agent) (q : Nat) (s : State) : Host.Outcome State Fault Refusal :=
  let x := (s.ctx u).getQ q
  match streamOp s u q, (s.taskOf u).bind s.task with
  | some _, some k =>
    if x.mode = .drain ∧ holdtoLimit k ≤ x.ticks ∧ (agentFifo s u x.fifo.toNat).readable = [] then
      .next (streamOpFault s u q x.fifo.toNat x.tok.toNat (flt clsHoldto 4))
    else .next s
  | _, _ => .next s

end Sys2Proof.Machine
end

