-- ==== Sys2Proof/Machine/Irregular.lean ====
section
/-! DEFINITION. The irregular engines of a tile: the junction, the router and the hash accumulator (R120-R127). -/

namespace Sys2Proof.Machine

/-! ## Issue (R120) -/

/-- A scope of an irregular operation is checked at decode; the mould of R99 without the descriptor of R91. -/
def irregularMould (kind : OpKind) (scope : ScopeCode) (t : TokIx) (a : SReg) (off : BitVec 29)
    (check : State → Agent → BitVec 512 → Option FaultInfo) (start : State → EngOp → State) (s : State) (u : Agent) : Res :=
  let da := baseOff (s.ctx u) a off
  if !aligned da 64 then .fault s (flt clsAlign 1 da)
  else
    match readLoads s (s.req u) da 8 with
    | (s, .fault f) => .fault s f
    | (s1, .later) => .wait (s.waiting s1)
    | (s, .ok bs) =>
      match tokenCheck s u t.toNat with
      | some f => .fault s f
      | none =>
        if reportPending s u t.toNat then .wait s
        else
          let d := BitVec.ofNat 512 (leNat bs)
          match check s u d with
          | some f => .fault s f
          | none => .ok (start s (newOp s u t kind scope d))

/-- MERGE's descriptor, region and FIFO (R116, R122). -/
def mergeCheck (tof : Bool) (s : State) (u : Agent) (d : BitVec 512) : Option FaultInfo :=
  if dbits d 511 448 % 8 ≠ 0 || (tof && (dbits d 319 256 != 0 || dbits d 383 323 != 0)) then some (flt clsIllegal 0x34)
  else if tof then
    if (ownRegion s u).isNone then some (flt clsToken 5)
    else if (agentFifo s u (dbits d 322 320)).producer.isSome then some (flt clsIllegal 0x33)
    else none
  else none

/-- Start a MERGE: with TOF it claims its FIFO (R116). -/
def mergeStart (tof : Bool) (s : State) (o : EngOp) : State :=
  let f := dbits o.desc 322 320
  let s := startOp s { o with fifo := BitVec.ofNat 3 f }
  if tof then modFifo s o.agent f (fun x => { x with producer := some (.merge o.agent o.tok.toNat) }) else s

/-- MERGE (R122). -/
def execMerge (g : Guard) (comb : BitVec 3) (kz vfmt tof : Bool) (scope : ScopeCode) (t : TokIx) (a : SReg) (off : BitVec 29)
    (s : State) : Host.Outcome State Fault Refusal :=
  runStrand g s (irregularMould (.merge comb kz vfmt tof) scope t a off (mergeCheck tof) (mergeStart tof))

/-- ROUTE's descriptor (R123). -/
def routeCheck (_ : State) (_ : Agent) (d : BitVec 512) : Option FaultInfo :=
  if dbits d 511 448 ≠ 0 || dbits d 447 432 == 0 || dbits d 431 416 == 0 || decide (65536 < dbits d 415 384) ||
      dbits d 319 256 % 8 != 0 || dbits d 191 128 % 8 != 0 then some (flt clsIllegal 0x34)
  else none

/-- ROUTE (R123). -/
def execRoute (g : Guard) (scope : ScopeCode) (t : TokIx) (a : SReg) (off : BitVec 29) (s : State) :
    Host.Outcome State Fault Refusal :=
  runStrand g s (irregularMould .route scope t a off routeCheck startOp)

/-- Where `n` bytes of the issuing tile's own tile buffer that a generic address names begin, if they lie wholly there at a
multiple of `al` (R124, R138). -/
def ownBuffer (s : State) (q : Req) (a : Word) (n al : Nat) : Option Nat :=
  if !aligned a al || spansZones q a n then none
  else
    match routePart s q .load a 8 with
    | (_, .ok p) =>
      let b := tbLoc q.agent.die q.agent.tile 0
      if b ≤ p.loc ∧ p.loc + n ≤ b + 2 ^ 20 ∧ !q.agent.isHub then some p.loc else none
    | _ => none

/-- The descriptor of HACC and HFLUSH, and the table's place (R124). LOG2S is said to run from 4 to 16 in a field of 4 bits: 4 to 15 are taken, and
the others raise 0x34 (DESIGN CHOICE, log entry 140). -/
def hashCheck (flush : Bool) (s : State) (u : Agent) (d : BitVec 512) : Option FaultInfo :=
  let l := dbits d 323 320
  if dbits d 511 324 ≠ 0 || decide (l < 4) ||
      (if flush then dbits d 319 256 != 0 else decide (4096 < dbits d 287 256) || dbits d 255 192 != 0) then some (flt clsIllegal 0x34)
  else
    match ownBuffer s (s.req u) (dSrc d) (8 * 2 ^ l) (8 * 2 ^ l) with
    | some _ => none
    | none => some (flt clsAperture 8 (dSrc d))

/-- Start a HACC at the first update its descriptor names (R125). -/
def haccStart (s : State) (o : EngOp) : State := startOp s { o with start := dbits o.desc 319 288 }

/-- HACC (R125). -/
def execHacc (g : Guard) (comb : BitVec 2) (vfmt : Bool) (scope : ScopeCode) (t : TokIx) (a : SReg) (off : BitVec 29) (s : State) :
    Host.Outcome State Fault Refusal :=
  runStrand g s (irregularMould (.hacc comb vfmt) scope t a off (hashCheck false) haccStart)

/-- HFLUSH (R126). -/
def execHflush (g : Guard) (keep : Bool) (scope : ScopeCode) (t : TokIx) (a : SReg) (off : BitVec 29) (s : State) :
    Host.Outcome State Fault Refusal :=
  runStrand g s (irregularMould (.hflush keep) scope t a off (hashCheck true) startOp)

/-! ## The engines of a tile -/

/-- Which engine an operation uses: 0 the junction, 1 the router, 2 the hash accumulator. -/
def engineOf : OpKind → Option Nat
  | .merge .. => some 0
  | .route => some 1
  | .hacc .. => some 2
  | .hflush .. => some 2
  | _ => none

/-- Whether an operation is one of a tile's engine. -/
def onEngine (d t e : Nat) (o : EngOp) : Bool :=
  !o.agent.isHub && o.agent.die == d && o.agent.tile == t && engineOf o.kind == some e

/-- The operation in progress on a tile's engine. -/
def engineOp (s : State) (d t e : Nat) : Option EngOp :=
  ((s.ops.map (·.2)).find? (fun o => onEngine d t e o && decide (o.st = .started) &&
    (s.getTok o.agent o.tok.toNat).st == .busy))

/-- An idle engine takes its oldest queued operation (R120). -/
def execIrregularOpStart (die tile engine : Nat) (s : State) : Host.Outcome State Fault Refusal :=
  match engineOp s die tile engine with
  | some _ => .next s
  | none =>
    match oldestQueued s (fun o => onEngine die tile engine o && opRuns s o) with
    | none => .next s
    | some o => .next (s.setOp o.agent o.tok.toNat { o with st := .started })

/-- An operation ends with its token ERROR and a cause, and no fault. -/
def opError (s : State) (a : Agent) (t : Nat) (cause : Byte) : State := settleTok (s.delOp a t) a t .error cause

/-- Write several byte strings in turn (R120). -/
def writeAll (q : Req) : State → List (Word × List Byte) → State × Try Unit
  | s, [] => (s, .ok ())
  | s, (a, bs) :: l =>
    match writeGen s q a bs with
    | (s, .ok _) => writeAll q s l
    | (s, .fault f) => (s, .fault f)
    | (s, .later) => (s, .later)

/-- Read several arrays in turn. -/
def readAll (q : Req) : State → List (Word × Nat) → State × Try (List (List Byte))
  | s, [] => (s, .ok [])
  | s, (a, n) :: l =>
    match (if n = 0 then (s, .ok []) else readGen s q a n) with
    | (s, .fault f) => (s, .fault f)
    | (s, .later) => (s, .later)
    | (s, .ok b) =>
      match readAll q s l with
      | (s, .ok bs) => (s, .ok (b :: bs))
      | (s, .fault f) => (s, .fault f)
      | (s, .later) => (s, .later)

/-! ## MERGE (R122) -/

/-- Combine of MERGE and HACC: add, max, min, first, second (R122). -/
def combine (comb : Nat) (vf : Bool) (a b : Nat) : Nat :=
  match comb with
  | 0 => if vf then floatAdd fp32 a b else (a + b) % 2 ^ 32
  | 1 => collPick (if vf then fp32 else .int 32) true a b
  | 2 => collPick (if vf then fp32 else .int 32) false a b
  | 3 => a
  | _ => b

/-- Whether a combined value counts as zero (R122). -/
def isZeroVal (vf : Bool) (v : Nat) : Bool := if vf then v % 2 ^ 31 == 0 else v == 0

/-- Whether the head of a list is not above the index before it. -/
def notAbove (prev : Option Nat) : List (Nat × Nat) → Bool
  | [] => false
  | x :: _ =>
    match prev with
    | none => false
    | some p => decide (x.1 ≤ p)

/-- The merge of two lists, with the indices before their heads: the outputs, and whether it ended in error. -/
def mergeLists (comb : Nat) (kz vf : Bool) : Nat → Option Nat → Option Nat → List (Nat × Nat) → List (Nat × Nat) → List (Nat × Nat) × Bool
  | 0, _, _, _, _ => ([], false)
  | n + 1, pa, pb, as, bs =>
    if notAbove pa as || notAbove pb bs then ([], true)
    else
      match as, bs with
      | [], [] => ([], false)
      | a :: as', [] => let r := mergeLists comb kz vf n (some a.1) pb as' []; (a :: r.1, r.2)
      | [], b :: bs' => let r := mergeLists comb kz vf n pa (some b.1) [] bs'; (b :: r.1, r.2)
      | a :: as', b :: bs' =>
        if a.1 < b.1 then let r := mergeLists comb kz vf n (some a.1) pb as' (b :: bs'); (a :: r.1, r.2)
        else if b.1 < a.1 then let r := mergeLists comb kz vf n pa (some b.1) (a :: as') bs'; (b :: r.1, r.2)
        else
          let v := combine comb vf a.2 b.2
          let r := mergeLists comb kz vf n (some a.1) (some b.1) as' bs'
          (if !isZeroVal vf v || kz then (a.1, v) :: r.1 else r.1, r.2)

/-- The inputs of a MERGE. -/
def mergeReads (d : BitVec 512) : List (Word × Nat) :=
  let w (lo : Nat) : Word := BitVec.ofNat 64 (dbits d (lo + 63) lo)
  let na := dbits d 415 384
  let nb := dbits d 447 416
  [(w 0, 4 * na), (w 64, 4 * na), (w 128, 4 * nb), (w 192, 4 * nb)]

/-- The outputs of a MERGE from its inputs, and whether it ended in error. -/
def mergeOut (comb : Nat) (kz vf : Bool) (ins : List (List Byte)) : List (Nat × Nat) × Bool :=
  match ins.map (elemsOf 4) with
  | [ai, av, bi, bv] => mergeLists comb kz vf (ai.length + bi.length + 1) none none (ai.zip av) (bi.zip bv)
  | _ => ([], false)

/-- Read one 4-byte entry of an array of a merge descriptor. -/
def mergeEntry (q : Req) (d : BitVec 512) (lo : Nat) (s : State) (i : Nat) : State × Try Nat :=
  match readGen s q (BitVec.ofNat 64 (dbits d (lo + 63) lo + 4 * i)) 4 with
  | (s, .ok bs) => (s, .ok (leNat bs))
  | (s, .fault f) => (s, .fault f)
  | (s, .later) => (s, .later)

/-- The merge entry by entry, in the order of R122's procedure, for inputs that cannot all be read: the outputs up to an index out of order, or
the fault of the first entry that it reads and that fails. `i` and `j` are the heads, `pa` and `pb` the indices before them. -/
def mergeGo (q : Req) (d : BitVec 512) (comb : Nat) (kz vf : Bool) : Nat → State → Nat → Nat → Option Nat → Option Nat →
    State × Try (List (Nat × Nat) × Bool)
  | 0, s, _, _, _, _ => (s, .ok ([], false))
  | n + 1, s, i, j, pa, pb =>
    let na := dbits d 415 384
    let nb := dbits d 447 416
    if na ≤ i ∧ nb ≤ j then (s, .ok ([], false))
    else
      match (if i < na then mergeEntry q d 0 s i else (s, .ok (2 ^ 32))) with
      | (s, .fault f) => (s, .fault f)
      | (s, .later) => (s, .later)
      | (s, .ok a) =>
        match (if j < nb then mergeEntry q d 128 s j else (s, .ok (2 ^ 32))) with
        | (s, .fault f) => (s, .fault f)
        | (s, .later) => (s, .later)
        | (s, .ok b) =>
          if notAbove pa [(a, 0)] || notAbove pb [(b, 0)] then (s, .ok ([], true))
          else
            match (if a ≤ b then mergeEntry q d 64 s i else (s, .ok 0)) with
            | (s, .fault f) => (s, .fault f)
            | (s, .later) => (s, .later)
            | (s, .ok av) =>
              match (if b ≤ a then mergeEntry q d 192 s j else (s, .ok 0)) with
              | (s, .fault f) => (s, .fault f)
              | (s, .later) => (s, .later)
              | (s, .ok bv) =>
                let v := if a = b then combine comb vf av bv else if a < b then av else bv
                match mergeGo q d comb kz vf n s (if a ≤ b then i + 1 else i) (if b ≤ a then j + 1 else j)
                    (if a ≤ b then some a else pa) (if b ≤ a then some b else pb) with
                | (s, .ok r) => (s, .ok (if a ≠ b ∨ !isZeroVal vf v ∨ kz then ((min a b, v) :: r.1, r.2) else r))
                | e => e

/-- The outputs of a MERGE, and whether it ended in error. An entry that the procedure of R122 does not read does not fault it. -/
def mergeInputs (s : State) (q : Req) (d : BitVec 512) (comb : Nat) (kz vf : Bool) : State × Try (List (Nat × Nat) × Bool) :=
  match readAll q s (mergeReads d) with
  | (s, .ok ins) => (s, .ok (mergeOut comb kz vf ins))
  | (s1, .later) => (s1, .later)
  | (_, .fault _) => mergeGo q d comb kz vf (dbits d 415 384 + dbits d 447 416 + 1) s 0 0 none none

/-- Push as many of the remaining outputs as a FIFO has room for (R122). -/
def pushOutputs (s : State) (o : EngOp) (l : List (Nat × Nat)) : State × Nat :=
  let n := min (agentFifo s o.agent o.fifo.toNat).room l.length
  (modFifo s o.agent o.fifo.toNat (fun x => (l.take n).foldl (fun x p => x.push (plainVal (p.1 + p.2 * 2 ^ 32))) x), n)

/-- The end of a MERGE whose outputs are out: OCNT, then the token. -/
def mergeEnd (s : State) (o : EngOp) (n : Nat) (err : Bool) : State × Try Unit :=
  match writeGen s (s.opReq o) (dNaddr o.desc) (leBytes 8 n) with
  | (s, .ok _) =>
    let s := modFifo s o.agent o.fifo.toNat (dropProducer (.merge o.agent o.tok.toNat))
    (if err then opError s o.agent o.tok.toNat 0x10 else opDone s o.agent o.tok.toNat, .ok ())
  | r => r

/-- A MERGE meets a fault; unless it is replayable its FIFO role ends. -/
def mergeFault (s : State) (o : EngOp) (f : FaultInfo) : State :=
  let s := if fstatus f.cls f.detail = .replay then s
    else modFifo s o.agent o.fifo.toNat (dropProducer (.merge o.agent o.tok.toNat))
  opFault s o.agent o.tok.toNat f

/-- A MERGE that writes memory (R122). -/
def mergeMemory (s : State) (o : EngOp) (out : List (Nat × Nat)) (err : Bool) : State × Try Unit :=
  match writeAll (s.opReq o) s
      [(BitVec.ofNat 64 (dbits o.desc 319 256), out.flatMap (fun p => leBytes 4 p.1)),
       (BitVec.ofNat 64 (dbits o.desc 383 320), out.flatMap (fun p => leBytes 4 p.2))] with
  | (s, .ok _) => mergeEnd s o out.length err
  | r => r

/-- A MERGE that pushes to a FIFO: what fits goes in, and when all outputs are in, OCNT is written (R122). -/
def mergeFifo (s : State) (o : EngOp) (out : List (Nat × Nat)) (err : Bool) : State × Try Unit :=
  let r := pushOutputs s o (out.drop o.made)
  let o2 := { o with made := o.made + r.2 }
  let s := noteProgress (r.1.setOp o.agent o.tok.toNat o2) o.agent o.tok.toNat
  if o2.made < out.length then (s, .ok ()) else mergeEnd s o2 out.length err

/-- The junction of a tile finishes its merge, or, facing a full FIFO, goes as far as it can (R122). -/
def execMergeComplete (die tile : Nat) (s : State) : Host.Outcome State Fault Refusal :=
  match engineOp s die tile 0 with
  | none => .next s
  | some o =>
    match o.kind with
    | .merge comb kz vf tof =>
      if !opRuns s o then .next s
      else
        (match mergeInputs s (s.opReq o) o.desc comb.toNat kz vf with
        | (s1, .fault f) => .next (mergeFault s1 o f)
        | (s1, .later) => .next (s.waiting s1)
        | (s1, .ok r) =>
          match (if tof then mergeFifo s1 o r.1 r.2 else mergeMemory s1 o r.1 r.2) with
          | (s2, .ok _) => .next s2
          | (s2, .fault f) => .next (mergeFault s2 o f)
          | (s2, .later) => .next (s.waiting s2))
    | _ => .next s

/-! ## ROUTE (R123) -/

/-- What the router has decided for its tokens so far. -/
structure Routed where
  acc  : Tab Nat := []
  off  : Tab Nat := []
  q    : List (Nat × Nat) := []
  lane : List Nat := []
  flg  : List Byte := []
  deriving DecidableEq, Repr

/-- Dispatch one token to its expert's queue or the detour lane. -/
def routeToken (cap : Nat) (r : Routed) (te : Nat × Nat) : Routed :=
  let t := te.1
  let e := te.2
  let a := tget r.acc e 0
  let r := { r with off := tset r.off e (tget r.off e 0 + 1) }
  if a < cap then { r with acc := tset r.acc e (a + 1), q := r.q ++ [(e * cap + a, t)], flg := r.flg ++ [0] }
  else { r with lane := r.lane ++ [t], flg := r.flg ++ [1] }

/-- The writes of a ROUTE. -/
def routeWrites (d : BitVec 512) (r : Routed) : List (Word × List Byte) :=
  let w (lo : Nat) : Word := BitVec.ofNat 64 (dbits d (lo + 63) lo)
  r.q.map (fun p => (w 64 + BitVec.ofNat 64 (4 * p.1), leBytes 4 p.2)) ++
  [(w 192, r.lane.flatMap (leBytes 4)), (w 320, r.flg),
   (w 128, (List.range (dbits d 431 416)).flatMap (fun e => leBytes 4 (tget r.acc e 0) ++ leBytes 4 (tget r.off e 0))),
   (w 256, leBytes 8 r.lane.length)]

/-- The router of a tile finishes its dispatch (R123). -/
def execRouteComplete (die tile : Nat) (s : State) : Host.Outcome State Fault Refusal :=
  match engineOp s die tile 1 with
  | none => .next s
  | some o =>
    if !opRuns s o then .next s
    else
      match readAll (s.opReq o) s [(dSrc o.desc, 2 * dbits o.desc 415 384)] with
      | (s1, .fault f) => .next (opFault s1 o.agent o.tok.toNat f)
      | (s1, .later) => .next (s.waiting s1)
      | (s1, .ok ins) =>
        let es := elemsOf 2 ins.flatten
        if es.any (fun e => decide (dbits o.desc 431 416 ≤ e)) then .next (opFault s1 o.agent o.tok.toNat (flt clsRoute 1))
        else
          let r := ((List.range es.length).zip es).foldl (routeToken (dbits o.desc 447 432)) {}
          match writeAll (s.opReq o) s1 (routeWrites o.desc r) with
          | (s2, .ok _) => .next (opDone s2 o.agent o.tok.toNat)
          | (s2, .fault f) => .next (opFault s2 o.agent o.tok.toNat f)
          | (s2, .later) => .next (s.waiting s2)

/-! ## HACC and HFLUSH (R124-R126) -/

/-- Insert a pair behind every pair whose key is not above its own. -/
def insertKey (x : Nat × Nat) : List (Nat × Nat) → List (Nat × Nat)
  | [] => [x]
  | y :: ys => if y.1 ≤ x.1 then y :: insertKey x ys else x :: y :: ys

/-- The pairs by ascending key, equal keys in their order (R125). -/
def sortKeys (l : List (Nat × Nat)) : List (Nat × Nat) := l.foldl (fun acc x => insertKey x acc) []

/-- The first slot probed for a key (R124). -/
def hashOf (l k : Nat) : Nat := (k * 0x2545F491 % 2 ^ 32) >>> (32 - l)

/-- Probe: the slot that holds the key, or the first empty one; none in a full table without the key (R124). -/
def probe (tbl : List (Nat × Nat)) (k h : Nat) : Nat → Nat → Option Nat
  | 0, _ => none
  | n + 1, j =>
    let i := (h + j) % tbl.length
    let x := (tbl.getD i (0, 0)).1
    if x = k ∨ x = 0 then some i else probe tbl k h n (j + 1)

/-- How a HACC ended: all applied, or stopped at an update, on key 0 or on a full table. -/
inductive HaccEnd where
  | done | rkey (u : Nat) | full (u : Nat)
  deriving DecidableEq, Repr

/-- Apply sorted updates from position u (R125); the table and how it ended. -/
def haccApply (comb : Nat) (vf : Bool) (l : Nat) : List (Nat × Nat) → Nat → List (Nat × Nat) → List (Nat × Nat) × HaccEnd
  | tbl, _, [] => (tbl, .done)
  | tbl, u, (k, v) :: us =>
    if k = 0 then (tbl, .rkey u)
    else
      let occ := (tbl.filter (fun x => x.1 != 0)).length
      match probe tbl k (hashOf l k) tbl.length 0 with
      | none => (tbl, .full u)
      | some i =>
        let x := tbl.getD i (0, 0)
        if x.1 = k then haccApply comb vf l (tbl.set i (k, if comb = 3 then v else combine comb vf x.2 v)) (u + 1) us
        else if occ = 2 ^ l - 2 ^ l / 8 then (tbl, .full u)
        else haccApply comb vf l (tbl.set i (k, v)) (u + 1) us

/-- The slots of a table as (key, value) pairs. -/
def tableSlots (bs : List Byte) : List (Nat × Nat) := (elemsOf 8 bs).map (fun x => (x % 2 ^ 32, x / 2 ^ 32))
/-- A table's bytes. -/
def tableBytes (l : List (Nat × Nat)) : List Byte := l.flatMap (fun x => leBytes 4 x.1 ++ leBytes 4 x.2)

/-- HASHST of a HACC that stopped (R127). -/
def hashstOf (full : Bool) (t u : Nat) : Word := BitVec.ofNat 64 ((if full then 2 ^ 63 else 2 ^ 62) + t * 2 ^ 32 + u)

/-- Write the slots that a HACC changed: each is one 8-byte write (R125). -/
def writeSlots (base : Word) (i : Nat) : List (Nat × Nat) → List (Nat × Nat) → List (Word × List Byte)
  | x :: xs, y :: ys =>
    (if x = y then [] else [(base + BitVec.ofNat 64 (8 * i), leBytes 4 y.1 ++ leBytes 4 y.2)]) ++ writeSlots base (i + 1) xs ys
  | _, _ => []

/-- A hash row ends: done, or in error with HASHST (R125). -/
def haccFinish (s : State) (o : EngOp) (e : HaccEnd) : State :=
  let t := o.tok.toNat
  match e with
  | .done => opDone s o.agent t
  | .rkey u => opError (s.modCtx o.agent (fun c => { c with hashst := hashstOf false t u })) o.agent t 0x14
  | .full u => opError (s.modCtx o.agent (fun c => { c with hashst := hashstOf true t u })) o.agent t 0x12

/-- The hash accumulator of a tile finishes a row of updates (R125). -/
def execHaccComplete (die tile : Nat) (s : State) : Host.Outcome State Fault Refusal :=
  match engineOp s die tile 2 with
  | none => .next s
  | some o =>
    match o.kind with
    | .hacc comb vf =>
      if !opRuns s o then .next s
      else
        let n := dbits o.desc 287 256
        let l := dbits o.desc 323 320
        let q := s.opReq o
        (match readAll q s [(dDst o.desc, 4 * n), (BitVec.ofNat 64 (dbits o.desc 191 128), 4 * n), (dSrc o.desc, 8 * 2 ^ l)] with
        | (s1, .fault f) => .next (opFault s1 o.agent o.tok.toNat f)
        | (s1, .later) => .next (s.waiting s1)
        | (s1, .ok [ks, vs, tb]) =>
          let ups := sortKeys ((elemsOf 4 ks).zip (elemsOf 4 vs))
          let tbl := tableSlots tb
          let r := haccApply comb.toNat vf l tbl o.start (ups.drop o.start)
          (match writeAll q s1 (writeSlots (dSrc o.desc) 0 tbl r.1) with
          | (s2, .ok _) => .next (haccFinish s2 o r.2)
          | (s2, .fault f) => .next (opFault s2 o.agent o.tok.toNat f)
          | (s2, .later) => .next (s.waiting s2))
        | _ => .next s)
    | _ => .next s

/-- The hash accumulator of a tile finishes a flush (R126). -/
def execHflushComplete (die tile : Nat) (s : State) : Host.Outcome State Fault Refusal :=
  match engineOp s die tile 2 with
  | none => .next s
  | some o =>
    match o.kind with
    | .hflush keep =>
      if !opRuns s o then .next s
      else
        let n := 8 * 2 ^ dbits o.desc 323 320
        let q := s.opReq o
        (match readGen s q (dSrc o.desc) n with
        | (s1, .fault f) => .next (opFault s1 o.agent o.tok.toNat f)
        | (s1, .later) => .next (s.waiting s1)
        | (s1, .ok tb) =>
          let l := sortKeys ((tableSlots tb).filter (fun x => x.1 != 0))
          (match writeAll q s1 ([(dDst o.desc, l.flatMap (fun x => leBytes 4 x.1)),
              (BitVec.ofNat 64 (dbits o.desc 191 128), l.flatMap (fun x => leBytes 4 x.2)),
              (BitVec.ofNat 64 (dbits o.desc 255 192), leBytes 8 l.length)] ++
              (if keep then [] else [(dSrc o.desc, List.replicate n 0)])) with
          | (s2, .ok _) => .next (opDone s2 o.agent o.tok.toNat)
          | (s2, .fault f) => .next (opFault s2 o.agent o.tok.toNat f)
          | (s2, .later) => .next (s.waiting s2)))
    | _ => .next s

end Sys2Proof.Machine
end

