-- ==== Sys2Proof/Machine/Record.lean ====
section
/-! DEFINITION. The block record (R231-R233): its header and tables, and the checks that BLOAD makes of it. -/

namespace Sys2Proof.Machine

/-- A broken rule of a record: the ILLEGAL detail, the index of the node or entry, the bit position of the field (R341). -/
abbrev RecBad := Nat × Nat × Nat

/-- The fault of a broken record (R233, R341). -/
def recFault (b : RecBad) : FaultInfo :=
  { flt clsIllegal b.1 with info0 := BitVec.ofNat 64 b.2.1, info1 := BitVec.ofNat 64 b.2.2 }

/-- One check of a record. -/
def recChk (b : Bool) (k i pos : Nat) : Option RecBad := if b then some (k, i, pos) else none

/-- The first broken check among numbered entries. -/
def firstBad {α : Type} (f : Nat → α → Option RecBad) : Nat → List α → Option RecBad
  | _, [] => none
  | i, x :: xs => f i x <|> firstBad f (i + 1) xs

/-! ## The header (R231) -/

/-- SIZE. -/
def hSize (h : Nat) : Nat := bitsOf h 479 448
/-- NODES, or image entries. -/
def hNodes (h : Nat) : Nat := bitsOf h 127 112
/-- LOOPD. -/
def hLoopd (h : Nat) : Nat := bitsOf h 150 148
/-- NSHAPE. -/
def hNshape (h : Nat) : Nat := bitsOf h 171 169
/-- IMG. -/
def hImg (h : Nat) : Bool := h.testBit 172

/-- The first broken field of a header (R231, R233 detail 0x17). -/
def headBad (h : Nat) : Option RecBad :=
  recChk (bitsOf h 95 64 != 0x4B424C31) 0x17 0 64 <|>
  recChk (bitsOf h 111 96 != 1) 0x17 0 96 <|>
  recChk (!hImg h && (hNodes h == 0 || decide (32768 < hNodes h))) 0x17 0 112 <|>
  recChk (h.testBit 138 && decide (bitsOf h 137 133 ≤ bitsOf h 132 128)) 0x17 0 133 <|>
  recChk (hLoopd h == 0 || decide (6 < hLoopd h)) 0x17 0 148 <|>
  recChk (decide (16 < bitsOf h 155 151)) 0x17 0 151 <|>
  recChk (decide (64 < bitsOf h 162 156)) 0x17 0 156 <|>
  recChk (decide (hLoopd h ≤ bitsOf h 165 163)) 0x17 0 163 <|>
  recChk (bitsOf h 168 167 == 3) 0x17 0 167 <|>
  recChk (decide (4 < hNshape h)) 0x17 0 169 <|>
  recChk (bitsOf h 175 173 != 0) 0x17 0 173 <|>
  recChk (bitsOf h 255 224 != 0) 0x17 0 224 <|>
  recChk (hSize h % 64 != 0 || hSize h == 0 || decide (2 ^ 24 < hSize h)) 0x17 0 448 <|>
  recChk (bitsOf h 511 480 != 0) 0x17 0 480

/-- The tables of a record as (offset, length, bit position of the offset in the header): shape, loop, binding, argument,
preload, edge, node or image. -/
def tablesOf (h : Nat) : List (Nat × Nat × Nat) :=
  [(64, 8 * hNshape h, 169), (bitsOf h 351 320, 8 * hLoopd h, 320), (bitsOf h 383 352, 16 * bitsOf h 155 151, 352),
   (bitsOf h 415 384, 4 * bitsOf h 162 156, 384), (bitsOf h 447 416, 16 * bitsOf h 223 208, 416),
   (bitsOf h 319 288, 8 * bitsOf h 207 192, 288),
   (bitsOf h 287 256, (if hImg h then 16 else 32) * hNodes h, 256)]

/-- A table that leaves the record or overlaps the header or an earlier table (R231). -/
def tableBad (size : Nat) : List (Nat × Nat × Nat) → List (Nat × Nat × Nat) → Option RecBad
  | _, [] => none
  | seen, t :: ts =>
    if t.2.1 = 0 then tableBad size seen ts
    else if size < t.1 + t.2.1 ∨ seen.any (fun u => decide (u.1 < t.1 + t.2.1) && decide (t.1 < u.1 + u.2.1)) then some (0x17, 0, t.2.2)
    else tableBad size (t :: seen) ts

/-! ## Entries (R232) -/

/-- A binding entry. -/
def bindingOf (e : Nat) : Binding :=
  { role := bitsOf e 67 64, fifo := bitsOf e 70 68, regB := BitVec.ofNat 5 (bitsOf e 75 71), regG := BitVec.ofNat 5 (bitsOf e 80 76)
    tlvl := bitsOf e 83 81, shp := bitsOf e 85 84, lwb := bitsOf e 87 86, edge := BitVec.ofNat 64 (bitsOf e 63 0) }
/-- A node entry. -/
def nodeOf (e : Nat) : Node :=
  { pin := bitsOf e 199 198, pcol := bitsOf e 197 193, prow := bitsOf e 192 188, cyc := bitsOf e 187 176
    pc := bitsOf e 175 160, pb := bitsOf e 159 144, pa := bitsOf e 143 128, word := BitVec.ofNat 128 (bitsOf e 127 0) }
/-- An edge entry. -/
def edgeOf (e : Nat) : Edge :=
  { opnd := bitsOf e 53 52, dist := bitsOf e 51 48, maxL := bitsOf e 47 40, minL := bitsOf e 39 32, dest := bitsOf e 31 16, orig := bitsOf e 15 0 }
/-- A preload entry. -/
def preloadOf (e : Nat) : Preload :=
  { stage := bitsOf e 110 106, line := bitsOf e 105 104, node := bitsOf e 103 88
    v := ⟨BitVec.ofNat 80 (bitsOf e 79 0), BitVec.ofNat 8 (bitsOf e 87 80)⟩ }
/-- An image entry. -/
def imageOf (e : Nat) : ImageEntry :=
  { crc := BitVec.ofNat 32 (bitsOf e 127 96), count := bitsOf e 95 64, offset := bitsOf e 63 32, quads := BitVec.ofNat 4 (bitsOf e 11 8), ltile := bitsOf e 3 0 }

/-- The loop entry of a level. -/
def loopOf (e : Nat) : LoopLevel := ⟨e.testBit 38, bitsOf e 37 32, bitsOf e 31 0⟩

/-- A RsvdZ bit or a field out of range in the entries of the loop, binding, argument, preload and edge tables, given as the bytes
of each (R232, R233 detail 0x17). -/
def entriesBad (nodes : Nat) (loops binds args pre edges : List Nat) : Option RecBad :=
  firstBad (fun i e => recChk (bitsOf e 63 39 != 0) 0x17 i 39) 0 loops <|>
  firstBad (fun i e => recChk (bitsOf e 127 88 != 0) 0x17 i 88) 0 binds <|>
  firstBad (fun i e => recChk (bitsOf e 31 22 != 0) 0x17 i 22 <|> recChk (decide (nodes ≤ bitsOf e 15 0)) 0x17 i 0) 0 args <|>
  firstBad (fun i e => recChk (bitsOf e 127 111 != 0) 0x17 i 111 <|> recChk (decide (16 < bitsOf e 110 106)) 0x17 i 106 <|>
    recChk (decide (nodes ≤ bitsOf e 103 88)) 0x17 i 88) 0 pre <|>
  firstBad (fun i e => recChk (bitsOf e 63 54 != 0) 0x17 i 54 <|> recChk (bitsOf e 53 52 == 3) 0x17 i 52) 0 edges

/-- The block of a header and the bytes of its tables; its nodes are filled in later. -/
def blockOf (h : Nat) (shapes loops binds args edges : List Nat) : Block :=
  { hash := BitVec.ofNat 64 (bitsOf h 63 0), ii := bitsOf h 132 128 + 1
    fbii := if h.testBit 138 then some (bitsOf h 137 133 + 1) else none
    stages := bitsOf h 143 139 + 1, qrows := bitsOf h 145 144 + 1, qcols := bitsOf h 147 146 + 1
    wpl := if h.testBit 166 then some (bitsOf h 165 163) else none
    opre := bitsOf h 447 416, npre := bitsOf h 223 208, greq := bitsOf h 168 167, img := hImg h
    hplen := (List.range 4).map (fun k => bitsOf h (176 + 4 * k + 3) (176 + 4 * k) + 1)
    shapes := shapes.map (BitVec.ofNat 64), loops := loops.map loopOf, binds := binds.map bindingOf
    args := args.map (fun e => (bitsOf e 21 16, bitsOf e 15 0)), edges := edges.map edgeOf }

/-! ## Bindings (R233 details 0x19 and 0x13) -/

/-- A binding breaks a rule of its own, or names a FIFO that an earlier one names. -/
def bindBad (b : Block) (i : Nat) (x : Binding) : Option RecBad :=
  let fifoRole (y : Binding) : Bool := y.role == 0 || y.role == 3
  recChk (decide (4 < x.role)) 0x19 i 64 <|>
  recChk (decide (b.loops.length ≤ x.tlvl)) 0x19 i 81 <|>
  recChk (x.role != 1 && x.role != 4 && x.edge != 0) 0x19 i 0 <|>
  recChk (fifoRole x && (b.binds.take i).any (fun y => fifoRole y && y.fifo == x.fifo)) 0x19 i 68 <|>
  recChk ((x.role == 1 || x.role == 2) && decide (b.shapes.length ≤ x.shp)) 0x13 i 84

/-- A row word reads or writes a FIFO that no binding gives it (R233). -/
def fifoBad (b : Block) (i : Nat) (w : RowWord) : Option RecBad :=
  let bound (role f : Nat) : Bool := b.binds.any (fun y => y.role == role && y.fifo == f)
  let fields := ([(rowReads w).1, (rowReads w).2.1, (rowReads w).2.2].zip [(rSA w, 108), (rSB w, 99), (rSC w, 90)]).filter (·.1)
  (fields.findSome? (fun f => recChk (f.2.1 / 64 == 5 && !bound 0 (f.2.1 % 8)) 0x19 i f.2.2)) <|>
  ((fifoDsts w false).findSome? (fun f => recChk (!bound 3 f) 0x19 i (if rDst w = 42 + f then 84 else 0)))

/-! ## Nodes and edges (R233 detail 0x18) -/

/-- The sources of a node: whether it is read, its field, its producer, its operand number, the field's bit position. -/
def nodeSources (n : Node) : List (Bool × Nat × Nat × Nat × Nat) :=
  let (ra, rb, rc) := rowReads n.word
  [(ra, rSA n.word, n.pa, 0, 108), (rb, rSB n.word, n.pb, 1, 99), (rc, rSC n.word, n.pc, 2, 90)]

/-- Whether a source of a node is one of class 000 that names a producer, so that its field is not read as an encoding. -/
def producedSrc (v prod : Nat) : Bool := v / 64 == 0 && prod != 0xFFFF

/-- A node's row word and its sources (R187, R232, R233). -/
def nodeBad (b : Block) (i : Nat) (n : Node) : Option RecBad :=
  let asked (v p : Nat) : Bool := !producedSrc v p
  ((rowFault b.shapes b.hplen (asked (rSA n.word) n.pa, asked (rSB n.word) n.pb, asked (rSC n.word) n.pc) n.word).map (fun f => (f.1, i, f.2))) <|>
  recChk (decide (b.stages * b.ii ≤ n.cyc)) 0x18 i 176 <|>
  ((nodeSources n).findSome? (fun (reads, v, p, k, pos) =>
    recChk (p != 0xFFFF && decide (b.nodes.length ≤ p)) 0x18 i (128 + 16 * k) <|>
    recChk (p != 0xFFFF && (match b.nodes[p]? with
      | some m => rDst m.word != 32 && rDst m.word != 33
      | none => false)) 0x18 i (128 + 16 * k) <|>
    recChk (reads && producedSrc v p && (v % 64 != 0 || !b.edges.any (fun e => e.orig == p && e.dest == i && e.opnd == k))) 0x18 i pos <|>
    recChk (reads && v / 64 == 0 && p == 0xFFFF && v != 6 && v != 7) 0x18 i pos)) <|>
  recChk (n.pin == 3 && (b.nodes.take i).any (fun m => m.pin == 3 && m.pcol == n.pcol && m.prow == n.prow && m.cyc % b.ii == n.cyc % b.ii)) 0x18 i 188

/-- Δ of an edge (R235). -/
def edgeDelta (ii : Nat) (e : Edge) (f t : Node) : Int :=
  (t.cyc : Int) + ii * e.dist - (f.cyc + rowLatency f.word)

/-- The source field of an operand of a row word. -/
def opndField (w : RowWord) (k : Nat) : Nat := if k = 0 then rSA w else if k = 1 then rSB w else rSC w

/-- An edge breaks a rule (R233): `n` nodes, and those of them that are known. -/
def edgeBad (b : Block) (n : Nat) (i : Nat) (e : Edge) : Option RecBad :=
  recChk (decide (n ≤ e.orig)) 0x18 i 0 <|>
  recChk (decide (n ≤ e.dest)) 0x18 i 16 <|>
  recChk (decide (e.maxL < e.minL)) 0x18 i 40 <|>
  (match b.nodes[e.orig]?, b.nodes[e.dest]? with
  | some f, some t =>
    let cls := opndField t.word e.opnd / 64
    recChk (decide (edgeDelta b.ii e f t < 0)) 0x18 i 48 <|>
    recChk (decide (0 < e.minL) && (cls == 1 || cls == 2 || cls == 6)) 0x18 i 32
  | _, _ => none)

/-- The checks that a record's nodes and edges take (R233). -/
def graphBad (b : Block) : Option RecBad :=
  firstBad (nodeBad b) 0 b.nodes <|> firstBad (edgeBad b b.nodes.length) 0 b.edges <|>
  firstBad (fun i n => fifoBad b i n.word) 0 b.nodes

/-- The checks of the placed words of an image that takes the place of a record's row words (R239, R240). -/
def imageBad (b : Block) (ws : List PlacedWord) : Option RecBad :=
  firstBad (fun i p => (rowFault b.shapes b.hplen (true, true, true) p.word).map (fun f => (f.1, (p.node).getD i, f.2))) 0 ws <|>
  firstBad (fun i p => fifoBad b ((p.node).getD i) p.word) 0 ws

/-! ## Reading a record -/

/-- Read a record's tables but for its node or image table, and check them (R233, R239). -/
def readTables (s : State) (q : Req) (addr : Word) (h : Nat) : State × Try (Except RecBad Block) :=
  match headBad h <|> tableBad (hSize h) [(0, 64, 0)] (tablesOf h) with
  | some b => (s, .ok (.error b))
  | none =>
    match readAll q s (((tablesOf h).take 6).map (fun t => (addr + BitVec.ofNat 64 t.1, t.2.1))) with
    | (s, .fault f) => (s, .fault f)
    | (s, .later) => (s, .later)
    | (s, .ok ts) =>
      let tab (k n : Nat) : List Nat := elemsOf n ((ts[k]?).getD [])
      let b := blockOf h (tab 0 8) (tab 1 8) (tab 2 16) (tab 3 4) (tab 5 8)
      let nodes := if hImg h then 32768 else hNodes h
      (s, .ok (match firstBad (fun i f => recChk (fusingBad f) 0x16 i 0) 0 b.shapes <|>
          entriesBad nodes (tab 1 8) (tab 2 16) (tab 3 4) (tab 4 16) (tab 5 8) <|> firstBad (bindBad b) 0 b.binds with
        | some e => .error e
        | none => .ok b))

/-- Read a record's node table, and check it and the edges with it (R233). -/
def readNodes (s : State) (q : Req) (addr : Word) (h : Nat) (b : Block) : State × Try (Except RecBad Block) :=
  match readGen s q (addr + BitVec.ofNat 64 (bitsOf h 287 256)) (32 * hNodes h) with
  | (s, .fault f) => (s, .fault f)
  | (s, .later) => (s, .later)
  | (s, .ok bs) =>
    let es := elemsOf 32 bs
    let b := { b with nodes := es.map nodeOf }
    (s, .ok (match firstBad (fun i e => recChk (bitsOf e 255 200 != 0) 0x17 i 200) 0 es <|> graphBad b with
      | some e => .error e
      | none => .ok b))

end Sys2Proof.Machine
end

