-- ==== Sys2Proof/Machine/Mapper.lean ====
section
/-! DEFINITION. The mapper and the map cache (R235, R238-R240): which placements of a block are a mapping, the cache of a die, and
pre-routed images. -/

namespace Sys2Proof.Machine

/-! ## What a mapping is (R235, R238) -/

/-- A word's issue cycle in iteration 0. -/
def cycOf (ii : Nat) (p : PlacedWord) : Nat := p.stage * ii + p.ctx

/-- The key of a placed word's element and context. -/
def wordKey (p : PlacedWord) : Nat := (p.row * 64 + p.col) * 32 + p.ctx

/-- Whether all values of a list differ. -/
def allDiffer : List Nat → Bool
  | [] => true
  | x :: xs => !xs.any (· == x) && allDiffer xs

/-- The placed word of a node. -/
def placedNode (ws : List PlacedWord) (n : Nat) : Option PlacedWord := ws.find? (fun p => p.node == some n)

/-- The latencies with which a row word writes output latch k (R194, R200, R227). -/
def latchWrites (w : RowWord) (k : Nat) : List Nat :=
  let two := rOp w = 0x02 ∨ rOp w = 0x60 ∨ rOp w = 0x61
  (if rDst w = 32 + k then [rowLatency w] else []) ++ (if two ∧ xbits w 5 0 = 32 + k then [rowLatency w] else []) ++
  (if isDot w ∧ (rAcc w % 4 = 2 + k ∨ (rOp w = 0x11 ∧ rAcc w / 4 = 2 + k)) then [1] else [])

/-- When a writer that lands first at `t0` and again every `ii` cycles last lands at or before `t`. -/
def lastLanding (ii : Nat) (t0 t : Int) : Int := t0 + (t - t0) / ii * ii

/-- A write that a read sees: the word, when its result became visible, its latency, and the DST that it wrote. -/
structure Seen where
  p   : PlacedWord
  at_ : Int
  lat : Nat
  dst : Nat

/-- The last write of latch k of an element visible at cycle t; none when two coincide (R160, R164). -/
def latchSeen (ii : Nat) (ws : List PlacedWord) (row col k : Nat) (t : Int) : Option Seen :=
  let all := (ws.filter (fun p => p.row == row && p.col == col)).flatMap (fun p =>
    (latchWrites p.word k).map (fun (l : Nat) => Seen.mk p (lastLanding ii ((cycOf ii p : Int) + l) t) l (32 + k)))
  let best := all.foldl (fun m x => match m with
    | none => some x
    | some (y : Seen) => if y.at_ < x.at_ then some x else some y) none
  match best with
  | none => none
  | some x => if (all.filter (fun y => y.at_ == x.at_)).length = 1 then some x else none

/-- The iteration of a cycle. -/
def iterOf (ii : Nat) (t : Int) : Int := t / ii

/-- The write that a read of carousel slot v of an element at cycle t sees: the physical slot agrees and the value lives (R166). -/
def carSeen (ii : Nat) (ws : List PlacedWord) (row col v : Nat) (t : Int) : Option Seen :=
  (ws.filter (fun p => p.row == row && p.col == col && decide (rDst p.word < 32))).findSome? (fun p =>
    let l := rowLatency p.word
    let t0 : Int := (cycOf ii p : Int) + l
    ((List.range (rLife p.word / ii + 1)).map (fun (k : Nat) => lastLanding ii t0 t - (k * ii : Nat))).findSome? (fun a =>
      if t < a + rLife p.word ∧ ((rDst p.word : Int) + iterOf ii (a - l)) % 32 = ((v : Int) + iterOf ii t) % 32 then some ⟨p, a, l, rDst p.word⟩ else none))

/-- The write that a source of an element sees at cycle t: a latch of a neighbour or its own, or a carousel slot. -/
def srcSeen (ii : Nat) (ws : List PlacedWord) (row col v : Nat) (t : Int) : Option Seen :=
  match v / 64 with
  | 0 =>
    (match neighbour row col (v % 64 / 2) with
    | none => none
    | some (i, j) => latchSeen ii ws i j (v % 2) t)
  | 1 => carSeen ii ws row col (v % 64) t
  | 6 => latchSeen ii ws row col (v % 64 % 2) t
  | _ => none

/-- Follow a source back through relays to the node that made the value, in the latch that its DST names (R232): the node, the cycle at which its
result became visible, and the relays passed, by element and context. A relay works in the producer's iteration, the consumer's, or one
between them. -/
def traceBack (ii dist : Nat) (ws : List PlacedWord) : Nat → Nat → Nat → Nat → Int → Option (Nat × Int × List Nat)
  | 0, _, _, _, _ => none
  | fuel + 1, row, col, v, t =>
    match srcSeen ii ws row col v t with
    | none => none
    | some x =>
      match x.p.node with
      | some n => if x.dst = rDst x.p.word then some (n, x.at_, []) else none
      | none =>
        let k := (x.at_ - x.lat - cycOf ii x.p) / (ii : Int)
        if 0 < k ∨ k < -(dist : Int) then none
        else (traceBack ii dist ws fuel x.p.row x.p.col (rSA x.p.word) (x.at_ - x.lat)).map (fun e => (e.1, e.2.1, wordKey x.p :: e.2.2))

/-- The way that a mapping gives the value of an edge's operand to its consumer. -/
def edgeTrace (img : MapImage) (e : Edge) (pt : PlacedWord) : Option (Nat × Int × List Nat) :=
  traceBack img.ii e.dist img.words (e.maxL + 2) pt.row pt.col (opndField pt.word e.opnd) (cycOf img.ii pt)

/-- Whether an edge's operand is a class-000 source that names the edge's producer (R232). -/
def edgeRouted (n : Node) (e : Edge) : Bool :=
  let prod := if e.opnd = 0 then n.pa else if e.opnd = 1 then n.pb else n.pc
  producedSrc (opndField n.word e.opnd) prod && prod == e.orig

/-- Whether a mapping realises an edge (R235). One whose operand the record gives as a carousel slot, a tap or a latch of its own element has both
nodes there, and no relay's word in the latch that it reads. -/
def edgeMet (b : Block) (img : MapImage) (e : Edge) : Bool :=
  match b.nodes[e.dest]?, placedNode img.words e.dest, placedNode img.words e.orig with
  | some n, some pt, some pf =>
    let field := opndField n.word e.opnd
    let cls := field / 64
    if cls = 1 ∨ cls = 2 ∨ cls = 6 then
      pt.row == pf.row && pt.col == pf.col &&
      (cls != 6 || (match srcSeen img.ii img.words pt.row pt.col field (cycOf img.ii pt) with
        | some x => x.p.node.isSome
        | none => true))
    else if edgeRouted n e then
      match edgeTrace img e pt with
      | none => false
      | some (m, a, rs) =>
        m == e.orig && a == (cycOf img.ii pf : Int) + rowLatency pf.word - (img.ii * e.dist : Nat) &&
        decide (e.minL ≤ rs.length) && decide (rs.length ≤ e.maxL) && decide ((rs.length : Int) ≤ cycOf img.ii pt - a)
    else true
  | _, _, _ => false

/-- The relays that serve an edge of a block. -/
def edgeRelays (b : Block) (img : MapImage) (e : Edge) : List Nat :=
  match b.nodes[e.dest]?, placedNode img.words e.dest with
  | some n, some pt => if edgeRouted n e then ((edgeTrace img e pt).map (·.2.2)).getD [] else []
  | _, _ => []

/-- Whether two words of an element, one a relay, ever write one latch in one cycle, or a live carousel slot. A slot goes with the counter
iteration of the issue, whatever the word's stage (R166). -/
def wordsClash (ii : Nat) (p q : PlacedWord) : Bool :=
  let lat (x : PlacedWord) : Int := (x.ctx : Int) + rowLatency x.word
  (p.node.isNone || q.node.isNone) && p.row == q.row && p.col == q.col &&
  ((wordKey p != wordKey q &&
      [0, 1].any (fun k => (latchWrites p.word k).any (fun l => (latchWrites q.word k).any (fun m =>
        ((cycOf ii p : Int) + l - (cycOf ii q + m)) % ii == 0)))) ||
    (decide (rDst p.word < 32) && decide (rDst q.word < 32) && rOp p.word != 0 && rOp q.word != 0 &&
      (List.range 12).any (fun m =>
        let k : Int := (rDst p.word : Int) - rDst q.word + 32 * ((m : Int) - 6)
        let d : Int := lat q + k * ii - lat p
        !(k == 0 && wordKey p == wordKey q) && decide (0 ≤ d) && decide (d < max 1 (rLife p.word)))))

/-- Carousel slots that a row word names. -/
def slotsNamed (w : RowWord) : List Nat :=
  (if rDst w < 32 ∧ rOp w ≠ 0 then [rDst w] else []) ++ ((readFields w).filter (fun v => v / 64 == 1)).map (· % 64)

/-- A row word with its source fields cleared where a producer is named. -/
def maskSources (n : Node) (w : RowWord) : RowWord :=
  let clr (b : Bool) (lo : Nat) (w : Nat) : Nat := if b then w - bitsOf w (lo + 8) lo * 2 ^ lo else w
  let (ra, rb, rc) := rowReads n.word
  BitVec.ofNat 128 (clr (rc && producedSrc (rSC n.word) n.pc) 90 (clr (rb && producedSrc (rSB n.word) n.pb) 99 (clr (ra && producedSrc (rSA n.word) n.pa) 108 w.toNat)))

/-- Whether a source that the mapper has filled in reads a latch or a carousel slot (R232, R235). -/
def filledSrc (n : Node) (p : PlacedWord) : Bool :=
  (nodeSources n).all (fun (reads, v, prod, k, _) =>
    !(reads && producedSrc v prod) ||
    (let f := opndField p.word k
     let d := f % 64
     (f / 64 == 0 && decide (d < 8)) || (f / 64 == 1 && decide (d < 32)) || (f / 64 == 6 && decide (d < 2))))

/-- The constraints on where a node stands (R232, R238). -/
def pinMet (rows : Nat) (n : Node) (p : PlacedWord) : Bool :=
  let west := (nodeSources n).any (fun (reads, v, prod, _, _) => reads && v / 64 == 0 && prod == 0xFFFF)
  (!west || p.col == 0) &&
  (match n.pin with
  | 0 => true
  | 1 => p.col == 0
  | 2 => p.row + 1 == rows
  | _ => p.col == n.pcol && p.row == n.prow)

/-- A node as the mapper has placed it. -/
def nodeMet (b : Block) (rows : Nat) (img : MapImage) (i : Nat) (n : Node) : Bool :=
  match img.words.filter (fun p => p.node == some i) with
  | [p] => cycOf img.ii p == n.cyc && pinMet rows n p && maskSources n p.word == maskSources n n.word && filledSrc n p &&
      (rowFault b.shapes b.hplen (true, true, true) p.word).isNone
  | _ => false

/-- A relay (R235): a MOV without hold, of a neighbour's or the element's own latch or carousel slot, to a latch or to a slot that no
node of the element names. -/
def relayMet (ws : List PlacedWord) (p : PlacedWord) : Bool :=
  let cls := rSA p.word / 64
  rOp p.word == 1 && rHold p.word == 0 && (rowFault [] [1, 1, 1, 1] (true, true, true) p.word).isNone &&
  (cls == 0 || cls == 1 || cls == 6) && decide (rDst p.word ≤ 33) &&
  (decide (31 < rDst p.word) ||
    !(ws.any (fun x => x.node.isSome && x.row == p.row && x.col == p.col && (slotsNamed x.word).any (· == rDst p.word))))

/-- Whether an image is a mapping of a validated block on a region of a number of rows and columns (R235, R238): every relay carries some edge's
value, and disturbs no other word. -/
def isMapping (b : Block) (rows cols : Nat) (img : MapImage) : Bool :=
  (if img.fb then decide (b.fbii = some img.ii) else img.ii == b.ii) &&
  img.words.all (fun p => decide (p.row < rows) && decide (p.col < cols) && decide (p.ctx < img.ii) &&
    (match p.node with
    | none => relayMet img.words p && b.edges.any (fun e => (edgeRelays b img e).any (· == wordKey p))
    | some n => decide (n < b.nodes.length))) &&
  allDiffer (img.words.map wordKey) &&
  img.relays == (img.words.filter (fun p => p.node.isNone)).length &&
  ((List.range b.nodes.length).zip b.nodes).all (fun x => nodeMet b rows img x.1 x.2) &&
  b.edges.all (edgeMet b img) &&
  img.words.all (fun p => img.words.all (fun q => !wordsClash img.ii p q))

/-- The number of values of a placed word's stage, node and row word, and none. -/
def placeBase (b : Block) : Nat := 1 + 2 ^ 12 * (b.nodes.length + 1) * 2 ^ 128

/-- The placed word that a number gives at an element and context. -/
def placeOfNat (row col ctx n : Nat) : Option PlacedWord :=
  if n = 0 then none
  else
    let k := (n - 1) / 2 ^ 128
    some ⟨row, col, ctx, k % 2 ^ 12, (if k / 2 ^ 12 = 0 then none else some (k / 2 ^ 12 - 1)), BitVec.ofNat 128 ((n - 1) % 2 ^ 128)⟩

/-- The images of a block on a region by number: a digit for each element and context. -/
def imageNo (b : Block) (rows cols : Nat) (fb : Bool) (n : Nat) : MapImage :=
  let ii := if fb then b.fbii.getD b.ii else b.ii
  let ws := (List.range (rows * cols * ii)).filterMap (fun i =>
    placeOfNat (i / ii / cols) (i / ii % cols) (i % ii) (n / placeBase b ^ i % placeBase b))
  ⟨ii, fb, (ws.filter (fun p => p.node.isNone)).length, ws⟩

/-- Whether a block has a mapping at its II, or at its fallback II (R238): some image is one. -/
def mappable (b : Block) (rows cols : Nat) (fb : Bool) : Bool :=
  decide (∃ n < placeBase b ^ (rows * cols * (if fb then b.fbii.getD b.ii else b.ii)), isMapping b rows cols (imageNo b rows cols fb n) = true)

/-- Whether the mapper may answer a result: a mapping at II, one at the fallback II when none exists at II, or a failure when none exists at either
(R238, R240). -/
def mayAnswer (b : Block) (rows cols : Nat) : Option MapImage → Bool
  | some img => isMapping b rows cols img && (!img.fb || !mappable b rows cols false)
  | none => !mappable b rows cols false && (b.fbii.isNone || !mappable b rows cols true)

/-- The answer that the mapper has already given for a block and a shape of region (R238). -/
def answerOf (s : State) (b : Block) (x : Region) : Option MapAnswer :=
  s.mapped.find? (fun e => decide (e.block = b) && e.qrows == x.qrows && e.qcols == x.qcols)

/-! ## Order of a list of placed words -/

/-- Insert a word by element and context. -/
def insertWord (p : PlacedWord) : List PlacedWord → List PlacedWord
  | [] => [p]
  | x :: xs => if wordKey p ≤ wordKey x then p :: x :: xs else x :: insertWord p xs
/-- Placed words in ascending row, column and context. -/
def sortWords (ws : List PlacedWord) : List PlacedWord := ws.foldl (fun acc p => insertWord p acc) []

/-! ## The map cache (R239) -/

/-- The image that the cache of a die holds for a block and a region, if its key matches. -/
def cacheFind (y : Die) (b : Block) (x : Region) : Option MapEntry :=
  y.cache.find? (fun e => e.hash == b.hash && e.qrows == x.qrows && e.qcols == x.qcols && e.fails == [] && e.dmver == y.dmver.toNat)

/-- The entry becomes the most recently used; the least recently used of 513 is evicted. -/
def cacheTouch (s : State) (d : Nat) (e : MapEntry) : State :=
  s.modDie d (fun y => { y with cache := (e :: y.cache.filter (fun z => z != e)).take Config.mapCacheImages })

/-- The entry of an image mapped for a region. -/
def cacheEntry (y : Die) (b : Block) (x : Region) (img : MapImage) : MapEntry := ⟨b.hash, x.qrows, x.qcols, [], y.dmver.toNat, img, b.nodes⟩

/-! ## Filling a slot -/

/-- An install slot is filled, and MAPINFO notes how (R241, R247); the block of a transformed copy stands in slot 4 on its way to the region, and
is no BLOAD for MAPINFO (see xformBlock). -/
def fillSlot (s : State) (r : RegionId) (k : Nat) (b : Block) (img : MapImage) (addr : Word) (hit : Bool) : State :=
  s.modRegion r (fun x => { x with
    slots := tset x.slots k ⟨b, img, addr⟩, mapping := none, hit := hit, mapFb := img.fb, relays := img.relays })

/-- Whether a region is smaller than a block's minimum (R240). -/
def tooSmall (b : Block) (x : Region) : Bool := decide (x.qrows < b.qrows) || decide (x.qcols < b.qcols)

/-! ## Pre-routed images (R240) -/

/-- One bit of CRC-32C, reflected. -/
def crcBit (c : BitVec 32) : BitVec 32 := if c.getLsbD 0 then (c >>> 1) ^^^ 0x82F63B78#32 else c >>> 1
/-- One byte of CRC-32C. -/
def crcByte (c : BitVec 32) (b : Byte) : BitVec 32 :=
  (List.range 8).foldl (fun c _ => crcBit c) (c ^^^ b.zeroExtend 32)
/-- CRC-32C of bytes. -/
def crc32c (bs : List Byte) : BitVec 32 := ~~~(bs.foldl crcByte (BitVec.allOnes 32))

/-- Quads of a region on its strand's tile as a mask; none when it spans tiles. -/
def quadMask (t : Nat) (x : Region) : Option (BitVec 4) :=
  if x.quads.all (fun e => e.1 == t) then some (x.quads.foldl (fun m e => m ||| (1#4 <<< e.2)) 0) else none

/-- The quads of a mask, ascending. -/
def maskQuads (m : BitVec 4) : List Nat := (List.range 4).filter (fun i => m.getLsbD i)

/-- The place in a region of element e of the k-th of its quads, ascending (R240). -/
def imagePlace (x : Region) (k e : Nat) : Nat × Nat := (k / x.qcols * 8 + e / 8, k % x.qcols * 8 + e % 8)

/-- The placed words of an image entry: every word works in stage 0 (DESIGN CHOICE, log entry 61). -/
def imageWords (x : Region) (ii : Nat) (bs : List Byte) : List PlacedWord :=
  let ws := elemsOf 16 bs
  ((List.range ws.length).zip ws).filterMap (fun (n, w) =>
    let (row, col) := imagePlace x (n / ii / 64) (n / ii % 64)
    if w = 0 then none else some ⟨row, col, n % ii, 0, some n, BitVec.ofNat 128 w⟩)

/-- The image entry of a logical tile (R240). -/
def imageEntry (es : List ImageEntry) (ltile : Nat) : Option ImageEntry := es.find? (fun e => e.ltile == ltile % 16)

/-- Install a strand's entry of a pre-routed image (R240). -/
def loadImage (s : State) (r : RegionId) (q : Req) (k : Nat) (addr : Word) (h : Nat) (b : Block) (x : Region) : State × Try (Except FaultInfo State) :=
  match (if hNodes h = 0 then (s, .ok []) else readGen s q (addr + BitVec.ofNat 64 (bitsOf h 287 256)) (16 * hNodes h)) with
  | (s, .fault f) => (s, .fault f)
  | (s, .later) => (s, .later)
  | (s, .ok bs) =>
    let es := elemsOf 16 bs
    let bad (f : FaultInfo) : State × Try (Except FaultInfo State) := (s, .ok (.error f))
    match firstBad (fun i e => recChk (bitsOf e 31 12 != 0 || bitsOf e 7 4 != 0) 0x17 i 4) 0 es with
    | some e => bad (recFault e)
    | none =>
    match firstBad (edgeBad b 32768) 0 b.edges with
    | some e => bad (recFault e)
    | none =>
      if tooSmall b x then bad (flt clsMap 2)
      else
        match imageEntry (es.map imageOf) (s.ctx r.strand).ltile with
        | none => bad (flt clsMap 3)
        | some e =>
          if quadMask r.tile x ≠ some e.quads then bad (flt clsMap 3)
          else if e.count ≠ (maskQuads e.quads).length * 64 * b.ii ∨ hSize h < 16 * (e.offset + e.count) then bad (recFault (0x17, 0, 64))
          else
            match readGen s q (addr + BitVec.ofNat 64 (16 * e.offset)) (16 * e.count) with
            | (s, .fault f) => (s, .fault f)
            | (s, .later) => (s, .later)
            | (s, .ok ws) =>
              if crc32c ws ≠ e.crc then (s, .ok (.error (flt clsMap 4)))
              else
                let ps := imageWords x b.ii ws
                (s, .ok (match imageBad b ps with
                  | some f => .error (recFault f)
                  | none => .ok (fillSlot s r k b ⟨b.ii, false, 0, sortWords ps⟩ addr false)))

end Sys2Proof.Machine
end

