-- ==== Sys2Proof/Machine/Blocks.lean ====
section
/-! DEFINITION. The block sequencer: BLOAD, BRUN, BSWAP, BARG, BDRAIN, BSTAT, BKILL, REFORM, and the steps of a run
(R236, R237, R241-R247). -/

namespace Sys2Proof.Machine

/-! ## BLOAD (R246) -/

/-- TOKEN detail 0x05: an instruction that needs a region on a strand that has none (R330). -/
def noRegion : FaultInfo := flt clsToken 5

/-- Whether an install slot is held by the active or the pending run. -/
def slotHeld (x : Region) (k : Nat) : Bool :=
  (x.run.toList ++ x.pend.toList).any (fun u => u.stages.any (fun st => st.slot == k))

/-- Look for a block's mapping: the map cache, else the mapper, for which the region waits (R239, R241). -/
def lookUp (s : State) (r : RegionId) (q : Req) (k : Nat) (addr : Word) (h : Nat) (b : Block) (x : Region) :
    State × Try (Except FaultInfo (State × Option MapImage)) :=
  match cacheFind (s.die r.die) b x with
  | some e =>
    (match graphBad { b with nodes := e.nodes } <|> imageBad b e.image.words with
    | some f => (s, .ok (.error (recFault f)))
    | none => if tooSmall b x then (s, .ok (.error (flt clsMap 2))) else (s, .ok (.ok (cacheTouch s r.die e, some e.image))))
  | none =>
    match readNodes s q addr h b with
    | (s, .fault f) => (s, .fault f)
    | (s, .later) => (s, .later)
    | (s, .ok (.error f)) => (s, .ok (.error (recFault f)))
    | (s, .ok (.ok b)) =>
      if tooSmall b x then (s, .ok (.error (flt clsMap 2)))
      else (s, .ok (.ok (s.modRegion r (fun y => { y with mapping := some { slot := k, block := b, addr := addr } }), none)))

/-- The record at an address, up to the search for its mapping. -/
def readRecord (s : State) (q : Req) (addr : Word) : State × Try (Except FaultInfo (Nat × Block)) :=
  match readGen s q addr 64 with
  | (s, .fault f) => (s, .fault f)
  | (s, .later) => (s, .later)
  | (s, .ok bs) =>
    let h := leNat bs
    match readTables s q addr h with
    | (s, .fault f) => (s, .fault f)
    | (s, .later) => (s, .later)
    | (s, .ok (.error f)) => (s, .ok (.error (recFault f)))
    | (s, .ok (.ok b)) => (s, .ok (.ok (h, b)))

/-- BLOAD into slot k of a region (R246). -/
def bloadAt (r : RegionId) (x : Region) (k : Nat) (addr : Word) (s0 : State) (u : Agent) : Res :=
  let q := s0.req u
  match readRecord s0 q addr with
  | (s, .fault f) => .fault s f
  | (s, .later) => .wait (s0.waiting s)
  | (s, .ok (.error f)) => .fault s f
  | (s, .ok (.ok (h, b))) =>
    if b.img then
      (match loadImage s r q k addr h b x with
      | (s, .fault f) => .fault s f
      | (s, .later) => .wait (s0.waiting s)
      | (s, .ok (.error f)) => .fault s f
      | (_, .ok (.ok s)) => .ok s)
    else
      match lookUp s r q k addr h b x with
      | (s, .fault f) => .fault s f
      | (s, .later) => .wait (s0.waiting s)
      | (s, .ok (.error f)) => .fault s f
      | (_, .ok (.ok (s, some img))) => .ok (fillSlot s r k b img addr true)
      | (_, .ok (.ok (s, none))) => .wait (s.stallOn u .mapper)

/-- BLOAD (R246). It stalls while the region is lent (R241), before its checks (DESIGN CHOICE, log entry 127). -/
def execBload (g : Guard) (k : BitVec 2) (a : SReg) (off : BitVec 29) (s : State) : Host.Outcome State Fault Refusal :=
  runStrand g s (fun s u =>
    let addr := baseOff (s.ctx u) a off
    match ownRegion s u with
    | none => .fault s noRegion
    | some r =>
      match s.region r with
      | none => .fault s noRegion
      | some x =>
        if x.lent.isSome then .wait s
        else if !aligned addr 64 then .fault s (flt clsAlign 1 addr)
        else if slotHeld x k.toNat then .fault s (flt clsIllegal 0x38)
        else bloadAt r x k.toNat addr s u)

/-! ## Stages and the checks of BRUN (R141, R142, R236, R246) -/

/-- The trips of a block's levels with a region's argument file (R232, R234). -/
def tripsOf (x : Region) (b : Block) : List Nat :=
  b.loops.map (fun l => if l.fromArg then (tget x.args l.argn 0).toNat else l.trips)

/-- The stage count in use (R238). -/
def stageCount (i : Install) : Nat :=
  if i.image.fb then (i.image.words.filter (fun p => p.node.isSome)).foldl (fun m p => max m (p.stage + 1)) 1 else i.block.stages

/-- A stage of a run of an installed block, with its views sampled from a strand's registers (R236). -/
def newStage (c : Ctx) (x : Region) (k : Nat) (i : Install) : Stage :=
  { slot := k, inst := i, ii := i.image.ii, stg := stageCount i, trips := tripsOf x i.block
    views := i.block.binds.map (fun b => (c.getS b.regB, c.getS b.regG)) }

/-- The most values per iteration that one of the first n encode ports takes: two for each word written to o0 of its south-row element. -/
def southValues (x : Region) (st : Stage) (n : Nat) : Nat :=
  ((List.range (min n x.ncols)).map (fun c =>
    ((st.inst.image.words.filter (fun p => p.row + 1 == x.nrows && p.col == c)).map (fun p => 2 * o0Writes p.word)).foldl (· + ·) 0)).foldl max 0

/-- The check of one binding's edge control word and view (R82, R142): the edge control word first, and of several bindings that fail the first in
the record reports (see runIssueFault). R82 gives no order (DESIGN CHOICE, log entry 135). -/
def bindingFault (s : State) (q : Req) (x : Region) (st : Stage) (b : Binding) (v : Word × Word) : Option FaultInfo :=
  let ecw := if b.role = 1 ∨ b.role = 4 then ecwFault b.role b.edge else none
  match ecw with
  | some k => some (flt clsIllegal k)
  | none =>
    match b.role with
    | 1 => viewFault s q v (st.steps b.tlvl) (min (gRows v.2) x.nrows) (8 * eLines b.edge)
    | 2 => viewFault s q v (st.steps b.tlvl) x.ncols (8 * x.nrows)
    | 4 => viewFault s q v (ceilDiv (southValues x st (gRows v.2) * st.t) (eK b.edge)) (min (gRows v.2) x.ncols) (8 * eLines b.edge)
    | _ => none

/-- The bindings of a stage with their views. -/
def boundViews (st : Stage) : List (Binding × (Word × Word)) := st.inst.block.binds.zip st.views

/-- The rows or columns that a decode (role 1) or encode (role 4) binding gives ports. -/
def portSpan (st : Stage) (role n : Nat) : Nat :=
  ((boundViews st).filter (fun e => e.1.role == role)).foldl (fun m e => max m (min (gRows e.2.2) n)) 0

/-- The ports that a run uses, each by its tile and its number: decode ports 0 to 15, encode ports from 16 (R141). -/
def portsOf (x : Region) (u : Run) : List Nat :=
  let quad (n : Nat) : Nat × Nat := (x.quads[n]?).getD (0, 0)
  u.stages.flatMap (fun st =>
    (List.range (portSpan st 1 x.nrows)).map (fun i =>
      let (t, q) := quad (i / 8 * x.qcols)
      t * 32 + q / 2 * 8 + i % 8) ++
    (List.range (portSpan st 4 x.ncols)).map (fun c =>
      let (t, q) := quad ((x.qrows - 1) * x.qcols + c / 8)
      t * 32 + 16 + q % 2 * 8 + c % 8))

/-- Whether a run's ports are held by the active run of another region of the die (R141). -/
def portsTaken (s : State) (r : RegionId) (x : Region) (u : Run) : Bool :=
  let mine := portsOf x u
  s.regions.any (fun e => e.1 != regKey r && e.1 / 576 == r.die &&
    (match e.2.run with
    | none => false
    | some v => !v.ended && (portsOf e.2 v).any (fun p => mine.any (· == p))))

/-- The FIFOs that a run binds with a role, stage by stage. -/
def runFifos (u : Run) (role : Nat) : List Nat := u.stages.flatMap (fun st => (bindsOf st role).map (·.2.fifo))

/-- Whether a run would give a FIFO a second consumer or producer; the roles of the region's own active run do not count (R116). -/
def fifosTaken (x : Region) (u : Run) : Bool :=
  let other (c : Option Claim) : Bool := c.isSome && c != some .run
  (runFifos u 0).any (fun f => other (x.fifo f).consumer) || (runFifos u 3).any (fun f => other (x.fifo f).producer) ||
  !allDiffer (runFifos u 0) || !allDiffer (runFifos u 3)

/-- A block's gear requirement against a gear (R231, R241). -/
def gearBad (greq : Nat) (gear : Bool) : Bool := (greq == 1 && !gear) || (greq == 2 && gear)

/-- The checks that BRUN and BSWAP make of the run they would issue. -/
def runIssueFault (s : State) (r : RegionId) (q : Req) (x : Region) (u : Run) : Option FaultInfo :=
  (if u.stages.any (fun st => gearBad st.inst.block.greq (s.tile r.die r.tile).gear) then some (flt clsGear 0x20) else none) <|>
  (u.stages.findSome? (fun st => (boundViews st).findSome? (fun e => bindingFault s q x st e.1 e.2))) <|>
  (if portsTaken s r x u then some (flt clsIllegal 0x35) else none) <|>
  (if fifosTaken x u then some (flt clsIllegal 0x33) else none)

/-- The run of some install slots that an agent issues. -/
def newRun (s : State) (u : Agent) (scope : ScopeCode) (t : TokIx) (shared : Bool) (stages : List Stage) : Run :=
  let c := s.ctx u
  { tok := t, scope := scope, shared := shared, stages := stages, apTile := c.apTile, apClus := c.apClus, apDie := c.apDie }

/-- The mould of BRUN and BSWAP: the slots run on a token (R241, R244, R246). While the region is lent they stall (R100), before the other
checks (DESIGN CHOICE, log entry 127). -/
def runMould (scope : ScopeCode) (t : TokIx) (shared : Bool) (ks : List Nat) (s : State) (u : Agent) : Res :=
  match ownRegion s u with
  | none => .fault s noRegion
  | some r =>
    match s.region r with
    | none => .fault s noRegion
    | some x =>
      if x.lent.isSome then .wait s
      else
        match tokenCheck s u t.toNat with
        | some f => .fault s f
        | none =>
          match ks.mapM (fun k => tfind x.slots k) with
          | none => .fault s (flt clsIllegal 0x38)
          | some is =>
            let stages := (ks.zip is).map (fun e => newStage (s.ctx u) x e.1 e.2)
            let v := newRun s u scope t shared stages
            if shared ∧ 32 < stages.foldl (fun n st => n + st.ii) 0 then .fault s (flt clsIllegal 3)
            else
              match runIssueFault s r (s.req u) x v with
              | some f => .fault s f
              | none =>
                if reportPending s u t.toNat || x.pend.isSome then .wait s
                else
                  .ok ((s.putTok u t.toNat .busy).modRegion r (fun y =>
                    if y.run.isSome then { y with pend := some v } else { y with run := some v }))

/-- BRUN (R246). -/
def execBrun (g : Guard) (scope : ScopeCode) (t : TokIx) (k : BitVec 2) (s : State) : Host.Outcome State Fault Refusal :=
  runStrand g s (runMould scope t false [k.toNat])

/-- BSWAP (R244, R246). -/
def execBswap (g : Guard) (scope : ScopeCode) (t : TokIx) (mask : BitVec 4) (s : State) : Host.Outcome State Fault Refusal :=
  runStrand g s (fun s u =>
    let ks := (List.range 4).filter (fun i => mask.getLsbD i)
    if (ownRegion s u).isNone then .fault s noRegion
    else if ks.length < 2 then .fault s (flt clsIllegal 3)
    else runMould scope t true ks s u)

/-! ## BARG, BDRAIN, BSTAT, BKILL (R246, R247) -/

/-- Whether a run's blocks list an argument number. -/
def listsArg (u : Run) (n : Nat) : Bool := u.stages.any (fun st => st.inst.block.args.any (fun a => a.1 == n))

/-- BARG: the argument file, and the update of a run whose blocks list the argument (R168). -/
def execBarg (g : Guard) (n : BitVec 6) (b : SReg) (s : State) : Host.Outcome State Fault Refusal :=
  runStrand g s (fun s u =>
    match ownRegion s u with
    | none => .fault s noRegion
    | some r =>
      match s.region r with
      | none => .fault s noRegion
      | some x =>
        if x.argPend.isSome then .wait s
        else
          let v : Half := (s.getS u b).truncate 32
          let live := match x.run with
            | some w => w.started && listsArg w n.toNat
            | none => false
          .ok (s.setRegion r { x with
            args := tset x.args n.toNat v, argPend := if live then some (n.toNat, v, false) else none }))

/-- A stage after BDRAIN: the iterations of its waypoint loop that have begun still complete. -/
def drainStage (st : Stage) : Stage :=
  match st.inst.block.wpl with
  | none => st
  | some l =>
    let inner := max 1 (tripsFrom st (l + 1))
    let begun := min st.t (if st.c = 0 then st.j else st.j + 1)
    { st with cut := some (min st.t (ceilDiv begun inner * inner)) }

/-- BDRAIN (R246). A run that has not started begins no iteration of its waypoint loop. -/
def drainRun (u : Run) : Run :=
  if u.started then { u with draining := true, stages := u.stages.map drainStage } else { u with draining := true }

/-- BDRAIN (R246). -/
def execBdrain (g : Guard) (s : State) : Host.Outcome State Fault Refusal :=
  runStrand g s (fun s u =>
    match ownRegion s u with
    | none => .fault s noRegion
    | some r => .ok (s.modRegion r (fun x => if x.lent.isSome then x else { x with run := x.run.map drainRun })))

/-- RUNSTAT (R247). -/
def runstat (x : Region) : Nat :=
  let base := (if x.pend.isSome then 2 ^ 59 else 0) +
    ((List.range 4).filter (fun k => (tfind x.slots k).isSome)).foldl (fun n k => n + 2 ^ (49 + k)) 0 +
    (if x.lent.isSome then 2 ^ 48 else 0)
  match x.run with
  | none => base
  | some u =>
    match u.cur with
    | none => base
    | some st =>
      base + (if u.shared then 3 else if u.started && decide (st.t ≤ st.j) then 2 else 1) * 2 ^ 62 + st.slot % 4 * 2 ^ 60 +
        (if st.inst.image.fb then 2 ^ 58 else 0) + (st.ii - 1) * 2 ^ 53 + min 0xFFFF (u.stages.foldl (fun n y => n + y.wpcnt) 0) * 2 ^ 32

/-- ITER: the iterations of all stages of the run (R247). -/
def iterStat (x : Region) : Nat :=
  match x.run with
  | none => x.lastIter
  | some u => u.stages.foldl (fun n st => n + st.iter) 0

/-- MAPINFO (R247). -/
def mapinfo (x : Region) : Nat := (if x.hit then 2 ^ 63 else 0) + (if x.mapFb then 2 ^ 62 else 0) + min x.relays 0xFFFF

/-- BSTAT; a strand without a region reads zero (R247). -/
def execBstat (g : Guard) (d : SReg) (sel : BitVec 2) (s : State) : Host.Outcome State Fault Refusal :=
  runStrand g s (fun s u =>
    if sel = 3 then .fault s (flt clsIllegal 3)
    else
      match (ownRegion s u).bind s.region with
      | none => .ok (s.putS u d 0)
      | some x => .ok (s.putS u d (BitVec.ofNat 64 (if sel = 0 then runstat x else if sel = 1 then iterStat x else mapinfo x))))

/-- A FIFO after a run is killed: its retained and uncommitted entries are discarded (R246). -/
def Fifo.discard (x : Fifo) : Fifo := { entries := x.readable, producer := x.producer, consumer := x.consumer }

/-- Nothing stays in flight in a run's elements. -/
def dropFlights (s : State) (r : RegionId) (x : Region) (u : Run) : State :=
  putElems r x s ((runElems x u).map (fun e => (e.1, e.2, { s.elem r x e.1 e.2 with flight := [] })))

/-- A region without its run: ports, shadow and pending argument update go with it (R241, R246). -/
def Region.endRun (x : Region) : Region :=
  { releaseRun x with dec := [], enc := [], shadows := [], argPend := none, holdTicks := 0, heldNow := false
                      lastIter := iterStat x, run := none }

/-- The active run of a region stops; what it had in flight, retained or uncommitted is discarded, and its AUTO steps close
(R69, R246). -/
def discardRun (s : State) (r : RegionId) : State :=
  match s.region r with
  | none => s
  | some x =>
    match x.run with
    | none => s
    | some u =>
      let s := autoCloseAll r.die r.tile (dropFlights s r x u) (namedTrackers u)
      s.setRegion r ((List.range 8).foldl (fun y f => y.setFifo f (y.fifo f).discard) x).endRun

/-- The runs of a region stop (R246); the AUTO steps of the trackers that a pending one names close too, as its token leaves BUSY (R69). -/
def killRuns (s : State) (r : RegionId) : State :=
  match s.region r with
  | none => s
  | some x =>
    if x.lent.isSome then s
    else
      let toks := (x.run.toList ++ x.pend.toList).map (·.tok.toNat)
      let s := (discardRun s r).modRegion r (fun y => { y with pend := none })
      let s := autoCloseAll r.die r.tile s ((x.pend.map namedTrackers).getD [])
      toks.foldl (fun s t => settleTok s r.strand t .error 0x20) s

/-- BKILL (R246). -/
def execBkill (g : Guard) (s : State) : Host.Outcome State Fault Refusal :=
  runStrand g s (fun s u =>
    match ownRegion s u with
    | none => .fault s noRegion
    | some r => .ok (killRuns s r))

/-! ## REFORM (R245) -/

/-- The strands of a task on a tile that have not halted. -/
def liveStrands (s : State) (task : Option Nat) (d t : Nat) : List Nat :=
  (List.range 4).filter (fun k => let c := s.ctx (.strand d t k); c.task == task && c.run == .running)

/-- The layout that a strand has named and waits for. -/
def namedLayout (c : Ctx) : Option (BitVec 4 × BitVec 8) :=
  match c.stall with
  | .reform u o _ => some (u, o)
  | _ => none

/-- Whether a strand stands inside a REFORM. -/
def insideReform (c : Ctx) : Bool :=
  match c.stall with
  | .reform .. | .parked => true
  | _ => false

/-- The quads that a layout gives a strand slot, ascending. -/
def layoutQuads (use : BitVec 4) (own : BitVec 8) (k : Nat) : List Nat :=
  (List.range 4).filter (fun q => use.getLsbD q && own.toNat / 4 ^ q % 4 == k)

/-- Height and width in quads of a set of quads that form a rectangle (R245). -/
def quadRect : List Nat → Option (Nat × Nat)
  | [_] => some (1, 1)
  | [0, 1] => some (1, 2)
  | [2, 3] => some (1, 2)
  | [0, 2] => some (2, 1)
  | [1, 3] => some (2, 1)
  | [0, 1, 2, 3] => some (2, 2)
  | _ => none

/-- Whether a strand keeps its region under a layout. -/
def keepsRegion (x : Region) (t : Nat) (qs : List Nat) : Bool := x.quads == qs.map (fun q => (t, q))

/-- Whether a region's FIFOs are all empty and unclaimed. -/
def fifosFree (x : Region) : Bool :=
  (List.range 8).all (fun f => let y := x.fifo f; y.entries.isEmpty && y.producer.isNone && y.consumer.isNone)

/-- Whether a region has a run that is BUSY or pending, or is lent. -/
def regionBusy (x : Region) : Bool := x.run.isSome || x.pend.isSome || x.lent.isSome

/-- How many arrivals came before a strand's at its REFORM. -/
def arrivalOf (c : Ctx) : Nat :=
  match c.stall with
  | .reform _ _ n => n
  | _ => 0

/-- The strand of a list that arrived last. -/
def lastArrival (s : State) (d t : Nat) (ks : List Nat) : Nat :=
  ks.foldl (fun b k => if arrivalOf (s.ctx (.strand d t b)) ≤ arrivalOf (s.ctx (.strand d t k)) then k else b) ((ks.head?).getD 0)

/-- The place of the next arrival at a tile's REFORM: one beyond those that stand there. -/
def nextArrival (s : State) (d t : Nat) : Nat := (List.range 4).foldl (fun n k => max n (arrivalOf (s.ctx (.strand d t k)) + 1)) 0

/-- The region of a strand slot under a layout (R245). -/
def reformRegion (t : Nat) (old : Option Region) (qs : List Nat) : Option Region :=
  match old with
  | some x => if keepsRegion x t qs then some x else (quadRect qs).map (fun z => { quads := qs.map (fun q => (t, q)), qrows := z.1, qcols := z.2 })
  | none => (quadRect qs).map (fun z => { quads := qs.map (fun q => (t, q)), qrows := z.1, qcols := z.2 })

/-- A layout applies to the strand slots of a tile. -/
def applyLayout (d t : Nat) (use : BitVec 4) (own : BitVec 8) (s : State) : List Nat → State
  | [] => s
  | k :: ks =>
    let key := strandKey d t k
    applyLayout d t use own { s with regions := (match reformRegion t (tfind s.regions key) (layoutQuads use own k) with
      | some x => tset s.regions key x
      | none => tdel s.regions key) } ks

/-- Strands with a region go on after their REFORM; the others are parked. -/
def leaveReform (d t : Nat) (s : State) : List Nat → State
  | [] => s
  | k :: ks =>
    let a := Agent.strand d t k
    leaveReform d t (if (s.region ⟨d, t, k⟩).isSome then s.endStall a else s.modCtx a (fun c => { c with stall := .parked, ticks := 0 })) ks

/-- A layout once all have arrived: its faults, or its application (R245). -/
def reformApply (s : State) (d t : Nat) (ks named : List Nat) (use : BitVec 4) (own : BitVec 8) : State :=
  let olds := (List.range 4).filterMap (fun k => (s.region ⟨d, t, k⟩).map (fun x => (k, x)))
  let fail (k : Nat) : State := takeFault s (.strand d t (lastArrival s d t named)) (flt clsIllegal k)
  let spans := s.regions.any (fun e => e.1 / 576 == d && e.2.quads.any (fun q => q.1 == t) && e.2.quads.any (fun q => q.1 != t))
  if (List.range 4).any (fun k => let qs := layoutQuads use own k; !qs.isEmpty && (quadRect qs).isNone) || spans then fail 0x36
  else if olds.any (fun e => regionBusy e.2) then s
  else if olds.any (fun e => !keepsRegion e.2 t (layoutQuads use own e.1) && !fifosFree e.2) then fail 0x36
  else leaveReform d t (applyLayout d t use own s [0, 1, 2, 3]) ks

/-- The REFORM of a task's strands on a tile, when all have arrived (R245). -/
def reformTry (s : State) (task : Option Nat) (d t : Nat) : State :=
  let ks := liveStrands s task d t
  let named := ks.filter (fun k => (namedLayout (s.ctx (.strand d t k))).isSome)
  match named.filterMap (fun k => namedLayout (s.ctx (.strand d t k))) with
  | [] => s
  | (use, own) :: ls =>
    if ks.any (fun k => !insideReform (s.ctx (.strand d t k)) || s.halted (.strand d t k)) then s
    else if ls.any (fun l => l != (use, own)) then takeFault s (.strand d t (lastArrival s d t named)) (flt clsIllegal 0x37)
    else reformApply s d t ks named use own

/-- REFORM (R245). -/
def execReform (g : Guard) (use : BitVec 4) (own : BitVec 8) (s : State) : Host.Outcome State Fault Refusal :=
  runStrand g s (fun s u => .wait (reformTry (s.stallOn u (.reform use own (nextArrival s u.die u.tile))) (s.ctx u).task u.die u.tile))

/-- HALT stops the strand for good; a REFORM no longer waits for it. A hub core stops until it is restarted (R264). -/
def execHalt (g : Guard) (s : State) : Host.Outcome State Fault Refusal :=
  runStrand g s (fun s u =>
    let s := s.modCtx u (fun c => { c with run := .halted })
    match u with
    | .hub d k => .wait (s.modDie d (fun y => { y with stop := y.stop ||| (1#4 <<< k) }))
    | .strand d t _ => .wait (reformTry s (s.ctx u).task d t))

/-! ## Step 3 of a run (R241) -/

/-- Whether a run's accesses and steps may go on: its partition is not halted and it has met no fault. -/
def runMoves (s : State) (r : RegionId) (u : Run) : Bool := u.fault.isNone && !u.stopped && !s.halted r.strand

/-- The request of a run's accesses, with the windows of its issue (R77). -/
def runReq (s : State) (r : RegionId) (u : Run) : Req :=
  ⟨r.strand, u.apTile, u.apClus, u.apDie, (s.ownerOf r.strand).getD 0, (s.ctx r.strand).task, false, false, some u.tok.toNat, true, none⟩

/-- The start of a stream of RSR draws (R170). -/
def rsrSeed (seed : Half) (m : Nat) : Half :=
  let x := seed ^^^ BitVec.ofNat 32 (m * 0x9E3779B9)
  if x = 0 then 1 else x

/-- An element as step 3 leaves it: carousel free, hairpins zero, anchor scales 0x7F, its stream seeded (R167, R170, R180). -/
def freshElem (seed : Half) (row col : Nat) (e : Elem) : Elem :=
  { e with asc := [], car := [], hair := [], flight := [], rsr := rsrSeed seed (32 * row + col) }

/-- A preload entry in the element of its node (R232). -/
def preloadElem (p : Preload) (e : Elem) : Elem :=
  let h := tget e.hair p.line {}
  { e with hair := tset e.hair p.line (if p.stage < 16 then { h with stages := tset h.stages p.stage p.v } else { h with input := p.v }) }

/-- The preloads of a stage. -/
def preloadAll (r : RegionId) (x : Region) (st : Stage) : State → List Preload → State
  | s, [] => s
  | s, p :: ps =>
    preloadAll r x st (match placedNode st.inst.image.words p.node with
      | some w => s.setElem r x w.row w.col (preloadElem p (s.elem r x w.row w.col))
      | none => s) ps

/-- Read the preload tables of a run's stages and preload their hairpins. -/
def preloadStages (q : Req) (r : RegionId) (x : Region) : State → List Stage → State × Try Unit
  | s, [] => (s, .ok ())
  | s, st :: sts =>
    let b := st.inst.block
    match (if b.npre = 0 then (s, .ok []) else readGen s q (st.inst.addr + BitVec.ofNat 64 b.opre) (16 * b.npre)) with
    | (s, .fault f) => (s, .fault f)
    | (s, .later) => (s, .later)
    | (s, .ok bs) => preloadStages q r x (preloadAll r x st s ((elemsOf 16 bs).map preloadOf)) sts

/-- The anchor words that an anchor line loads into an element (R237). -/
def anchorElem (lwb : Nat) (l : TagLine) (ws : List Nat) (e : Elem) : Elem :=
  ((List.range 4).filter (fun m => decide (lwb + m ≤ 5))).foldl (fun e m =>
    e.putAnchor m ⟨BitVec.ofNat 80 ((ws[lwb + m]?).getD 0), BitVec.ofNat 8 ((l.scls[(lwb + m) / 2]?).getD 0)⟩) e

/-- The six lane words of a line. -/
def sixWords (bs : List Byte) : List Nat := (List.range 3).flatMap (fun g => [lineWord bs g 0, lineWord bs g 1])

/-- Load the anchors of elements for tile step t of a binding (R237). -/
def loadAnchors (q : Req) (own : Tab Byte) (r : RegionId) (x : Region) (st : Stage) (b : Binding) (v : Word × Word) (t : Nat) :
    State → List (Nat × Nat) → State × Try Unit
  | s, [] => (s, .ok ())
  | s, (row, col) :: es =>
    match readLine s q own v t col row with
    | (s, .fault f) => (s, .fault f)
    | (s, .later) => (s, .later)
    | (s, .ok bs) =>
      let bad (k : Nat) : FaultInfo := cycleFault clsFmt k row col st row
      match decodeLine bs with
      | .error k => (s, .fault (bad k))
      | .ok l =>
        if l.fmt ≠ fwB ((st.inst.block.shapes[b.shp]?).getD 0) then (s, .fault (bad 5))
        else loadAnchors q own r x st b v t (s.setElem r x row col (anchorElem b.lwb l (sixWords bs) (s.elem r x row col))) es

/-- The loads of tile step t of every anchor binding of a stage in a list. -/
def loadBindings (q : Req) (r : RegionId) (x : Region) (st : Stage) (t : Nat) : State → List (Nat × Binding) → State × Try Unit
  | s, [] => (s, .ok ())
  | s, (n, b) :: bs =>
    match loadAnchors q [] r x st b ((st.views[n]?).getD (0, 0)) t s x.coords with
    | (s, .ok _) => loadBindings q r x st t s bs
    | e => e

/-- The anchor loads for tile step 0 of every stage. -/
def firstAnchors (q : Req) (r : RegionId) (x : Region) : State → List Stage → State × Try Unit
  | s, [] => (s, .ok ())
  | s, st :: sts =>
    match loadBindings q r x st 0 s (bindsOf st 2) with
    | (s, .ok _) => firstAnchors q r x s sts
    | e => e

/-- A stage as step 3 starts it: trips and CONST values from the argument file, the first anchors loaded (R168, R241). -/
def startStage (x : Region) (draining : Bool) (st : Stage) : Stage :=
  let b := st.inst.block
  { st with
    trips := tripsOf x b, upd := [], c := 0, j := 0, iter := 0, done := false, wpcnt := 0
    cut := if draining && b.wpl.isSome then some 0 else none
    consts := b.args.foldl (fun t a => tset t a.1 (tget x.args a.1 0)) []
    anchors := (bindsOf st 2).foldl (fun t e => tset t e.1 1) [] }

/-- The decode ports of a stage: for each row, the first decode binding whose view has it (R141, R170). -/
def startDec (x : Region) (act : Nat) (st : Stage) : Tab DecPort :=
  (List.range x.nrows).filterMap (fun i =>
    ((bindsOf st 1).find? (fun e => decide (i < gRows ((st.views[e.1]?).getD (0, 0)).2))).map (fun e =>
      (act * 64 + i, { bind := e.1, at_ := { rsr := rsrSeed x.seed (1024 + i) }, rsr := rsrSeed x.seed (1024 + i) })))

/-- The encode ports of a stage. -/
def startEnc (x : Region) (act : Nat) (st : Stage) : Tab EncPort :=
  (List.range x.ncols).filterMap (fun c =>
    ((bindsOf st 4).find? (fun e => decide (c < gRows ((st.views[e.1]?).getD (0, 0)).2))).map (fun e =>
      (act * 64 + c, ({ bind := e.1 } : EncPort))))

/-- A region whose run claims its FIFOs and ports and starts. -/
def claimRun (x : Region) (u : Run) : Region :=
  let x := (runFifos u 0).foldl (fun x f => x.setFifo f { x.fifo f with consumer := some .run }) x
  let x := (runFifos u 3).foldl (fun x f => x.setFifo f { x.fifo f with producer := some .run }) x
  let n := (List.range u.stages.length).zip u.stages
  { x with run := some { u with started := true, act := 0 }, argPend := none, holdTicks := 0, heldNow := false
           dec := n.flatMap (fun e => startDec x e.1 e.2), enc := n.flatMap (fun e => startEnc x e.1 e.2) }

/-- Step 3 of the run of a region: faults when a FIFO or port has been taken since the issue; else elements, preloads, anchors,
claims and the implicit waypoint (R241, R242). -/
def startRun (s : State) (r : RegionId) (x : Region) (u : Run) : State :=
  let others (c : Option Claim) : Bool := c.isSome
  if (runFifos u 0).any (fun f => others (x.fifo f).consumer) || (runFifos u 3).any (fun f => others (x.fifo f).producer) then
    runFault s r (flt clsIllegal 0x33)
  else if portsTaken s r x u then runFault s r (flt clsIllegal 0x35)
  else
    let q := runReq s r u
    let u := { u with stages := u.stages.map (startStage x u.draining) }
    let s1 := putElems r x s (x.coords.map (fun e => (e.1, e.2, freshElem x.seed e.1 e.2 (s.elem r x e.1 e.2))))
    match preloadStages q r x s1 u.stages with
    | (_, .fault f) => runFault s r f
    | (s2, .later) => s.waiting s2
    | (s2, .ok _) =>
      match firstAnchors q r x s2 u.stages with
      | (_, .fault f) => runFault s r f
      | (s3, .later) => s.waiting s3
      | (s3, .ok _) => startWaypoint (s3.setRegion r (claimRun x u)) r

/-- A run that is due starts (R241). -/
def execRunStart (r : RegionId) (s : State) : Host.Outcome State Fault Refusal :=
  match s.region r with
  | none => .next s
  | some x =>
    match x.run with
    | none => .next s
    | some u => if u.started || !runMoves s r u then .next s else .next (startRun s r x u)

/-! ## Lines and anchors of a run (R143-R145, R156, R237) -/

/-- A fault of a port line: element row and column, schedule row, iteration, line and position (R341). -/
def lineFault (k row col : Nat) (st : Stage) (line pos : Nat) : FaultInfo := cycleFault clsFmt k row col st (line + pos * 2 ^ 32)

/-- A decode port after it has read a line (R143). The two words of a group that an earlier line began hold codes of that line. -/
def afterLine (ecw : Word) (n : Nat) (p : DecPort) (o : LineOut) (pos : Nat) : DecPort :=
  let held := !p.at_.part.isEmpty
  let ws := ((List.range o.words.length).zip o.words).map (fun e =>
    (if held && decide (e.1 < 2) then ⟨e.2, p.org, p.orgNo + e.1⟩ else ⟨e.2, p.at_, e.1⟩ : ReadyWord))
  { p with
    words := p.words ++ ws.drop p.skip, skip := p.skip - ws.length, early := []
    org := if held && ws.isEmpty then p.org else p.at_
    orgNo := if held && ws.isEmpty then p.orgNo else ws.length
    at_ := if p.at_.line + 1 = eLines ecw ∧ n ≤ pos then { step := p.at_.step + 1, rsr := o.rsr }
      else { step := p.at_.step, line := p.at_.line + 1, pos := pos, part := o.part, rsr := o.rsr } }

/-- A line that faults: the lane words of earlier lines are delivered and consumed first (R144). -/
def lineFaults (s s1 : State) (r : RegionId) (p : DecPort) (f : FaultInfo) : State := if p.words.isEmpty then runFault s1 r f else s

/-- The bank words of a line that a step reads, of those still to be read: the last, or a free choice of several, so that each may be old or new
of a racing write (R150, R284). -/
def wordsNow (s : State) : List Nat → List Nat × State
  | [w] => ([w], s)
  | ws =>
    let now := ws.filter (fun w => s.fresh.1.getLsbD w)
    (if now.isEmpty then ws else now, s.fresh.2)

/-- Read bank words of a line into a table. -/
def readWords (q : Req) (own : Tab Byte) (v : Word × Word) (t i l : Nat) : State → Tab (List Byte) → List Nat → State × Try (Tab (List Byte))
  | s, ws, [] => (s, .ok ws)
  | s, ws, w :: ks =>
    match readView s q own v t i (8 * l + w) 1 with
    | (s1, .ok b) => readWords q own v t i l s1 (tset ws w b) ks
    | (s1, .fault f) => (s1, .fault f)
    | (s1, .later) => (s1, .later)

/-- A decode port reads bank words of its next line: the words that it has then, and the line's bytes once they are all there. -/
def readPart (s : State) (q : Req) (own : Tab Byte) (v : Word × Word) (i : Nat) (p : DecPort) : State × Try (Tab (List Byte) × Option (List Byte)) :=
  let c := wordsNow s ((List.range 8).filter (fun w => (tfind p.early w).isNone))
  match readWords q own v p.at_.step i p.at_.line c.2 p.early c.1 with
  | (s1, .ok ws) =>
    (s1, .ok (ws, if (List.range 8).all (fun w => (tfind ws w).isSome) then some ((List.range 8).flatMap (fun w => tget ws w [])) else none))
  | (s1, .fault f) => (s1, .fault f)
  | (s1, .later) => (s1, .later)

/-- A decode port reads its next line (R143-R149), or finds that its tile step is short. -/
def decodeStep (s : State) (r : RegionId) (x : Region) (u : Run) (st : Stage) (key : Nat) (p : DecPort) (b : Binding) (v : Word × Word) : State :=
  let i := key % 64
  let decl := fwA ((st.inst.block.shapes[b.shp]?).getD 0)
  let n := portLen decl b.edge
  if st.steps b.tlvl ≤ p.at_.step then s
  else if eLines b.edge ≤ p.at_.line then lineFaults s s r p (lineFault 6 i 0 st p.at_.line p.at_.pos)
  else
    match readPart s (runReq s r u) u.own v i p with
    | (s1, .fault f) => lineFaults s s1 r p f
    | (s1, .later) => s.waiting s1
    | (s1, .ok (ws, none)) => s1.setRegion r { x with dec := tset x.dec key { p with early := ws } }
    | (s1, .ok (_, some bs)) =>
      match portLine decl b.edge p.at_ bs with
      | .error k => lineFaults s s1 r p (lineFault k i 0 st p.at_.line p.at_.pos)
      | .ok (o, pos) =>
        noteProgress (s1.setRegion r { x with dec := tset x.dec key (afterLine b.edge n p o pos) }) r.strand u.tok.toNat

/-- The stage that a port of a region serves, while its run moves and has iterations to go. -/
def portStage (s : State) (r : RegionId) (port : Nat) : Option (Region × Run × Stage) :=
  match s.region r with
  | none => none
  | some x =>
    match x.run with
    | none => none
    | some u =>
      if u.started && runMoves s r u then (u.stages[port / 64]?).map (fun st => (x, u, st)) else none

/-- A decode port reads a line (R143). -/
def execDecodeLineRead (r : RegionId) (port : Nat) (s : State) : Host.Outcome State Fault Refusal :=
  match portStage s r port with
  | none => .next s
  | some (x, u, st) =>
    match tfind x.dec port with
    | none => .next s
    | some p =>
      match st.bind p.bind with
      | none => .next s
      | some (b, v) => if st.total ≤ st.j then .next s else .next (decodeStep s r x u st port p b v)

/-- The bank words of a line. -/
def bankWords (bs : List Byte) : List (List Byte) := (List.range (bs.length / 8)).map (fun i => (bs.drop (8 * i)).take 8)

/-- An encode port writes its oldest line (R156). -/
def execEncodeLineWrite (r : RegionId) (port : Nat) (s : State) : Host.Outcome State Fault Refusal :=
  match portStage s r port with
  | none => .next s
  | some (x, u, st) =>
    match tfind x.enc port with
    | none => .next s
    | some p =>
      match st.bind p.bind, p.lines with
      | some (_, v), l :: ls =>
        (match writeView s (runReq s r u) u.own v l.row (port % 64) (8 * l.line) (bankWords l.bytes) with
        | (s1, .fault f) => .next (runFault s1 r f)
        | (s1, .later) => .next (s.waiting s1)
        | (s1, .ok own) =>
          .next (noteProgress (s1.setRegion r { x with run := some { u with own := own }, enc := tset x.enc port { p with lines := ls } }) r.strand u.tok.toNat))
      | _, _ => .next s

/-- The next anchor load that is pending in a stage: its binding and tile step (R237). -/
def nextAnchor (st : Stage) : Option (Nat × Binding × Nat) :=
  ((bindsOf st 2).find? (fun e => decide (tget st.anchors e.1 0 < st.begun e.2.tlvl))).map (fun e => (e.1, e.2, tget st.anchors e.1 0))

/-- Whether the first advancing cycle of tile step t of a loop level is still to be tried: until then its anchor loads are not pending
(R237). -/
def stepUntried (x : Region) (st : Stage) (lvl t : Nat) : Bool :=
  decide (st.c = 0) && decide (st.j = t * tripsFrom st (lvl + 1)) && !x.heldNow && decide (x.holdTicks = 0)

/-- A pending anchor load is made (R237). -/
def execAnchorLoad (r : RegionId) (s : State) : Host.Outcome State Fault Refusal :=
  match s.region r with
  | none => .next s
  | some x =>
    match x.run with
    | none => .next s
    | some u =>
      match u.cur with
      | none => .next s
      | some st =>
        if !u.started || !runMoves s r u then .next s
        else
          match nextAnchor st with
          | none => .next s
          | some (n, b, t) =>
            if stepUntried x st b.tlvl t then .next s
            else
            match loadAnchors (runReq s r u) u.own r x st b ((st.views[n]?).getD (0, 0)) t s x.coords with
            | (_, .fault f) => .next (runFault s r f)
            | (s1, .later) => .next (s.waiting s1)
            | (s1, .ok _) =>
              .next (noteProgress (s1.setRegion r { x with run := some (u.setCur { st with anchors := tset st.anchors n (t + 1) }) }) r.strand u.tok.toNat)

/-! ## Steps 6 and 7 (R241) -/

/-- Whether a run has finished steps 4 to 6 but for its commit. -/
def runOver (s : State) (r : RegionId) (x : Region) (u : Run) : Bool :=
  match u.cur with
  | none => true
  | some st => stageOver s r x u st && ((List.range u.stages.length).zip u.stages).all (fun e => e.1 == u.act || e.2.done)

/-- The encode port of a run whose row is partly filled (R156), with the line and the position that it has reached in the row. -/
def partlyFilled (u : Run) (x : Region) : Option (Nat × Nat × Nat) :=
  x.enc.findSome? (fun e =>
    match (u.stages[e.1 / 64]?).bind (fun st => st.bind e.2.bind) with
    | none => none
    | some (b, _) =>
      let pos := e.2.count % max 1 (eK b.edge)
      if pos = 0 then none else some (e.1, pos / max 1 (3 * groupLen (eOfmt b.edge)), pos))

/-- The operation of a transformed copy to which a region is lent ends its fabric part (R100). -/
def endLentRun (s : State) (r : RegionId) (t : Nat) : State :=
  match s.op r.strand t with
  | none => s
  | some o => s.setOp r.strand t { o with st := .written }

/-- A drained run ends: commit, release, AUTO steps, token; the pending run becomes active (R241, R69). The AUTO steps of a block lent to a CPYX
close here, though the copy's token is still BUSY: R69 speaks of the run's token, which such a run shares with its copy (DESIGN CHOICE, log
entry 136). -/
def finishRun (s : State) (r : RegionId) (x : Region) (u : Run) : State :=
  let y := { (u.stages.foldl (fun x st => commitFifos st x) x).endRun with run := x.pend, pend := none }
  let s := autoCloseAll r.die r.tile (s.setRegion r y) (namedTrackers u)
  let s := match x.lent with
    | some t => endLentRun s r t
    | none => settleTok s r.strand u.tok.toNat .done
  reformTry s (s.ctx r.strand).task r.die r.tile

/-- A drained run completes (R241); a partly filled row raises FMT detail 0x06 (R156). -/
def execBlockRunComplete (r : RegionId) (s : State) : Host.Outcome State Fault Refusal :=
  match s.region r with
  | none => .next s
  | some x =>
    match x.run with
    | none => .next s
    | some u =>
      if u.started && runMoves s r u && runOver s r x u then
        match partlyFilled u x, u.cur with
        | some (k, l, pos), some st => .next (runFault s r (lineFault 6 (x.nrows - 1) (k % 64) ((u.stages[k / 64]?).getD st) l pos))
        | _, _ => .next (finishRun s r x u)
      else .next s

end Sys2Proof.Machine
end

