-- ==== Sys2Proof/Machine/Gears.lean ====
section
/-! DEFINITION. Gears, spines, island votes, duty patterns and trim (R289-R306), and the barrier timeout (R245, R288, R297). -/

namespace Sys2Proof.Machine

/-! ## Islands (R289, R299, R300) -/

/-- An entry of the spine table. -/
def spineAt (s : State) (n : Nat) : SpineEntry := (s.sptab[n]?).getD ⟨7, 0⟩

/-- The target of the change that a tile is in, as a gear and a spine. -/
def changeTarget (x : Tile) : Option (Bool × Nat) :=
  if x.st = .run then none else (x.change.head?).map (fun c => (c.gear.getD x.gear, c.spine.toNat))

/-- A tile's effective vote (R299): its vote, its spine in gear 1, and the spine it ramps for (R295). -/
def effVote (s : State) (x : Tile) : Option Nat :=
  let spine (g : Bool) (n : Nat) : List Nat := if g then [(spineAt s n).minlv.toNat] else []
  let vs := (if x.ven then [x.vote.toNat] else []) ++ spine x.gear x.spine.toNat ++
    (match x.st, changeTarget x with
    | .ramp, some (g, n) => spine g n
    | .switch, some (g, n) => spine g n
    | .settle, some (g, n) => spine g n
    | _, _ => [])
  if vs.isEmpty then none else some (vs.foldl max 0)

/-- An island's demand: the greatest effective vote of its tiles (R299). -/
def islandDemand (s : State) (d c : Nat) : Nat :=
  ((clusterTiles c).filterMap (fun t => effVote s (s.tile d t))).foldl max 0

/-- An island after a change of its demand: a fall below the level starts the hold-off, a rise above it cancels it (R300). -/
def noteDemand (old new : Nat) (i : Island) : Island :=
  if i.lvl.toNat < new then { i with hold := 0 }
  else if new < old ∧ new < i.lvl.toNat then { i with hold := 40000 }
  else i

/-- Make a change to tiles of a die and note what it does to the demand of their islands. -/
def withDemand (s : State) (d : Nat) (cs : List Nat) (f : State → State) : State :=
  let t := f s
  cs.foldl (fun t c => t.setIsland d c (noteDemand (islandDemand s d c) (islandDemand t d c) (t.island d c))) t

/-- A tile's island ramps to its demand (R299). -/
def rampIsland (s : State) (d c : Nat) : State :=
  let i := s.island d c
  let n := islandDemand s d c
  if i.lvl.toNat < n then s.setIsland d c { i with lvl := BitVec.ofNat 3 n } else s

/-- The hold-off has run out and no tile of the island is in a change: it falls to its demand (R300). -/
def execIslandHoldoffExpiry (die cluster : Nat) (s : State) : Host.Outcome State Fault Refusal :=
  let i := s.island die cluster
  let n := islandDemand s die cluster
  if i.hold = 0 ∧ n < i.lvl.toNat ∧ (clusterTiles cluster).all (fun t => (s.tile die t).st == .run) = true then
    .next (s.setIsland die cluster { i with lvl := BitVec.ofNat 3 n })
  else .next s

/-- The power controller sets an island's CAP (R301). -/
def execIslandCapChange (die cluster : Nat) (cap : BitVec 3) (s : State) : Host.Outcome State Fault Refusal :=
  if die < Config.dies ∧ cluster < Config.clustersPerDie then .next (s.setIsland die cluster { s.island die cluster with cap := cap }) else .next s

/-- RVOTE on a tile: CAP bounds the vote; s[D] takes the island's level (R299). -/
def rvoteOn (lv : BitVec 3) (d : SReg) (s : State) (u : Agent) : Res :=
  let c := clusterOf u.tile
  let i := s.island u.die c
  if i.cap.toNat < lv.toNat then .fault s (flt clsGear 4)
  else
    let s1 := withDemand s u.die [c] (fun s => s.modTile u.die u.tile (fun x => { x with vote := lv, ven := true }))
    .ok (s1.putS u d ((s1.island u.die c).lvl.zeroExtend 64))

/-- RVOTE (R299). -/
def execRvote (g : Guard) (d : SReg) (lv : BitVec 3) (s : State) : Host.Outcome State Fault Refusal := runStrand g s (rvoteOn lv d)

/-- RVOTE.OFF (R299). -/
def execRvoteOff (g : Guard) (d : SReg) (s : State) : Host.Outcome State Fault Refusal :=
  runOk g s (fun s u =>
    let c := clusterOf u.tile
    let s1 := withDemand s u.die [c] (fun s => s.modTile u.die u.tile (fun x => { x with ven := false }))
    s1.putS u d ((s1.island u.die c).lvl.zeroExtend 64))

/-! ## Changing gear and spine (R292-R297) -/

/-- The tiles that change together with a tile: those of the multi-tile regions that it is part of, the first of them keeping the
changes (R159, R294). -/
def gearTiles (s : State) (d t : Nat) : List Nat :=
  let hit := s.regions.filter (fun e => e.1 / 576 == d && e.2.quads.any (fun q => q.1 == t))
  let ts := (hit.flatMap (fun e => e.2.quads.map (·.1)))
  (List.range Config.tilesPerDie).filter (fun k => k == t || ts.any (· == k))

/-- The tile that keeps the changes of a tile's group. -/
def gearLead (s : State) (d t : Nat) : Nat := ((gearTiles s d t).head?).getD t

/-- The clusters of a list of tiles. -/
def clustersOf (ts : List Nat) : List Nat := (List.range Config.clustersPerDie).filter (fun c => ts.any (fun t => clusterOf t == c))

/-- Whether a BUSY or pending run on some tiles has a GREQ that forbids a gear (R293). -/
def runForbids (s : State) (d : Nat) (ts : List Nat) (gear : Bool) : Bool :=
  s.regions.any (fun e => e.1 / 576 == d && e.2.quads.any (fun q => ts.any (· == q.1)) &&
    (e.2.run.toList ++ e.2.pend.toList).any (fun u => u.stages.any (fun st => gearBad st.inst.block.greq gear)))

/-- The checks of a GEAR or SPINE (R293). -/
def gearFault (s : State) (d t : Nat) (gear : Bool) (spine : Nat) : Option Nat :=
  let ts := gearTiles s d t
  let e := spineAt s spine
  if !gear ∧ 1000 < e.freq.toNat then some 1
  else if gear ∧ ts.any (fun k => !(s.tile d k).g1ok) = true then some 2
  else if runForbids s d ts gear then some 3
  else if gear ∧ (clustersOf ts).any (fun c => decide ((s.island d c).cap.toNat < e.minlv.toNat)) = true then some 4
  else none

/-- Whether a strand of a tile's group has arrived at a phase that is not complete (R297). -/
def arrivalOpen (s : State) (d : Nat) (ts : List Nat) : Bool :=
  ts.any (fun t => (List.range 4).any (fun k => !(outstanding s (.strand d t k)).isEmpty))

/-- Change tiles of a die. -/
def modTiles (d : Nat) (f : Tile → Tile) : State → List Nat → State
  | s, [] => s
  | s, t :: ts => modTiles d f (s.modTile d t f) ts

/-- A change begins on a tile's group: the first of its list (R295). DEFER is clear: the others wait for the change, not for a phase (R294, R297). -/
def beginChange (s : State) (d t : Nat) (cs : List Change) : State :=
  match cs with
  | [] => s
  | c :: _ =>
    let go (l : List Change) (x : Tile) : Tile := { x with st := .quiesce, defer := false, change := l }
    (modTiles d (go [c]) s ((gearTiles s d t).filter (fun k => k != gearLead s d t))).modTile d (gearLead s d t) (go cs)

/-- The mould of GEAR and SPINE (R292-R294, R297). One that meets an open arrival is deferred, and one that is issued while others of its tile
are deferred waits behind them: their checks come first, and its own see the state that results (R293). -/
def gearMould (gear : Option Bool) (spine : BitVec 3) (s : State) (u : Agent) : Res :=
  let d := u.die
  let l := gearLead s d u.tile
  let ts := gearTiles s d u.tile
  let x := s.tile d l
  let g := gear.getD x.gear
  let c : Change := ⟨some (u.tile * 4 + u.slot), gear, spine⟩
  if arrivalOpen s d ts ∨ x.change.isEmpty = false then
    .wait ((modTiles d (fun y => { y with defer := true }) (s.modTile d l (fun y => { y with change := y.change ++ [c] })) ts).stallOn u .gear)
  else
    match gearFault s d u.tile g spine.toNat with
    | some k => .fault s (flt clsGear k)
    | none =>
      if (g, spine) = (x.gear, x.spine) then .ok s
      else .wait ((beginChange s d u.tile [c]).stallOn u .gear)

/-- GEAR (R292). -/
def execGear (g : Guard) (hi : Bool) (sp : BitVec 3) (s : State) : Host.Outcome State Fault Refusal :=
  runStrand g s (gearMould (some hi) sp)

/-- SPINE (R292). -/
def execSpine (g : Guard) (sp : BitVec 3) (s : State) : Host.Outcome State Fault Refusal :=
  runStrand g s (gearMould none sp)

/-- Whether a spine is permitted to a tile in a gear, on an island of a level (R289). -/
def spinePermitted (tab : List SpineEntry) (gear : Bool) (lvl n : Nat) : Bool :=
  match tab[n]? with
  | none => false
  | some e => if gear then decide (e.minlv.toNat ≤ lvl) else decide (e.freq.toNat ≤ 1000)

/-- A tile under a new spine table: one whose spine is no longer permitted moves to the lowest-numbered one that is, with MOVED
(R290). -/
def moveSpine (tab : List SpineEntry) (lvl : Nat) (x : Tile) : Tile :=
  if spinePermitted tab x.gear lvl x.spine.toNat then x
  else
    match (List.range 8).find? (spinePermitted tab x.gear lvl) with
    | some n => { x with spine := BitVec.ofNat 3 n, mux := BitVec.ofNat 3 n, moved := true }
    | none => x

/-- The change that restores a tile in gear 1 takes the lowest-numbered spine that CAP permits at that moment where the saved one's MINLV exceeds it,
with MOVED (R291). Every other change keeps its target. -/
def capRestore (s : State) (d t : Nat) : State :=
  s.modTile d t (fun x =>
    match x.change with
    | ⟨none, some true, n⟩ :: cs =>
      let y := moveSpine s.sptab (s.island d (clusterOf t)).cap.toNat { x with gear := true, spine := n, moved := false }
      { x with change := ⟨none, some true, y.spine⟩ :: cs, moved := x.moved || y.moved }
    | _ => x)

/-- The fabric of a tile in a change has stopped: QUIESCE to RAMP, where its effective vote rises (R295). -/
def execGearFabricStopped (die tile : Nat) (s : State) : Host.Outcome State Fault Refusal :=
  if (s.tile die tile).st = .quiesce then
    let ts := gearTiles s die tile
    .next (withDemand s die (clustersOf ts) (fun s =>
      modTiles die (fun x => { x with st := .ramp }) (ts.foldl (fun s t => capRestore s die t) s) ts))
  else .next s

/-- One move of SWITCH: going down, the multiplexer selects the target spine before the supply moves; going up, the supply moves first. With
both on the target, SETTLE (R295). -/
def switchMove (x : Tile) : Tile :=
  match changeTarget x with
  | none => x
  | some (g, n) =>
    let sp := BitVec.ofNat 3 n
    let y :=
      if x.rail = g then { x with mux := sp }
      else if g then { x with rail := true }
      else if x.mux ≠ sp then { x with mux := sp }
      else { x with rail := false }
    if y.rail = g ∧ y.mux = sp then { y with st := .settle } else y

/-- The island of a tile reaches the level that its tiles demand. A tile in RAMP whose target it now permits goes to SWITCH; in SWITCH the moves
of R295 are made one by one (R295, R299). -/
def execIslandLevelReached (die tile : Nat) (s : State) : Host.Outcome State Fault Refusal :=
  let ts := gearTiles s die tile
  let s1 := (clustersOf ts).foldl (fun s c => rampIsland s die c) s
  let x := s1.tile die tile
  match x.st, changeTarget x with
  | .ramp, some (g, n) =>
    if !g ∨ (clustersOf ts).all (fun c => decide ((spineAt s1 n).minlv.toNat ≤ (s1.island die c).lvl.toNat)) = true then
      .next (modTiles die (fun x => { x with st := .switch }) s1 ts)
    else .next s1
  | .switch, _ => .next (modTiles die switchMove s1 ts)
  | _, _ => .next s1

/-- The strand that waits for a change. -/
def Change.waiter (d : Nat) (c : Change) : Option Agent := c.slot.map (fun k => .strand d (k / 4) (k % 4))

/-- The changes that wait on a tile's group, all of them deferred still. -/
def keepDeferred (s : State) (d t : Nat) (cs : List Change) : State :=
  (modTiles d (fun x => { x with defer := !cs.isEmpty, change := [] }) s (gearTiles s d t)).modTile d (gearLead s d t) (fun x => { x with change := cs })

/-- The next change of a tile's list begins. One that fails its checks raises GEAR: the partition halts, and the others wait on. One whose target
is what the tile has retires (R293, R294, R297). -/
def nextChange (d t : Nat) : State → List Change → State
  | s, [] => keepDeferred s d t []
  | s, c :: cs =>
    let x := s.tile d (gearLead s d t)
    let g := c.gear.getD x.gear
    match c.waiter d, gearFault s d t g c.spine.toNat with
    | some u, some k => takeFault (keepDeferred s d t cs) u (flt clsGear k)
    | none, some _ => nextChange d t s cs
    | w, none =>
      if (g, c.spine) = (x.gear, x.spine) then nextChange d t ((w.map s.endStall).getD s) cs else beginChange s d t (c :: cs)

/-- The clock of a tile's group is stable: GEARCTL takes the target, and the instruction that waits retires (R295). In a halted partition no other
change begins (R296). -/
def settleGroup (d t : Nat) (s : State) (c : Change) (cs : List Change) : State :=
  let ts := gearTiles s d t
  let s1 := withDemand s d (clustersOf ts) (fun s =>
    modTiles d (fun y => { y with st := .run, gear := c.gear.getD y.gear, spine := c.spine, change := [] }) s ts)
  match c.waiter d with
  | none => keepDeferred s1 d t cs
  | some u =>
    let s2 := if (s1.ctx u).stall = .gear then s1.endStall u else s1
    if s2.halted u then keepDeferred s2 d t cs else nextChange d t s2 cs

/-- Every phase that a deferred change waits for has completed: its checks, then its sequence (R297). -/
def execGearDeferRelease (die tile : Nat) (s : State) : Host.Outcome State Fault Refusal :=
  let l := gearLead s die tile
  let ts := gearTiles s die tile
  let x := s.tile die l
  match (x.change.head?).bind (·.waiter die) with
  | some u =>
    if x.st = .run ∧ x.defer = true ∧ arrivalOpen s die ts = false ∧ mayProceed s u = true ∧ s.shake = false then
      .next (nextChange die tile (modTiles die (fun y => { y with defer := false }) s ts) x.change)
    else .next s
  | none => .next s

/-! ## The package stall handshake (R290) -/

/-- The tiles of the package. -/
def allTiles : List (Nat × Nat) :=
  (List.range Config.dies).flatMap (fun d => (List.range Config.tilesPerDie).map (fun t => (d, t)))

/-- No tile is in a change: the power controller stalls every tile (R290). -/
def execPackageStallHandshake (s : State) : Host.Outcome State Fault Refusal :=
  if s.tiles.all (fun e => e.2.st == .run) then .next { s with shake := true } else .next s

/-- The new spine table reaches every tile that a task holds. -/
def moveSpines (tab : List SpineEntry) (s : State) : State :=
  s.tiles.foldl (fun s e =>
    let d := e.1 / 144
    let t := e.1 % 144
    if e.2.holder.isSome then s.setTile d t (moveSpine tab (s.island d (clusterOf t)).lvl.toNat e.2) else s) s

/-- The handshake ends: the table is written, tiles are moved, and all tiles go on together (R290). -/
def execHandshakeRelease (table : List (BitVec 3 × BitVec 16)) (s : State) : Host.Outcome State Fault Refusal :=
  if s.shake ∧ table.length = 8 then
    let tab := table.map (fun e => (⟨e.1, e.2⟩ : SpineEntry))
    .next ((List.range Config.dies).foldl (fun t d => (List.range Config.clustersPerDie).foldl (fun t c =>
      t.setIsland d c (noteDemand (islandDemand s d c) (islandDemand t d c) (t.island d c))) t)
      { moveSpines tab { s with sptab := tab } with shake := false })
  else .next s

/-- The power controller writes a duty pattern, which takes effect at the next index 0 mod 32 (R165, R302). -/
def execDutyWrite (r : RegionId) (pattern : BitVec 32) (s : State) : Host.Outcome State Fault Refusal :=
  .next (s.modRegion r (fun x => { x with dutyNext := some pattern }))

/-! ## Trim (R304-R306) -/

/-- The end of a trim window (R304): while the trim is frozen, only the window's uncorrectable errors are forgotten. -/
def windowEnd (x : Trim) : Trim :=
  let y := { x with hadUnc := false, wins := x.wins + 1 }
  if x.frz then y
  else if x.cecnt.toNat < x.cetgt.toNat ∧ !x.hadUnc then { y with lkg := x.trim, trim := min 15 (x.trim + 1), cecnt := 0 }
  else { y with trim := x.trim - 1, cecnt := 0 }

/-- A trim window of 2,000,000 ticks of an island ends; windows follow each other from the die's reset (R304). -/
def execTrimWindowEnd (die cluster : Nat) (s : State) : Host.Outcome State Fault Refusal :=
  let x := s.trim die cluster
  if die < Config.dies ∧ cluster < Config.clustersPerDie ∧ 2000000 * (x.wins + 1) ≤ (s.die die).tick.toNat then
    .next (s.setTrim die cluster (windowEnd x))
  else .next s

/-- A correctable error of an island: CECNT rises by 1, saturating at 0xFFFF (R304, R306). -/
def Trim.correct (x : Trim) : Trim := { x with cecnt := if x.cecnt = 0xFFFF then x.cecnt else x.cecnt + 1 }

/-- The trim freeze ends when FRZLEFT has run out (R304). -/
def execTrimFreezeExpiry (die cluster : Nat) (s : State) : Host.Outcome State Fault Refusal :=
  let x := s.trim die cluster
  if x.frz ∧ x.frzleft = 0 then .next (s.setTrim die cluster { x with frz := false }) else .next s

/-- The trim of an island on an uncorrectable error (R304). -/
def trimOnError (x : Trim) : Trim := { x with trim := x.lkg - 1, frz := true, frzleft := 2000000000, cecnt := 0, hadUnc := true }

/-! ## The barrier timeout (R107, R245, R288, R297) -/

/-- Whether a stall of an agent may end by BARTO: MEET before its phase completes, REFORM, or a deferred GEAR or SPINE, whose change has not
begun (R297). -/
def bartoStall (s : State) (u : Agent) : Bool :=
  match (s.ctx u).stall with
  | .meet scope slot ph => (barSlot s u scope slot).phase == ph
  | .reform .. => true
  | .gear => (s.tile u.die u.tile).defer && (s.tile u.die u.tile).st == .run
  | _ => false

/-- The change that an agent waits for is never made. -/
def dropChange (s : State) (u : Agent) : State :=
  let l := gearLead s u.die u.tile
  let cs := (s.tile u.die l).change.filter (fun c => c.slot != some (u.tile * 4 + u.slot))
  modTiles u.die (fun x => { x with defer := x.defer && !cs.isEmpty }) (s.modTile u.die l (fun x => { x with change := cs })) (gearTiles s u.die u.tile)

/-- A collective of an agent that has waited for BARTO ticks (R107). -/
def lateColl (s : State) (u : Agent) (lim : Nat) : Option EngOp :=
  ((List.range 8).filterMap (s.op u)).find? (fun o => decide (o.kind = .coll) && opRuns s o && decide (o.st ≠ .written) && decide (lim ≤ o.ticks))

/-- A MEET or REFORM stall, a deferred change or a collective reaches BARTO: BARTO detail 0x01. -/
def execBarrierTimeout (u : Agent) (s : State) : Host.Outcome State Fault Refusal :=
  match (s.taskOf u).bind s.task with
  | none => .next s
  | some k =>
    if bartoStall s u ∧ bartoLimit k ≤ (s.ctx u).ticks ∧ mayProceed s u = true then
      .next (takeFault (if (s.ctx u).stall = .gear then dropChange s u else s) u (flt clsBarto 1))
    else
      match lateColl s u (bartoLimit k) with
      | some o => .next (opFault s u o.tok.toNat (flt clsBarto 1))
      | none => .next s

end Sys2Proof.Machine
end

