-- ==== Sys2Proof/WellFormed.lean ====
section
/-! DEFINITION. Which instruction terms the spec's encodings admit: the operand ranges of each entry. -/

namespace Sys2Proof

namespace SmOpt

/-- Order, hint and scope codes that R22 allows; a plain access has scope 000. -/
def wf (o : SmOpt) : Bool :=
  o.order != 3 && o.hint != 3 && o.scope != 7 && (o.order != 0 || o.scope == 0)

/-- ATOM and CAS: size W or D, order 01 or 10 (R85, R87). -/
def wfAtomic (o : SmOpt) : Bool := o.wf && o.size.toNat ≥ 2 && o.order != 0

end SmOpt

/-- SCOPE of an engine operation: 000 and 111 are reserved (R120). -/
def engScopeWf (s : ScopeCode) : Bool := s != 0 && s != 7

/-- Scope of a MEET (R287). -/
def meetScopeWf (s : ScopeCode) : Bool := 1 ≤ s.toNat && s.toNat ≤ 4

/-- Privilege of a control register (R273): any agent, hub cores only, or tile resources only. -/
inductive KPriv where
  | any | hub | tile
  deriving DecidableEq, Repr

/-- The privilege of an assigned control register index, none for an unassigned one (R273 and the registers' own
entries). -/
def kregPriv (idx : Nat) : Option KPriv :=
  if idx = 0x000 then some .any
  else if 0x010 ≤ idx ∧ idx ≤ 0x012 then some .any
  else if idx = 0x020 ∨ idx = 0x021 then some .any
  else if 0x028 ≤ idx ∧ idx ≤ 0x02F then some .any
  else if idx = 0x030 then some .tile
  else if 0x038 ≤ idx ∧ idx ≤ 0x03F then some .tile
  else if idx = 0x040 ∨ idx = 0x041 then some .tile
  else if 0x0A0 ≤ idx ∧ idx ≤ 0x0A2 then some .tile
  else if 0x0C0 ≤ idx ∧ idx ≤ 0x0EF then some .tile
  else if idx = 0x100 then some .tile
  else if 0x108 ≤ idx ∧ idx ≤ 0x10F then some .any
  else if idx = 0x110 then some .tile
  else if idx = 0x118 then some .tile
  else if 0x180 ≤ idx ∧ idx ≤ 0x1A3 then some .hub
  else if 0x200 ≤ idx ∧ idx ≤ 0x203 then some .any
  else if 0x208 ≤ idx ∧ idx ≤ 0x20A then some .any
  else if 0x240 ≤ idx ∧ idx ≤ 0x248 then some .hub
  else if idx = 0x250 then some .hub
  else if 0x300 ≤ idx ∧ idx ≤ 0x304 then some .hub
  else if idx = 0x310 ∨ idx = 0x311 then some .hub
  else if idx = 0x400 then some .tile
  else if 0x408 ≤ idx ∧ idx ≤ 0x40F then some .tile
  else if 0x410 ≤ idx ∧ idx ≤ 0x413 then some .tile
  else if idx = 0x500 ∨ idx = 0x501 then some .hub
  else if 0x510 ≤ idx ∧ idx ≤ 0x51F then some .hub
  else if idx = 0x530 then some .any
  else if 0x540 ≤ idx ∧ idx ≤ 0x542 then some .any
  else if 0x544 ≤ idx ∧ idx ≤ 0x546 then some .any
  else if idx = 0x548 then some .any
  else if 0x600 ≤ idx ∧ idx ≤ 0x603 then some .hub
  else if 0x610 ≤ idx ∧ idx ≤ 0x612 then some .hub
  else none

/-- A POS and LEN of BFX and BFI (R254). -/
def bitFieldWf (pos : BitVec 6) (len : BitVec 7) : Bool :=
  1 ≤ len.toNat && len.toNat ≤ 64 && pos.toNat + len.toNat ≤ 64

/-- The condition field of PBR and PSKIP with its operands (R132). -/
def pcondWf (cond a b : XReg) : Bool := cond.toNat ≤ 4 && (cond != 0 || (a == 0 && b == 0))

/-- IMM14 read as signed lies in a range (R131-R133). -/
def immIn (imm : BitVec 14) (lo hi : Int) : Bool := decide (lo ≤ imm.toInt) && decide (imm.toInt ≤ hi)

/-- AOP of ATOM with its size: 0xB-0xF are illegal, and fadd and bfadd2 have size W only (R85). -/
def aopWf (size : BitVec 2) (aop : BitVec 4) : Bool := aop.toNat ≤ 8 || (aop.toNat ≤ 10 && size == 2)

/-- At least two bits of a BSWAP mask (R246). -/
def twoBits (m : BitVec 4) : Bool :=
  decide (2 ≤ (m.getLsbD 0).toNat + (m.getLsbD 1).toNat + (m.getLsbD 2).toNat + (m.getLsbD 3).toNat)

/-- An instruction term that some word of the spec's encodings stands for; an event term is always well formed. -/
def wellFormed : Instr → Bool
  | .bfx _ _ _ _ pos len => bitFieldWf pos len
  | .bfi _ _ _ pos len => bitFieldWf pos len
  | .sext _ _ _ n => 1 ≤ n.toNat && n.toNat ≤ 64
  | .zext _ _ _ n => 1 ≤ n.toNat && n.toNat ≤ 64
  | .cmp _ cond _ _ _ _ => cond.toNat ≤ 5
  | .loop _ _ _ last => last != 0
  | .ld _ o _ _ _ _ => o.wf
  | .st _ o _ _ _ _ => o.wf
  | .ld2 _ o d _ _ _ => o.wf && !d.getLsbD 0
  | .st2 _ o d _ _ _ => o.wf && !d.getLsbD 0
  | .atom _ o aop _ _ _ _ => o.wfAtomic && aopWf o.size aop
  | .cas _ o _ _ _ _ => o.wfAtomic
  | .apcvRel _ sp _ _ => sp != 3
  | .apcvGen _ sp _ _ => sp != 3
  | .fence _ pr pw sr sw scope => (pr || pw) && (sr || sw) && scope != 7
  | .meetArrive _ scope _ _ n => meetScopeWf scope && n != 0
  | .meetWait _ scope _ _ => meetScopeWf scope
  | .meetAw _ scope _ _ n => meetScopeWf scope && n != 0
  | .stage _ _ inc => inc != 0
  | .qflag _ _ _ k => k != 7
  | .merge _ comb _ _ _ scope _ _ _ => comb.toNat ≤ 4 && engScopeWf scope
  | .route _ scope _ _ _ => engScopeWf scope
  | .hacc _ _ _ scope _ _ _ => engScopeWf scope
  | .hflush _ _ scope _ _ _ => engScopeWf scope
  | .grun _ scope _ _ _ _ => engScopeWf scope
  | .grunT _ scope _ _ _ => engScopeWf scope
  | .ginv _ scope _ _ _ cap _ => engScopeWf scope && 1 ≤ cap.toNat && cap.toNat ≤ 131072
  | .brun _ scope _ _ => engScopeWf scope
  | .bstat _ _ sel => sel != 3
  | .bswap _ scope _ mask => engScopeWf scope && twoBits mask
  | .tsend _ scope _ _ _ => engScopeWf scope
  | .krd _ _ idx => (kregPriv idx.toNat).isSome
  | .kwr _ idx _ => (kregPriv idx.toNat).isSome
  | .swportClr _ p _ => p.toNat ≤ 8
  | .apbaseWrite _ sp _ => sp != 3
  | .pdivi _ _ imm => immIn imm 1 8191
  | .pmodi _ _ imm => immIn imm 1 8191
  | .pshr _ _ imm => immIn imm 0 31
  | .pshl _ _ imm => immIn imm 0 31
  | .phash _ _ _ imm => immIn imm 1 32
  | .ploop _ _ imm => immIn imm 1 63
  | .pbr cond a b imm => pcondWf cond a b && imm != 0
  | .pskip cond a b => pcondWf cond a b
  | .pdil _ _ _ imm => immIn imm 1 8191
  | .pbdiag _ _ imm => immIn imm 1 8191
  | .ptab _ _ imm => immIn imm 0 3
  | _ => true

end Sys2Proof
end

