-- ==== Sys2Proof/Decode.lean ====
section
/-! DEFINITION. The decoders of strand words (R18-R24 and each instruction's entry) and pattern words (R29, R129),
total on any word, and the encoders written from the same tables. -/

namespace Sys2Proof

/-- What decoding reports in place of an instruction (R19, R25). -/
inductive DecodeFault where
  | illegal (detail : BitVec 8)
  | priv
  deriving DecidableEq, Repr

/-- The fields of a strand word (R18). -/
structure StrandFields where
  opc : BitVec 7
  pg  : BitVec 3
  pn  : BitVec 1
  d   : BitVec 5
  a   : BitVec 5
  b   : BitVec 5
  fn  : BitVec 6
  imm : BitVec 32
  deriving DecidableEq, Repr

/-- Table: Strand instruction word (R18). -/
def strandFields (w : Word) : StrandFields :=
  { opc := w.extractLsb' 57 7, pg := w.extractLsb' 54 3, pn := w.extractLsb' 53 1, d := w.extractLsb' 48 5,
    a := w.extractLsb' 43 5, b := w.extractLsb' 38 5, fn := w.extractLsb' 32 6, imm := w.extractLsb' 0 32 }

/-- The word of given fields (R18). -/
def StrandFields.word (f : StrandFields) : Word :=
  f.opc ++ f.pg ++ f.pn ++ f.d ++ f.a ++ f.b ++ f.fn ++ f.imm

/-- The guard of the fields (R18). -/
def StrandFields.guard (f : StrandFields) : Guard := { pg := f.pg, pn := f.pn == 1 }

/-- The last three classes of decode checks in the order of R19: a nonzero reserved field, a register field out of
range, a reserved value. -/
def decodeChecks (reserved badReg badValue : Bool) (i : Instr) : Except DecodeFault Instr :=
  if reserved then .error (.illegal 0x02)
  else if badReg then .error (.illegal 0x04)
  else if badValue then .error (.illegal 0x03)
  else .ok i

/-- High bits of a register field of a file of eight (R20). -/
def high8 (x : BitVec 5) : Bool := x.extractLsb' 3 2 != 0
/-- High bits of a register field of a file of four (R20). -/
def high4 (x : BitVec 5) : Bool := x.extractLsb' 2 3 != 0
/-- High bit of a register field of a file of sixteen (R20). -/
def high16 (x : BitVec 5) : Bool := x.extractLsb' 4 1 != 0

/-- Low bits of a register field. -/
def low3 (x : BitVec 5) : BitVec 3 := x.extractLsb' 0 3
/-- Low bits of a register field. -/
def low2 (x : BitVec 5) : BitVec 2 := x.extractLsb' 0 2
/-- Low bits of a register field. -/
def low4 (x : BitVec 5) : BitVec 4 := x.extractLsb' 0 4

namespace StrandFields

/-- SI form is selected by FN[5] (R21). -/
def si (f : StrandFields) : Bool := f.fn.getLsbD 5
/-- FN[0]. -/
def fn0 (f : StrandFields) : Bool := f.fn.getLsbD 0
/-- The second source of an SR/SI word (R21). -/
def src (f : StrandFields) : Src := if f.si then .imm f.imm else .reg f.b
/-- The signed byte offset IMM[28:0] (R22, R99). -/
def off (f : StrandFields) : BitVec 29 := f.imm.extractLsb' 0 29
/-- IMM[31:29], the scope (R22). -/
def scope (f : StrandFields) : BitVec 3 := f.imm.extractLsb' 29 3
/-- The SM option fields (R22). -/
def smOpt (f : StrandFields) : SmOpt :=
  { size := f.fn.extractLsb' 4 2, order := f.fn.extractLsb' 2 2, hint := f.fn.extractLsb' 0 2, scope := f.scope }
/-- Reserved fields of an SR/SI word with no third source: IMM in SR form, B in SI form (R21). -/
def srsiReserved (f : StrandFields) : Bool := if f.si then f.b != 0 else f.imm != 0

end StrandFields

/-- SR/SI integer instruction with no FN bit of its own (R252). -/
def decodeAlu (f : StrandFields) (k : Guard → SReg → SReg → Src → Instr) : Except DecodeFault Instr :=
  decodeChecks f.srsiReserved false (f.fn.extractLsb' 0 5 != 0) (k f.guard f.d f.a f.src)

/-- SR/SI integer instruction with FN[0] = S (R252). -/
def decodeAluS (f : StrandFields) (k : Guard → Bool → SReg → SReg → Src → Instr) : Except DecodeFault Instr :=
  decodeChecks f.srsiReserved false (f.fn.extractLsb' 1 4 != 0) (k f.guard f.fn0 f.d f.a f.src)

/-- SR-only instruction of one source: the reserved fields are those of the SR form, and a nonzero FN is a reserved value (R19, R21,
R252). -/
def decodeUnary (f : StrandFields) (k : Guard → SReg → SReg → Instr) : Except DecodeFault Instr :=
  decodeChecks (f.imm != 0 || f.b != 0) false (f.fn != 0) (k f.guard f.d f.a)

/-- LD, ST, LD2, ST2 (R22, R49). -/
def decodeMem (f : StrandFields) (pair : Bool) (k : Guard → SmOpt → SReg → SReg → SReg → BitVec 29 → Instr) :
    Except DecodeFault Instr :=
  decodeChecks false (pair && f.d.getLsbD 0) (!f.smOpt.wf) (k f.guard f.smOpt f.d f.a f.b f.off)

/-- A token, a base register and an offset, with nothing else (R99). -/
def decodeTokOff (f : StrandFields) (k : Guard → TokIx → SReg → BitVec 29 → Instr) : Except DecodeFault Instr :=
  decodeChecks (f.b != 0 || f.fn != 0 || f.scope != 0) (high8 f.d) false (k f.guard (low3 f.d) f.a f.off)

/-- A generator context, a base register and an offset (R136, R139). -/
def decodeGenOff (f : StrandFields) (k : Guard → GReg → SReg → BitVec 29 → Instr) : Except DecodeFault Instr :=
  decodeChecks (f.b != 0 || f.fn != 0 || f.scope != 0) (high4 f.d) false (k f.guard (low2 f.d) f.a f.off)

/-- A word whose every field but PG and PN is zero (R24, R246, R263, R264, R268). -/
def decodeBare (f : StrandFields) (k : Guard → Instr) : Except DecodeFault Instr :=
  decodeChecks (f.d != 0 || f.a != 0 || f.b != 0 || f.fn != 0 || f.imm != 0) false false (k f.guard)

/-- A destination and nothing else (R303). -/
def decodeDest (f : StrandFields) (k : Guard → SReg → Instr) : Except DecodeFault Instr :=
  decodeChecks (f.a != 0 || f.b != 0 || f.fn != 0 || f.imm != 0) false false (k f.guard f.d)

/-- PMOV (R258). Of a word whose FN form is reserved the spec does not say which operand fields are reserved or register fields; the model
checks those that are reserved in every form, then the form, here and in MEET, TOKQ, QPOS and LATQ (DESIGN CHOICE, log entry 105). -/
def decodePmov (f : StrandFields) : Except DecodeFault Instr :=
  let base := f.b != 0 || f.fn.extractLsb' 2 4 != 0
  match (f.fn.extractLsb' 0 2).toNat with
  | 0 => decodeChecks (base || f.a != 0 || f.imm != 0) false false (.pmovGet f.guard f.d)
  | 1 => decodeChecks (base || f.d != 0 || f.imm.extractLsb' 8 24 != 0) false false
           (.pmovSet f.guard f.a (f.imm.extractLsb' 0 8))
  | 2 => decodeChecks (base || f.a != 0 || f.imm.extractLsb' 1 31 != 0) (high8 f.d) false
           (.pmovPred f.guard (low3 f.d) (f.imm.getLsbD 0))
  | _ => decodeChecks base false true (.nop f.guard)

/-- LOOP (R260). -/
def decodeLoop (f : StrandFields) : Except DecodeFault Instr :=
  let base := f.b != 0 || f.fn.extractLsb' 1 5 != 0
  if f.fn0 then decodeChecks (base || f.d != 0 || f.a != 0 || f.imm != 0) false false (.loopBrk f.guard)
  else decodeChecks (base || f.imm.extractLsb' 20 12 != 0) false (f.imm.extractLsb' 0 20 == 0)
    (.loop f.guard f.d f.a (f.imm.extractLsb' 0 20))

/-- APCV and APIN (R83, R84). -/
def decodeApcv (f : StrandFields) : Except DecodeFault Instr :=
  decodeChecks (f.b != 0 || f.fn.extractLsb' 2 3 != 0 || f.imm != 0) false (f.fn.extractLsb' 0 2 == 3)
    (if f.si then .apcvGen f.guard (f.fn.extractLsb' 0 2) f.d f.a else .apcvRel f.guard (f.fn.extractLsb' 0 2) f.d f.a)

/-- MEET (R287). -/
def decodeMeet (hub : Bool) (f : StrandFields) : Except DecodeFault Instr :=
  let base := f.b != 0 || f.fn.extractLsb' 2 4 != 0 || f.imm.extractLsb' 20 9 != 0
  let n := f.imm.extractLsb' 0 16
  let slot := f.imm.extractLsb' 16 4
  let badScope := !meetScopeWf f.scope || (hub && f.scope.toNat ≤ 2)
  match (f.fn.extractLsb' 0 2).toNat with
  | 0 => decodeChecks (base || f.a != 0) false (badScope || n == 0) (.meetArrive f.guard f.scope f.d slot n)
  | 1 => decodeChecks (base || f.d != 0 || n != 0) false badScope (.meetWait f.guard f.scope f.a slot)
  | 2 => decodeChecks (base || f.a != 0) false (badScope || n == 0) (.meetAw f.guard f.scope f.d slot n)
  | _ => decodeChecks base false true (.nop f.guard)

/-- TOKQ (R111). -/
def decodeTokq (f : StrandFields) : Except DecodeFault Instr :=
  let base := f.b != 0 || f.fn.extractLsb' 2 4 != 0 || f.imm != 0
  match (f.fn.extractLsb' 0 2).toNat with
  | 0 => decodeChecks base (high8 f.a) false (.tokqGet f.guard f.d (low3 f.a))
  | 1 => decodeChecks (base || f.a != 0) false false (.tokqAll f.guard f.d)
  | 2 => decodeChecks (base || f.d != 0) (high8 f.a) false (.tokqClr f.guard (low3 f.a))
  | _ => decodeChecks base false true (.nop f.guard)

/-- QIND (R118, R119). -/
def decodeQind (f : StrandFields) : Except DecodeFault Instr :=
  let badReg := high16 f.d || high16 f.a || high16 f.b
  if f.fn.getLsbD 1 then
    decodeChecks (f.fn.extractLsb' 2 4 != 0 || f.imm.extractLsb' 6 26 != 0) badReg false
      (.qindFeed f.guard f.fn0 (low4 f.d) (low4 f.a) (low4 f.b) (f.imm.extractLsb' 0 3) (f.imm.extractLsb' 3 3))
  else decodeChecks (f.fn.extractLsb' 2 4 != 0 || f.imm != 0) badReg false
      (.qind f.guard f.fn0 (low4 f.d) (low4 f.a) (low4 f.b))

/-- QPOS (R118). -/
def decodeQpos (f : StrandFields) : Except DecodeFault Instr :=
  let base := f.fn.extractLsb' 2 4 != 0 || f.imm != 0
  match (f.fn.extractLsb' 0 2).toNat with
  | 0 => decodeChecks (base || f.b != 0) (high16 f.a) false (.qposGet f.guard f.d (low4 f.a))
  | 1 => decodeChecks (base || f.d != 0) (high16 f.a) false (.qposSet f.guard (low4 f.a) f.b)
  | _ => decodeChecks base (high16 f.a) true (.nop f.guard)

/-- GRUN (R137). -/
def decodeGrun (f : StrandFields) : Except DecodeFault Instr :=
  let base := f.a != 0 || f.fn.extractLsb' 1 5 != 0 || f.imm.extractLsb' 6 23 != 0
  if f.fn0 then decodeChecks (base || f.b != 0) (high4 f.d) (!engScopeWf f.scope)
    (.grunT f.guard f.scope (low2 f.d) (f.imm.extractLsb' 3 3) (f.imm.extractLsb' 0 3))
  else decodeChecks base (high4 f.d) (!engScopeWf f.scope)
    (.grun f.guard f.scope (low2 f.d) f.b (f.imm.extractLsb' 3 3) (f.imm.extractLsb' 0 3))

/-- LATQ (R313). -/
def decodeLatq (f : StrandFields) : Except DecodeFault Instr :=
  let base := f.fn.extractLsb' 2 4 != 0 || f.imm != 0
  match (f.fn.extractLsb' 0 2).toNat with
  | 0 => decodeChecks base false false (.latq f.guard f.d f.a f.b)
  | 1 => decodeChecks (base || f.a != 0 || f.b != 0) false false (.latqNow f.guard f.d)
  | 2 => decodeChecks (base || f.a != 0 || f.b != 0) false false (.latqRaw f.guard f.d)
  | _ => decodeChecks base false true (.nop f.guard)

/-- The index checks of KRD and KWR, which come last (R272). -/
def decodeKindex (hub : Bool) (idx : BitVec 12) (i : Instr) : Except DecodeFault Instr :=
  match kregPriv idx.toNat with
  | none => .error (.illegal 0x3A)
  | some .hub => if hub then .ok i else .error .priv
  | some .tile => if hub then .error (.illegal 0x05) else .ok i
  | some .any => .ok i

/-- The H instructions of R24. -/
def opcHub (opc : Nat) : Bool := opc == 0x73 || opc == 0x76 || opc == 0x77

/-- The T instructions of R24. -/
def opcTile (opc : Nat) : Bool :=
  opc == 0x2D || (0x48 ≤ opc && opc ≤ 0x4D) || (0x50 ≤ opc && opc ≤ 0x53) || (0x58 ≤ opc && opc ≤ 0x5C) ||
    (0x60 ≤ opc && opc ≤ 0x6A)

/-- OPC values that the opcode map assigns (R24). -/
def opcAssigned (opc : Nat) : Bool :=
  opc ≤ 0x1B || (0x20 ≤ opc && opc ≤ 0x22) || (0x28 ≤ opc && opc ≤ 0x3C) || (0x40 ≤ opc && opc ≤ 0x44) ||
    (0x48 ≤ opc && opc ≤ 0x4D) || (0x50 ≤ opc && opc ≤ 0x53) || (0x58 ≤ opc && opc ≤ 0x5C) ||
    (0x60 ≤ opc && opc ≤ 0x6E) || (0x70 ≤ opc && opc ≤ 0x77)

/-- Decoding by opcode, once the opcode and its privilege are checked (R19 steps 3 to 6). -/
def decodeByOpc (hub : Bool) (f : StrandFields) : Except DecodeFault Instr :=
  let g := f.guard
  match f.opc.toNat with
  | 0x00 => decodeBare f .nop
  | 0x01 => decodeAlu f .add
  | 0x02 => decodeAlu f .sub
  | 0x03 => decodeAlu f .mul
  | 0x04 => decodeAluS f .mulh
  | 0x05 => decodeAluS f .div
  | 0x06 => decodeAluS f .rem
  | 0x07 => decodeAlu f .and
  | 0x08 => decodeAlu f .or
  | 0x09 => decodeAlu f .xor
  | 0x0A => decodeAlu f .andn
  | 0x0B => decodeAlu f .shl
  | 0x0C => decodeAlu f .shr
  | 0x0D => decodeAlu f .sar
  | 0x0E => decodeAlu f .rot
  | 0x0F => decodeAluS f .min
  | 0x10 => decodeAluS f .max
  | 0x11 => decodeUnary f .clz
  | 0x12 => decodeUnary f .ctz
  | 0x13 => decodeUnary f .bcnt
  | 0x14 => decodeChecks (f.b != 0 || f.fn.extractLsb' 1 5 != 0 || f.imm.extractLsb' 13 19 != 0) false
      (!bitFieldWf (f.imm.extractLsb' 0 6) (f.imm.extractLsb' 6 7))
      (.bfx g f.fn0 f.d f.a (f.imm.extractLsb' 0 6) (f.imm.extractLsb' 6 7))
  | 0x15 => decodeChecks (f.b != 0 || f.fn != 0 || f.imm.extractLsb' 13 19 != 0) false
      (!bitFieldWf (f.imm.extractLsb' 0 6) (f.imm.extractLsb' 6 7))
      (.bfi g f.d f.a (f.imm.extractLsb' 0 6) (f.imm.extractLsb' 6 7))
  | 0x16 => decodeChecks (f.b != 0 || f.fn != 0 || f.imm.extractLsb' 7 25 != 0) false
      (!(1 ≤ (f.imm.extractLsb' 0 7).toNat && (f.imm.extractLsb' 0 7).toNat ≤ 64)) (.sext g f.d f.a (f.imm.extractLsb' 0 7))
  | 0x17 => decodeChecks (f.b != 0 || f.fn != 0 || f.imm.extractLsb' 7 25 != 0) false
      (!(1 ≤ (f.imm.extractLsb' 0 7).toNat && (f.imm.extractLsb' 0 7).toNat ≤ 64)) (.zext g f.d f.a (f.imm.extractLsb' 0 7))
  | 0x18 => decodeChecks (f.a != 0 || f.b != 0 || f.fn != 0) false false (.movi g f.d f.imm)
  | 0x19 => decodeChecks (f.a != 0 || f.b != 0 || f.fn != 0) false false (.movh g f.d f.imm)
  | 0x1A => decodeChecks (f.imm.extractLsb' 0 27 != 0) false (f.fn != 0)
      (.sel g f.d f.a f.b (f.imm.extractLsb' 27 5))
  | 0x1B => decodeChecks f.srsiReserved false (f.fn.extractLsb' 3 2 != 0) (.ixa g (f.fn.extractLsb' 0 3) f.d f.a f.src)
  | 0x20 => decodeChecks f.srsiReserved (high8 f.d)
      (f.fn.getLsbD 4 || !decide ((f.fn.extractLsb' 1 3).toNat ≤ 5)) (.cmp g (f.fn.extractLsb' 1 3) f.fn0 (low3 f.d) f.a f.src)
  | 0x21 => decodeChecks (f.fn.extractLsb' 3 3 != 0 || f.imm != 0) (high8 f.d || high8 f.a || high8 f.b) false
      (.plog g (f.fn.extractLsb' 0 3) (low3 f.d) (low3 f.a) (low3 f.b))
  | 0x22 => decodePmov f
  | 0x28 => decodeChecks (f.d != 0 || f.a != 0 || f.b != 0 || f.fn != 0) false false (.br g f.imm)
  | 0x29 => decodeChecks (f.d != 0 || f.b != 0 || f.fn.extractLsb' 1 5 != 0 || f.imm != 0) false false (.brx g f.fn0 f.a)
  | 0x2A => decodeChecks (f.d != 0 || f.a != 0 || f.b != 0 || f.fn != 0) false false (.call g f.imm)
  | 0x2B => decodeChecks (f.d != 0 || f.b != 0 || f.fn != 0 || f.imm != 0) false false (.ret g f.a)
  | 0x2C => decodeLoop f
  | 0x2D => decodeChecks (f.a != 0 || f.fn != 0 || f.imm != 0) (high8 f.b) false (.itnext g f.d (low3 f.b))
  | 0x2E => decodeBare f .yield
  | 0x2F => decodeBare f .halt
  | 0x30 => decodeMem f false .ld
  | 0x31 => decodeMem f false .st
  | 0x32 => decodeMem f true .ld2
  | 0x33 => decodeMem f true .st2
  | 0x34 => decodeChecks false false (!(f.smOpt.wfAtomic && aopWf f.smOpt.size (f.imm.extractLsb' 25 4)))
      (.atom g f.smOpt (f.imm.extractLsb' 25 4) f.d f.a f.b (f.imm.extractLsb' 0 25))
  | 0x35 => decodeChecks false false (!f.smOpt.wfAtomic) (.cas g f.smOpt f.d f.a f.b f.off)
  | 0x36 => decodeChecks (f.d != 0 || f.fn.extractLsb' 2 2 != 0 || f.scope != 0) false (f.fn.getLsbD 1)
      (.pref g (f.fn.extractLsb' 4 2) f.fn0 f.a f.b f.off)
  | 0x37 => decodeApcv f
  | 0x38 => decodeChecks (f.b != 0 || f.fn.extractLsb' 2 4 != 0 || f.imm != 0) (high8 f.d) false
      (.apin g (f.fn.extractLsb' 0 2) (low3 f.d) f.a)
  | 0x39 => decodeChecks (f.d != 0 || f.a != 0 || f.b != 0 || f.fn.extractLsb' 4 2 != 0 || f.off != 0) false
      (!((f.fn.getLsbD 3 || f.fn.getLsbD 2) && (f.fn.getLsbD 1 || f.fn.getLsbD 0) && f.scope != 7))
      (.fence g (f.fn.getLsbD 3) (f.fn.getLsbD 2) (f.fn.getLsbD 1) (f.fn.getLsbD 0) f.scope)
  | 0x3A => decodeMeet hub f
  | 0x3B => decodeChecks (f.a != 0 || f.b != 0 || f.fn.extractLsb' 1 5 != 0 || f.imm.extractLsb' 8 24 != 0) (high8 f.d) false
      (.wait g f.fn0 (low3 f.d) (f.imm.extractLsb' 0 8))
  | 0x3C => decodeTokq f
  | 0x40 => decodeTokOff f .cpy
  | 0x41 => decodeChecks (f.b != 0 || f.fn != 0 || f.scope != 0) (high8 f.d) false (.cpys g (low3 f.d) f.a f.off)
  | 0x42 => decodeChecks (f.a != 0 || f.b != 0 || f.fn != 0 || f.imm.extractLsb' 8 24 != 0) (high8 f.d)
      (f.imm.extractLsb' 0 8 == 0) (.stage g (low3 f.d) (f.imm.extractLsb' 0 8))
  | 0x43 => decodeTokOff f .cpyx
  | 0x44 => decodeTokOff f .coll
  | 0x48 => decodeChecks (f.b != 0 || f.fn != 0 || f.scope != 0) (high16 f.d) false (.qset g (low4 f.d) f.a f.off)
  | 0x49 => decodeQind f
  | 0x4A => decodeChecks (f.b != 0 || f.fn.extractLsb' 1 5 != 0 || f.imm != 0) (high16 f.a) false (.qrd g f.fn0 f.d (low4 f.a))
  | 0x4B => decodeQpos f
  | 0x4C => decodeChecks (f.b != 0 || f.fn != 0 || f.imm.extractLsb' 3 29 != 0) (high8 f.d || high16 f.a)
      (f.imm.extractLsb' 0 3 == 7) (.qflag g (low3 f.d) (low4 f.a) (f.imm.extractLsb' 0 3))
  | 0x4D => decodeChecks (f.d != 0 || f.b != 0 || f.fn.extractLsb' 1 5 != 0 || f.imm != 0) (high16 f.a) false
      (.qclr g f.fn0 (low4 f.a))
  | 0x50 => decodeChecks (f.b != 0) (high8 f.d) (!(decide ((f.fn.extractLsb' 0 3).toNat ≤ 4) && engScopeWf f.scope))
      (.merge g (f.fn.extractLsb' 0 3) (f.fn.getLsbD 3) (f.fn.getLsbD 4) (f.fn.getLsbD 5) f.scope (low3 f.d) f.a f.off)
  | 0x51 => decodeChecks (f.b != 0 || f.fn != 0) (high8 f.d) (!engScopeWf f.scope) (.route g f.scope (low3 f.d) f.a f.off)
  | 0x52 => decodeChecks (f.b != 0 || f.fn.extractLsb' 3 3 != 0) (high8 f.d) (!engScopeWf f.scope)
      (.hacc g (f.fn.extractLsb' 0 2) (f.fn.getLsbD 2) f.scope (low3 f.d) f.a f.off)
  | 0x53 => decodeChecks (f.b != 0 || f.fn.extractLsb' 1 5 != 0) (high8 f.d) (!engScopeWf f.scope)
      (.hflush g f.fn0 f.scope (low3 f.d) f.a f.off)
  | 0x58 => decodeGenOff f .gload
  | 0x59 => decodeGrun f
  | 0x5A => decodeChecks (f.fn != 0 || f.imm.extractLsb' 21 8 != 0) (high4 f.d)
      (!(engScopeWf f.scope && decide (1 ≤ (f.imm.extractLsb' 3 18).toNat) && decide ((f.imm.extractLsb' 3 18).toNat ≤ 131072)))
      (.ginv g f.scope (low2 f.d) f.b f.a (f.imm.extractLsb' 3 18) (f.imm.extractLsb' 0 3))
  | 0x5B => decodeGenOff f .gsave
  | 0x5C => decodeGenOff f .grest
  | 0x60 => decodeChecks (f.b != 0 || f.fn != 0 || f.scope != 0) (high4 f.d) false (.bload g (low2 f.d) f.a f.off)
  | 0x61 => decodeChecks (f.a != 0 || f.b != 0 || f.fn != 0 || f.imm.extractLsb' 2 27 != 0) (high8 f.d)
      (!engScopeWf f.scope) (.brun g f.scope (low3 f.d) (f.imm.extractLsb' 0 2))
  | 0x62 => decodeChecks (f.d != 0 || f.a != 0 || f.fn != 0 || f.imm.extractLsb' 6 26 != 0) false false
      (.barg g (f.imm.extractLsb' 0 6) f.b)
  | 0x63 => decodeBare f .bdrain
  | 0x64 => decodeChecks (f.a != 0 || f.b != 0 || f.fn != 0 || f.imm.extractLsb' 2 30 != 0) false
      (f.imm.extractLsb' 0 2 == 3) (.bstat g f.d (f.imm.extractLsb' 0 2))
  | 0x65 => decodeBare f .bkill
  | 0x66 => decodeChecks (f.a != 0 || f.b != 0 || f.fn != 0 || f.imm.extractLsb' 4 25 != 0) (high8 f.d)
      (!(engScopeWf f.scope && twoBits (f.imm.extractLsb' 0 4))) (.bswap g f.scope (low3 f.d) (f.imm.extractLsb' 0 4))
  | 0x67 => decodeChecks (f.d != 0 || f.a != 0 || f.b != 0 || f.fn != 0 || f.imm.extractLsb' 12 20 != 0) false false
      (.reform g (f.imm.extractLsb' 8 4) (f.imm.extractLsb' 0 8))
  | 0x68 => decodeChecks (f.d != 0 || f.a != 0 || f.b != 0 || f.fn != 0 || f.imm.getLsbD 3 || f.imm.extractLsb' 5 27 != 0)
      false false (.gear g (f.imm.getLsbD 4) (f.imm.extractLsb' 0 3))
  | 0x69 => decodeChecks (f.d != 0 || f.a != 0 || f.b != 0 || f.fn != 0 || f.imm.extractLsb' 3 29 != 0) false false
      (.spine g (f.imm.extractLsb' 0 3))
  | 0x6A => if f.fn0 then decodeChecks (f.a != 0 || f.b != 0 || f.fn.extractLsb' 1 5 != 0 || f.imm != 0) false false (.rvoteOff g f.d)
      else decodeChecks (f.a != 0 || f.b != 0 || f.fn.extractLsb' 1 5 != 0 || f.imm.extractLsb' 3 29 != 0) false false
        (.rvote g f.d (f.imm.extractLsb' 0 3))
  | 0x6B => decodeDest f .tick
  | 0x6C => decodeChecks (f.b != 0 || f.fn != 0 || f.imm != 0) false false (.realign g f.d f.a)
  | 0x6D => decodeChecks (f.b != 0 || f.fn != 0) (high8 f.d) (!engScopeWf f.scope) (.tsend g f.scope (low3 f.d) f.a f.off)
  | 0x6E => decodeLatq f
  | 0x70 => (decodeChecks (f.a != 0 || f.b != 0 || f.fn != 0 || f.imm.extractLsb' 12 20 != 0) false false
      (.krd g f.d (f.imm.extractLsb' 0 12))).bind (decodeKindex hub (f.imm.extractLsb' 0 12))
  | 0x71 => (decodeChecks (f.d != 0 || f.b != 0 || f.fn != 0 || f.imm.extractLsb' 12 20 != 0) false false
      (.kwr g (f.imm.extractLsb' 0 12) f.a)).bind (decodeKindex hub (f.imm.extractLsb' 0 12))
  | 0x72 => decodeChecks (f.d != 0 || f.a != 0 || f.b != 0 || f.fn != 0 || f.imm.extractLsb' 8 24 != 0) false false
      (.trap g (f.imm.extractLsb' 0 8))
  | 0x73 => decodeBare f .tret
  | 0x74 => decodeChecks (f.a != 0 || f.b != 0 || f.fn != 0 || f.imm != 0) (high8 f.d) false (.ckpt g (low3 f.d))
  | 0x75 => decodeChecks (f.d != 0 || f.b != 0 || f.fn != 0 || f.imm != 0) false false (.est g f.a)
  | 0x76 => decodeChecks (f.b != 0 || f.fn != 0 || f.scope != 0) false false (.stopr g f.d f.a f.off)
  | 0x77 => decodeChecks (f.d != 0 || f.b != 0 || f.fn != 0 || f.imm != 0) false false (.idle g f.a)
  | _ => .error (.illegal 0x01)

/-- A strand word as a strand (`hub` false) or a hub core (`hub` true) decodes it, with the checks of R19 in their
order. -/
def decodeStrand (hub : Bool) (w : Word) : Except DecodeFault Instr :=
  let f := strandFields w
  if !opcAssigned f.opc.toNat then .error (.illegal 0x01)
  else if opcHub f.opc.toNat && !hub then .error .priv
  else if opcTile f.opc.toNat && hub then .error (.illegal 0x05)
  else decodeByOpc hub f

/-! ## Pattern words -/

/-- The fields of a pattern word (R29). -/
structure PatternFields where
  op  : BitVec 6
  d   : BitVec 4
  a   : BitVec 4
  b   : BitVec 4
  imm : BitVec 14
  deriving DecidableEq, Repr

/-- Table: Pattern word (R29). -/
def patternFields (w : Half) : PatternFields :=
  { op := w.extractLsb' 26 6, d := w.extractLsb' 22 4, a := w.extractLsb' 18 4, b := w.extractLsb' 14 4,
    imm := w.extractLsb' 0 14 }

/-- The word of given fields (R29). -/
def PatternFields.word (f : PatternFields) : Half := f.op ++ f.d ++ f.a ++ f.b ++ f.imm

/-- Pattern decoding by opcode, before the operand ranges are checked: a field that the entry does not use must be
zero (R29). -/
def decodePatternOp (f : PatternFields) : Option Instr :=
  match f.op.toNat with
  | 0x00 => if f.d == 0 && f.a == 0 && f.b == 0 && f.imm == 0 then some .pend else none
  | 0x01 => if f.a == 0 && f.b == 0 then some (.pset f.d f.imm) else none
  | 0x02 => if f.b == 0 && f.imm == 0 then some (.pmov f.d f.a) else none
  | 0x03 => if f.imm == 0 then some (.padd f.d f.a f.b) else none
  | 0x04 => if f.b == 0 then some (.paddi f.d f.a f.imm) else none
  | 0x05 => if f.imm == 0 then some (.psub f.d f.a f.b) else none
  | 0x06 => if f.imm == 0 then some (.pmul f.d f.a f.b) else none
  | 0x07 => if f.b == 0 then some (.pmuli f.d f.a f.imm) else none
  | 0x08 => if f.b == 0 then some (.pdivi f.d f.a f.imm) else none
  | 0x09 => if f.b == 0 then some (.pmodi f.d f.a f.imm) else none
  | 0x0A => if f.imm == 0 then some (.pand f.d f.a f.b) else none
  | 0x0B => if f.imm == 0 then some (.pxor f.d f.a f.b) else none
  | 0x0C => if f.b == 0 then some (.pshr f.d f.a f.imm) else none
  | 0x0D => if f.b == 0 then some (.pshl f.d f.a f.imm) else none
  | 0x0E => some (.phash f.d f.a f.b f.imm)
  | 0x0F => if f.imm == 0 then some (.pmin f.d f.a f.b) else none
  | 0x10 => if f.imm == 0 then some (.pmax f.d f.a f.b) else none
  | 0x11 => if f.b == 0 then some (.ploop f.d f.a f.imm) else none
  | 0x12 => some (.pbr f.d f.a f.b f.imm)
  | 0x13 => if f.d == 0 && f.imm == 0 then some (.pemit f.a f.b) else none
  | 0x14 => if f.imm == 0 then some (.pskip f.d f.a f.b) else none
  | 0x15 => if f.imm == 0 then some (.pband f.d f.a f.b) else none
  | 0x16 => some (.pdil f.d f.a f.b f.imm)
  | 0x17 => if f.b == 0 then some (.pbdiag f.d f.a f.imm) else none
  | 0x18 => if f.b == 0 && f.imm == 0 then some (.pkron f.d f.a) else none
  | 0x19 => if f.b == 0 then some (.ptab f.d f.a f.imm) else none
  | 0x1A => if f.b == 0 && f.imm == 0 then some (.pswap f.d f.a) else none
  | _ => none

/-- A pattern word that GLOAD accepts by itself: its opcode and unused fields (R29), and its operand limits (R129,
R131-R133). -/
def decodePattern (w : Half) : Option Instr :=
  match decodePatternOp (patternFields w) with
  | some i => if wellFormed i then some i else none
  | none => none

/-! ## Encoders -/

namespace Enc

/-- Fields of a word with a guard and an opcode, every other field zero. -/
def base (opc : BitVec 7) (g : Guard) : StrandFields :=
  { opc := opc, pg := g.pg, pn := if g.pn then 1 else 0, d := 0, a := 0, b := 0, fn := 0, imm := 0 }

/-- A predicate, token, or one of eight, in a 5-bit register field (R20). -/
def r8 (x : BitVec 3) : BitVec 5 := 0#2 ++ x
/-- A stream register in a 5-bit field (R20). -/
def r16 (x : BitVec 4) : BitVec 5 := 0#1 ++ x
/-- A generator context or install slot in a 5-bit field (R20). -/
def r4 (x : BitVec 2) : BitVec 5 := 0#3 ++ x
/-- One bit. -/
def bit (x : Bool) : BitVec 1 := if x then 1 else 0

/-- SR/SI forms (R21): FN[4:0] is given. -/
def alu (opc : BitVec 7) (g : Guard) (d a : SReg) (s : Src) (fn : BitVec 5) : StrandFields :=
  match s with
  | .reg b => { base opc g with d := d, a := a, b := b, fn := 0#1 ++ fn }
  | .imm v => { base opc g with d := d, a := a, fn := 1#1 ++ fn, imm := v }

/-- FN of an SM word (R22). -/
def smFn (o : SmOpt) : BitVec 6 := o.size ++ o.order ++ o.hint

/-- SM forms with a 29-bit offset (R22). -/
def sm (opc : BitVec 7) (g : Guard) (o : SmOpt) (d a b : SReg) (off : BitVec 29) : StrandFields :=
  { base opc g with d := d, a := a, b := b, fn := smFn o, imm := o.scope ++ off }

/-- A register field, a base and an offset (R99, R118, R136). -/
def ofs (opc : BitVec 7) (g : Guard) (d : BitVec 5) (a : SReg) (off : BitVec 29) : StrandFields :=
  { base opc g with d := d, a := a, imm := 0#3 ++ off }

/-- The same with options in FN and a scope (R120). -/
def ofsScoped (opc : BitVec 7) (g : Guard) (fn : BitVec 6) (scope : ScopeCode) (d : BitVec 5) (a : SReg) (off : BitVec 29) :
    StrandFields :=
  { base opc g with d := d, a := a, fn := fn, imm := scope ++ off }

end Enc

open Enc in
/-- The fields of a strand instruction, none for a step that has no strand word. -/
def encodeFields : Instr → Option StrandFields
  | .nop g => some (base 0x00 g)
  | .add g d a s => some (alu 0x01 g d a s 0)
  | .sub g d a s => some (alu 0x02 g d a s 0)
  | .mul g d a s => some (alu 0x03 g d a s 0)
  | .mulh g n d a s => some (alu 0x04 g d a s (0#4 ++ bit n))
  | .div g n d a s => some (alu 0x05 g d a s (0#4 ++ bit n))
  | .rem g n d a s => some (alu 0x06 g d a s (0#4 ++ bit n))
  | .and g d a s => some (alu 0x07 g d a s 0)
  | .or g d a s => some (alu 0x08 g d a s 0)
  | .xor g d a s => some (alu 0x09 g d a s 0)
  | .andn g d a s => some (alu 0x0A g d a s 0)
  | .shl g d a s => some (alu 0x0B g d a s 0)
  | .shr g d a s => some (alu 0x0C g d a s 0)
  | .sar g d a s => some (alu 0x0D g d a s 0)
  | .rot g d a s => some (alu 0x0E g d a s 0)
  | .min g n d a s => some (alu 0x0F g d a s (0#4 ++ bit n))
  | .max g n d a s => some (alu 0x10 g d a s (0#4 ++ bit n))
  | .clz g d a => some { base 0x11 g with d := d, a := a }
  | .ctz g d a => some { base 0x12 g with d := d, a := a }
  | .bcnt g d a => some { base 0x13 g with d := d, a := a }
  | .sel g d a b c => some { base 0x1A g with d := d, a := a, b := b, imm := c ++ 0#27 }
  | .ixa g sh d a s => some (alu 0x1B g d a s (0#2 ++ sh))
  | .bfx g n d a pos len => some { base 0x14 g with d := d, a := a, fn := 0#5 ++ bit n, imm := 0#19 ++ len ++ pos }
  | .bfi g d a pos len => some { base 0x15 g with d := d, a := a, imm := 0#19 ++ len ++ pos }
  | .sext g d a n => some { base 0x16 g with d := d, a := a, imm := 0#25 ++ n }
  | .zext g d a n => some { base 0x17 g with d := d, a := a, imm := 0#25 ++ n }
  | .movi g d imm => some { base 0x18 g with d := d, imm := imm }
  | .movh g d imm => some { base 0x19 g with d := d, imm := imm }
  | .cmp g c n d a s => some (alu 0x20 g (r8 d) a s (0#1 ++ c ++ bit n))
  | .plog g op d a b => some { base 0x21 g with d := r8 d, a := r8 a, b := r8 b, fn := 0#3 ++ op }
  | .pmovGet g d => some { base 0x22 g with d := d }
  | .pmovSet g a m => some { base 0x22 g with a := a, fn := 1, imm := 0#24 ++ m }
  | .pmovPred g d v => some { base 0x22 g with d := r8 d, fn := 2, imm := 0#31 ++ bit v }
  | .br g off => some { base 0x28 g with imm := off }
  | .call g off => some { base 0x2A g with imm := off }
  | .brx g l a => some { base 0x29 g with a := a, fn := 0#5 ++ bit l }
  | .ret g a => some { base 0x2B g with a := a }
  | .loop g d a last => some { base 0x2C g with d := d, a := a, imm := 0#12 ++ last }
  | .loopBrk g => some { base 0x2C g with fn := 1 }
  | .itnext g d p => some { base 0x2D g with d := d, b := r8 p }
  | .yield g => some (base 0x2E g)
  | .halt g => some (base 0x2F g)
  | .ld g o d a b off => some (sm 0x30 g o d a b off)
  | .st g o d a b off => some (sm 0x31 g o d a b off)
  | .ld2 g o d a b off => some (sm 0x32 g o d a b off)
  | .st2 g o d a b off => some (sm 0x33 g o d a b off)
  | .atom g o aop d a b off =>
      some { base 0x34 g with d := d, a := a, b := b, fn := smFn o, imm := o.scope ++ aop ++ off }
  | .cas g o d a b off => some (sm 0x35 g o d a b off)
  | .pref g span nc a b off => some { base 0x36 g with a := a, b := b, fn := span ++ 0#3 ++ bit nc, imm := 0#3 ++ off }
  | .apcvRel g sp d a => some { base 0x37 g with d := d, a := a, fn := 0#4 ++ sp }
  | .apcvGen g sp d a => some { base 0x37 g with d := d, a := a, fn := 1#1 ++ 0#3 ++ sp }
  | .apin g sp d a => some { base 0x38 g with d := r8 d, a := a, fn := 0#4 ++ sp }
  | .fence g pr pw sr sw scope =>
      some { base 0x39 g with fn := 0#2 ++ bit pr ++ bit pw ++ bit sr ++ bit sw, imm := scope ++ 0#29 }
  | .meetArrive g scope d slot n => some { base 0x3A g with d := d, imm := scope ++ 0#9 ++ slot ++ n }
  | .meetWait g scope a slot => some { base 0x3A g with a := a, fn := 1, imm := scope ++ 0#9 ++ slot ++ 0#16 }
  | .meetAw g scope d slot n => some { base 0x3A g with d := d, fn := 2, imm := scope ++ 0#9 ++ slot ++ n }
  | .wait g any d m => some { base 0x3B g with d := r8 d, fn := 0#5 ++ bit any, imm := 0#24 ++ m }
  | .tokqGet g d t => some { base 0x3C g with d := d, a := r8 t }
  | .tokqAll g d => some { base 0x3C g with d := d, fn := 1 }
  | .tokqClr g t => some { base 0x3C g with a := r8 t, fn := 2 }
  | .cpy g t a off => some (ofs 0x40 g (r8 t) a off)
  | .cpys g k a off => some (ofs 0x41 g (r8 k) a off)
  | .stage g k inc => some { base 0x42 g with d := r8 k, imm := 0#24 ++ inc }
  | .cpyx g t a off => some (ofs 0x43 g (r8 t) a off)
  | .coll g t a off => some (ofs 0x44 g (r8 t) a off)
  | .qset g q a off => some (ofs 0x48 g (r16 q) a off)
  | .qind g z q qa qb => some { base 0x49 g with d := r16 q, a := r16 qa, b := r16 qb, fn := 0#5 ++ bit z }
  | .qindFeed g z q qa qb f t =>
      some { base 0x49 g with d := r16 q, a := r16 qa, b := r16 qb, fn := 0#4 ++ 1#1 ++ bit z, imm := 0#26 ++ t ++ f }
  | .qrd g sx d q => some { base 0x4A g with d := d, a := r16 q, fn := 0#5 ++ bit sx }
  | .qposGet g d q => some { base 0x4B g with d := d, a := r16 q }
  | .qposSet g q b => some { base 0x4B g with a := r16 q, b := b, fn := 1 }
  | .qflag g d q k => some { base 0x4C g with d := r8 d, a := r16 q, imm := 0#29 ++ k }
  | .qclr g fl q => some { base 0x4D g with a := r16 q, fn := 0#5 ++ bit fl }
  | .merge g comb kz vf tof scope t a off =>
      some (ofsScoped 0x50 g (bit tof ++ bit vf ++ bit kz ++ comb) scope (r8 t) a off)
  | .route g scope t a off => some (ofsScoped 0x51 g 0 scope (r8 t) a off)
  | .hacc g comb vf scope t a off => some (ofsScoped 0x52 g (0#3 ++ bit vf ++ comb) scope (r8 t) a off)
  | .hflush g keep scope t a off => some (ofsScoped 0x53 g (0#5 ++ bit keep) scope (r8 t) a off)
  | .gload g x a off => some (ofs 0x58 g (r4 x) a off)
  | .grun g scope x b f t => some { base 0x59 g with d := r4 x, b := b, imm := scope ++ 0#23 ++ f ++ t }
  | .grunT g scope x f t => some { base 0x59 g with d := r4 x, fn := 1, imm := scope ++ 0#23 ++ f ++ t }
  | .ginv g scope x b a cap t => some { base 0x5A g with d := r4 x, a := a, b := b, imm := scope ++ 0#8 ++ cap ++ t }
  | .gsave g x a off => some (ofs 0x5B g (r4 x) a off)
  | .grest g x a off => some (ofs 0x5C g (r4 x) a off)
  | .bload g k a off => some (ofs 0x60 g (r4 k) a off)
  | .brun g scope t k => some { base 0x61 g with d := r8 t, imm := scope ++ 0#27 ++ k }
  | .barg g n b => some { base 0x62 g with b := b, imm := 0#26 ++ n }
  | .bdrain g => some (base 0x63 g)
  | .bstat g d x => some { base 0x64 g with d := d, imm := 0#30 ++ x }
  | .bkill g => some (base 0x65 g)
  | .bswap g scope t m => some { base 0x66 g with d := r8 t, imm := scope ++ 0#25 ++ m }
  | .reform g use own => some { base 0x67 g with imm := 0#20 ++ use ++ own }
  | .gear g hi sp => some { base 0x68 g with imm := 0#27 ++ bit hi ++ 0#1 ++ sp }
  | .spine g sp => some { base 0x69 g with imm := 0#29 ++ sp }
  | .rvote g d lv => some { base 0x6A g with d := d, imm := 0#29 ++ lv }
  | .rvoteOff g d => some { base 0x6A g with d := d, fn := 1 }
  | .tick g d => some { base 0x6B g with d := d }
  | .realign g d a => some { base 0x6C g with d := d, a := a }
  | .tsend g scope t a off => some (ofsScoped 0x6D g 0 scope (r8 t) a off)
  | .latq g d a b => some { base 0x6E g with d := d, a := a, b := b }
  | .latqNow g d => some { base 0x6E g with d := d, fn := 1 }
  | .latqRaw g d => some { base 0x6E g with d := d, fn := 2 }
  | .krd g d idx => some { base 0x70 g with d := d, imm := 0#20 ++ idx }
  | .kwr g idx a => some { base 0x71 g with a := a, imm := 0#20 ++ idx }
  | .trap g code => some { base 0x72 g with imm := 0#24 ++ code }
  | .tret g => some (base 0x73 g)
  | .ckpt g d => some { base 0x74 g with d := r8 d }
  | .est g a => some { base 0x75 g with a := a }
  | .stopr g d a off => some (ofs 0x76 g d a off)
  | .idle g a => some { base 0x77 g with a := a }
  | _ => none

/-- The word of a strand instruction (R18), none for a step that has no strand word. -/
def encodeStrand (i : Instr) : Option Word := (encodeFields i).map StrandFields.word

/-- The fields of a pattern instruction (R29), none for any other step. -/
def encodePatternFields : Instr → Option PatternFields
  | .pend => some ⟨0x00, 0, 0, 0, 0⟩
  | .pset d imm => some ⟨0x01, d, 0, 0, imm⟩
  | .pmov d a => some ⟨0x02, d, a, 0, 0⟩
  | .padd d a b => some ⟨0x03, d, a, b, 0⟩
  | .paddi d a imm => some ⟨0x04, d, a, 0, imm⟩
  | .psub d a b => some ⟨0x05, d, a, b, 0⟩
  | .pmul d a b => some ⟨0x06, d, a, b, 0⟩
  | .pmuli d a imm => some ⟨0x07, d, a, 0, imm⟩
  | .pdivi d a imm => some ⟨0x08, d, a, 0, imm⟩
  | .pmodi d a imm => some ⟨0x09, d, a, 0, imm⟩
  | .pand d a b => some ⟨0x0A, d, a, b, 0⟩
  | .pxor d a b => some ⟨0x0B, d, a, b, 0⟩
  | .pshr d a imm => some ⟨0x0C, d, a, 0, imm⟩
  | .pshl d a imm => some ⟨0x0D, d, a, 0, imm⟩
  | .phash d a b imm => some ⟨0x0E, d, a, b, imm⟩
  | .pmin d a b => some ⟨0x0F, d, a, b, 0⟩
  | .pmax d a b => some ⟨0x10, d, a, b, 0⟩
  | .ploop d a imm => some ⟨0x11, d, a, 0, imm⟩
  | .pbr c a b imm => some ⟨0x12, c, a, b, imm⟩
  | .pemit a b => some ⟨0x13, 0, a, b, 0⟩
  | .pskip c a b => some ⟨0x14, c, a, b, 0⟩
  | .pband d a b => some ⟨0x15, d, a, b, 0⟩
  | .pdil d a b imm => some ⟨0x16, d, a, b, imm⟩
  | .pbdiag d a imm => some ⟨0x17, d, a, 0, imm⟩
  | .pkron d a => some ⟨0x18, d, a, 0, 0⟩
  | .ptab d a imm => some ⟨0x19, d, a, 0, imm⟩
  | .pswap d a => some ⟨0x1A, d, a, 0, 0⟩
  | _ => none

/-- The word of a pattern instruction (R29), none for any other step. -/
def encodePattern (i : Instr) : Option Half := (encodePatternFields i).map PatternFields.word

/-- A strand instruction that only a hub core may issue: the H instructions of R24, and KRD and KWR of an H register. -/
def hubOnly : Instr → Bool
  | .tret _ => true
  | .stopr _ _ _ _ => true
  | .idle _ _ => true
  | .krd _ _ idx => kregPriv idx.toNat == some .hub
  | .kwr _ idx _ => kregPriv idx.toNat == some .hub
  | _ => false

/-- What the decoder reads from an instruction whose bits are `w`: 32-bit rows are pattern words (R29), 64-bit rows are
strand words (R18), read as a strand reads them and, for hub-only words, as a hub core does. -/
def decodeTableWord (nbits w : Nat) : Option Instr :=
  if nbits ≤ 32 then decodePattern (BitVec.ofNat 32 w)
  else
    match decodeStrand false (BitVec.ofNat 64 w) with
    | .ok i => some i
    | .error .priv =>
      match decodeStrand true (BitVec.ofNat 64 w) with
      | .ok i => some i
      | .error _ => none
    | .error (.illegal _) => none

end Sys2Proof
end

