-- ==== Sys2Proof/Machine/Fetch.lean ====
section
/-! DEFINITION. Fetching: a strand's or hub core's word at its PC (R18, R23), a generator's word at its PC (R131), and the
placing of a word where the next step fetches. -/

namespace Sys2Proof.Machine

/-- Whether the part has a unit (R1, R14). -/
def turnOk : Turn → Bool
  | .tile d t => decide (d < Config.dies) && decide (t < Config.tilesPerDie)
  | .hub d c => decide (d < Config.dies) && decide (c < Config.hubsPerDie)
  | .gen d t g => decide (d < Config.dies) && decide (t < Config.tilesPerDie) && decide (g < 4)

/-- What an agent has arrived at with a MEET that it has not gone on from counts only at that PC: once it is elsewhere, and in no handler, the arrival
is spent (R287, R288). -/
def leaveMet (s : State) (a : Agent) : State :=
  s.modCtx a (fun c => if c.hstat then c else { c with met := c.met.filter (fun e => e.1 == c.pc.toNat) })

/-- Fetch the 8 bytes at an agent's PC; a translation that fails raises its fault, and a fetch that a migration holds or that is remote
waits for its home (R23, R47, R48). Its bytes are metered as those of every access (R338); the frame counters count loads, stores, atomics
and copies only (R46). -/
def fetchWord (s : State) (a : Agent) : State × Try Word :=
  match readNeed (leaveMet (leaveProbes s a) a) (s.req a true) .fetch (s.ctx a).pc 8 with
  | (s, .fault f) => (s, .fault f)
  | (s, .later) => (s, .later)
  | (s, .ok bs) => (s, .ok (BitVec.ofNat 64 (leNat bs)))

/-- The fault that a decode check raises (R19, R25). -/
def decodeFaultInfo : DecodeFault → FaultInfo
  | .illegal k => flt clsIllegal k.toNat
  | .priv => flt clsPriv 0

/-- Whether a generator context may execute a word: it is in RUN, all coordinates of its last word are emitted, and its
run walks its program (R131, R137, R138). -/
def genReady (s : State) (d t g : Nat) : Bool :=
  let x := s.gen d t g
  x.st == .run && x.todo.isEmpty && !x.ended && x.fault.isNone && decide (x.steps < 2 ^ 32) &&
  (s.tile d t).st == .run && !s.shake && !(s.tile d t).dead.any (· == 6) &&
  (match x.mode with
  | .transposed .. => false
  | _ => true) &&
  (match (s.holder d t).bind s.task with
  | none => true
  | some k => k.halt.isNone)

/-- The generator context whose turn it is, when it may execute. -/
def State.generator (s : State) : Option (Nat × Nat × Nat) :=
  match s.cur with
  | .gen d t g => if genReady s d t g then some (d, t, g) else none
  | _ => none

/-- The decoded word at a generator's PC. -/
def genWord (s : State) (d t g : Nat) : Option Instr := ((s.gen d t g).prog[(s.gen d t g).pc]?).bind decodePattern

/-- Place a pattern word as the whole program of context 0 of tile 0 of die 0, running. -/
def placePattern (s : State) (w : Half) : State :=
  { s.setGen 0 0 0 { s.gen 0 0 0 with st := .run, prog := [w], pc := 0, todo := [], ended := false, fault := none, mode := .none, steps := 0 }
    with cur := .gen 0 0 0, moves := [], shake := false, tiles := tdel s.tiles (tileKey 0 0) }

/-- Place a word at byte 0 of slice 0 of die 0's buffer, at the PC of hub core 0, running. -/
def placeHub (s : State) (w : Word) : State :=
  let a := Agent.hub 0 0
  let s := writeLoc s (dbLoc 0 0 0) (leBytes 8 w.toNat)
  { s.setCtx a { s.ctx a with run := .running, pc := 0, apDie := 1, apTile := 0, apClus := 0, stall := .none, frozen := false, fault := none, task := none }
    with cur := .hub 0 0, moves := [] }

/-- Place a word at byte 0 of tile buffer 0 of die 0, at the PC of its strand 0, running without a task. -/
def placeStrand (s : State) (w : Word) : State :=
  let a := Agent.strand 0 0 0
  let s := writeLoc s (tbLoc 0 0 0) (leBytes 8 w.toNat)
  { (s.setCtx a { s.ctx a with run := .running, pc := 0, apTile := 1, apDie := 0x20000001, stall := .none, frozen := false, fault := none, task := none }).setTile 0 0
      { s.tile 0 0 with st := .run, last := 3 }
    with cur := .tile 0 0, moves := [], shake := false }

end Sys2Proof.Machine
end

