-- ==== Sys2Proof/Machine/Generator.lean ====
section
/-! DEFINITION. The index generator: pattern images, the pattern instructions, and the strand instructions that run a
generator context (R128-R140). -/

namespace Sys2Proof.Machine

/-! ## Checking a program (R129) -/

/-- A loop of a program: the word of its PLOOP and the last word of its body. -/
abbrev LoopSpan := Nat × Nat

/-- The decoded words of a program. -/
def progWords (ws : List Half) : List (Option Instr) := ws.map decodePattern

/-- The loops of a program. -/
def loopSpans : List (Option Instr) → Nat → List LoopSpan
  | [], _ => []
  | some (.ploop _ _ imm) :: l, h => (h, h + imm.toNat) :: loopSpans l (h + 1)
  | _ :: l, h => loopSpans l (h + 1)

/-- Whether a word lies in the body of a loop. -/
def inBody (l : LoopSpan) (w : Nat) : Bool := decide (l.1 < w) && decide (w ≤ l.2)

/-- The loops whose bodies hold a word. -/
def bodiesOf (ls : List LoopSpan) (w : Nat) : List LoopSpan := ls.filter (fun l => inBody l w)

/-- The innermost body that holds a word, by its PLOOP. -/
def innermost (ls : List LoopSpan) (w : Nat) : Option Nat := (bodiesOf ls w).foldl (fun m l =>
  match m with
  | none => some l.1
  | some x => some (max x l.1)) none

/-- Whether a word breaks a rule of R129 beyond its own fields. -/
def wordBad (ls : List LoopSpan) (ws : List (Option Instr)) (n k : Nat) : Bool :=
  match (ws[k]?).join with
  | none => true
  | some (.ploop _ _ imm) =>
    let e := k + imm.toNat
    decide (n ≤ e) || (bodiesOf ls k).any (fun l => decide (l.2 < e) || l.2 == k) || decide (4 ≤ (bodiesOf ls k).length)
  | some (.pbr _ _ _ imm) =>
    let t : Int := k + imm.toInt
    decide (t < 0) || decide ((n : Int) ≤ t) || innermost ls k != innermost ls t.toNat
  | some (.pskip ..) =>
    ls.any (fun l => l.2 == k) ||
    (match (ws[k + 1]?).join with
    | some (.ploop ..) => true
    | _ => false)
  | some _ => false

/-- The first word of a program that GLOAD rejects. -/
def badWord (ws : List Half) : Option Nat :=
  let is := progWords ws
  (List.range ws.length).find? (wordBad (loopSpans is 0) is ws.length)

/-- Whether the bounds and the count of an image are malformed (R129). -/
def badBounds (count nr nc : Nat) : Bool :=
  count == 0 || decide (64 < count) || nr == 0 || decide (2 ^ 31 ≤ nr) || nc == 0 || decide (2 ^ 31 ≤ nc)

/-- Whether a word without its IMM14 decodes with one that every OP with an immediate admits, or with none. -/
def decodesBare (w : Half) : Bool := (decodePattern (w &&& 0xFFFFC000#32)).isSome || (decodePattern (w &&& 0xFFFFC000#32 ||| 1)).isSome

/-- The position of the field of a pattern word that breaks a rule: the first from the top that does (R29, R129). A word whose fields are right
breaks a rule of its place by its target, or, for a PSKIP, by its OP. -/
def badField (w : Half) : Nat :=
  if !decodesBare (w &&& 0xFC000000#32) then 26
  else if !decodesBare (w &&& 0xFFC00000#32) then 22
  else if !decodesBare (w &&& 0xFFFC0000#32) then 18
  else if !decodesBare w then 14
  else
    match decodePattern w with
    | some (.pskip ..) => 26
    | _ => 0

/-- GEN detail 0x01 with the index of the word and the position of the field (R129, R134, R341). -/
def genWordFault (ws : List Half) (k : Nat) : FaultInfo :=
  { flt clsGen 1 with info0 := BitVec.ofNat 64 k, info1 := BitVec.ofNat 64 (badField (ws.getD k 0)) }

/-- A fault of class GEN with the context's GBAD and EMIT (R341). -/
def genInfo (det : Nat) (x : Gen) : FaultInfo := { flt clsGen det with info0 := x.bad, info1 := BitVec.ofNat 64 x.emit }

/-- The words of four bytes of a byte string. -/
def halves (bs : List Byte) : List Half := (elemsOf 4 bs).map (BitVec.ofNat 32)

/-! ## GLOAD (R136) -/

/-- Whether a context is in RUN. -/
def genRunning (x : Gen) : Bool := x.st == .run

/-- The context that a checked image gives. -/
def genOfProg (bs : List Byte) (ws : List Half) (old : Gen) : Gen :=
  let v (i : Nat) : Nat := leNat ((bs.drop (8 * i)).take 8)
  { old with
    st := .ready, x := [], prog := ws, kt0 := BitVec.ofNat 64 (v 2), kt1 := BitVec.ofNat 64 (v 3)
    nr := BitVec.ofNat 32 (bitsOf (v 1) 31 0), nc := BitVec.ofNat 32 (bitsOf (v 1) 63 32)
    emit := 0, clip := 0, walk := false, todo := [], got := [], ended := false, mode := .none }

/-- GLOAD (R136). -/
def execGload (g : Guard) (x : GReg) (a : SReg) (off : BitVec 29) (s : State) : Host.Outcome State Fault Refusal :=
  runStrand g s (fun s u =>
    let da := baseOff (s.ctx u) a off
    let c := s.gen u.die u.tile x.toNat
    if genRunning c then .fault s (flt clsToken 9)
    else if !aligned da 16 then .fault s (flt clsAlign 1 da)
    else
      match readLoads s (s.req u) da 4 with
      | (s, .fault f) => .fault s f
      | (s1, .later) => .wait (s.waiting s1)
      | (s1, .ok h) =>
        let v (i : Nat) : Nat := leNat ((h.drop (8 * i)).take 8)
        let count := bitsOf (v 0) 6 0
        if v 0 / 2 ^ 7 ≠ 0 || badBounds count (bitsOf (v 1) 31 0) (bitsOf (v 1) 63 32) then .fault s1 (genInfo 6 c)
        else
          match readLoads s1 (s1.req u) (da + 32) ((count + 1) / 2) with
          | (s, .fault f) => .fault s f
          | (s2, .later) => .wait (s.waiting s2)
          | (s, .ok bs) =>
            let ws := halves (bs.take (4 * count))
            match badWord ws with
            | some k => .fault s (genWordFault ws k)
            | none => .ok (s.setGen u.die u.tile x.toNat (genOfProg h ws c)))

/-! ## Executing pattern words (R131-R133) -/

/-- x[n] of a context. -/
def Gen.getX (x : Gen) (n : XReg) : Half := tget x.x n.toNat 0
/-- Write x[n] of a context. -/
def Gen.putX (x : Gen) (n : XReg) (v : Half) : Gen := { x with x := tset x.x n.toNat v }

/-- The loop-end step after the word at `e` (R132). -/
def genLoopEnd (e : Nat) : List GenLoop → Gen → Gen
  | [], x => { x with loops := [], pc := e + 1 }
  | l :: ls, x =>
    if l.last = e then
      if l.i + 1 < l.n then { x with loops := { l with i := l.i + 1 } :: ls, pc := l.head }.putX l.xreg (BitVec.ofNat 32 (l.i + 1))
      else genLoopEnd e ls x
    else { x with loops := l :: ls, pc := e + 1 }

/-- The run ends when PC has reached COUNT (R131). -/
def Gen.checkEnd (x : Gen) : Gen := if x.prog.length ≤ x.pc then { x with ended := true, loops := [] } else x

/-- The word at PC completes. -/
def Gen.wordDone (x : Gen) : Gen := (genLoopEnd x.pc x.loops x).checkEnd

/-- What a pattern word comes to. -/
inductive GStep where
  /-- it completes -/
  | next (x : Gen)
  /-- it transfers to a word -/
  | jump (x : Gen) (pc : Nat)
  /-- it completes and skips the next word -/
  | skip (x : Gen)
  /-- it ends the run -/
  | stop (x : Gen)
  /-- it produces coordinates -/
  | emit (cs : List (Half × Half))

/-- Whether a coordinate is clipped (R131). -/
def clipped (x : Gen) (r c : Half) : Bool :=
  decide (r.toInt < 0) || decide (x.nr.toInt ≤ r.toInt) || decide (c.toInt < 0) || decide (x.nc.toInt ≤ c.toInt)

/-- The FIFO entry of a coordinate (R131). -/
def coordVal (r c : Half) : Val := plainVal (r.toNat + c.toNat * 2 ^ 32)

/-- A coordinate as the dword of a table or of GBAD (R135, R138). -/
def coordWord (e : Half × Half) : Word := BitVec.ofNat 64 (e.1.toNat + e.2.toNat * 2 ^ 32)

/-- The agent and token of a context's run. -/
def runToken : GenRun → Option (Agent × Nat)
  | .none => none
  | .push a _ t => some (a, t.toNat)
  | .transposed a _ t _ => some (a, t.toNat)
  | .collect a t _ => some (a, t.toNat)

/-- Release the FIFO of a context's run (R116, R137). -/
def dropGenFifo (s : State) (d t g : Nat) : State :=
  match (s.gen d t g).mode with
  | .push a f _ => modFifo s a f.toNat (dropProducer (.gen (genKey d t g)))
  | .transposed a f _ _ => modFifo s a f.toNat (dropProducer (.gen (genKey d t g)))
  | _ => s

/-- The context after a run: READY. -/
def Gen.idle (x : Gen) : Gen := { x with st := .ready, mode := .none, todo := [], got := [], ended := false, x0s := [] }

/-- Write coordinates to a GINV's table from its first entry (R138). -/
def writeTable (s : State) (d t g : Nat) (es : List (Half × Half)) : State :=
  match runToken (s.gen d t g).mode with
  | none => s
  | some (a, k) =>
    match s.op a k with
    | none => s
    | some o =>
      if es.isEmpty then s
      else (writeGen s (s.opReq o) (s.gen d t g).walkAt (es.flatMap (fun e => leBytes 8 (coordWord e).toNat))).1

/-- A fault of class GEN in a run: the run ends, its token goes to ERROR with cause 0x01, the context is READY (R134). A
GINV's table keeps what was collected (R138). -/
def genFault (s : State) (d t g det : Nat) (bad : Option (Half × Half)) : State :=
  let x := s.gen d t g
  let s1 := dropGenFifo (writeTable s d t g x.got) d t g
  let n := match x.mode with
    | .collect .. => x.got.length
    | _ => x.emit
  let b := match bad with
    | some e => coordWord e
    | none => x.bad
  let s2 := s1.setGen d t g { x.idle with bad := b, emit := n }
  match runToken x.mode with
  | none => s2
  | some (a, k) => opFault s2 a k (genInfo det { x with bad := b, emit := n })

/-- Produce the coordinates of the word at PC in order: each is clipped, or emitted by the rules of the run; a full FIFO
stalls the context at its coordinate; after the last, the word completes (R131, R137, R138). -/
def emitAll (d t g : Nat) : List (Half × Half) → State → State
  | [], s => s.setGen d t g { (s.gen d t g) with todo := [] }.wordDone
  | e :: es, s =>
    let x := s.gen d t g
    if clipped x e.1 e.2 then emitAll d t g es (s.setGen d t g { x with clip := min (x.clip + 1) (2 ^ 29 - 1) })
    else
      let y := { x with emit := min (x.emit + 1) (2 ^ 32 - 1) }
      match x.mode with
      | .push a f k =>
        if (agentFifo s a f.toNat).room = 0 then s.setGen d t g { x with todo := e :: es }
        else emitAll d t g es (noteProgress (modFifo (s.setGen d t g y) a f.toNat (fun z => z.push (coordVal e.1 e.2))) a k.toNat)
      | .collect _ _ cap =>
        if x.got.contains e then genFault s d t g 2 (some e)
        else if x.got.length = cap then genFault s d t g 3 (some e)
        else emitAll d t g es (s.setGen d t g { y with got := x.got ++ [e] })
      | .none | .transposed .. => emitAll d t g es (s.setGen d t g y)

/-- A context executes a word. -/
def genExec (s : State) (d t g : Nat) (f : Gen → GStep) : State :=
  let x := { s.gen d t g with steps := (s.gen d t g).steps + 1 }
  match f x with
  | .next y => s.setGen d t g y.wordDone
  | .jump y pc => s.setGen d t g { y with pc := pc }.checkEnd
  | .skip y =>
    let z := { y with pc := y.pc + 1 }
    s.setGen d t g (if z.prog.length ≤ z.pc then z.checkEnd else { z with steps := z.steps + 1 }.wordDone)
  | .stop y => s.setGen d t g { y with ended := true, loops := [] }
  | .emit cs => emitAll d t g cs (s.setGen d t g x)

/-- The current context executes a word with an effect; a unit that may not execute does nothing. -/
def runPattern (s : State) (f : Gen → GStep) : Host.Outcome State Fault Refusal :=
  match s.generator with
  | none => .next s
  | some (d, t, g) => .next (genExec s d t g f)

/-- A word that writes one register. -/
def patternSet (s : State) (d : XReg) (f : Gen → Half) : Host.Outcome State Fault Refusal :=
  runPattern s (fun x => .next (x.putX d (f x)))

/-- PEND (R132). -/
def execPend (s : State) : Host.Outcome State Fault Refusal := runPattern s .stop
/-- PSET (R131). -/
def execPset (d : XReg) (imm : BitVec 14) (s : State) : Host.Outcome State Fault Refusal :=
  patternSet s d (fun _ => imm.signExtend 32)
/-- PMOV (R131). -/
def execPmov (d a : XReg) (s : State) : Host.Outcome State Fault Refusal := patternSet s d (fun x => x.getX a)
/-- PADD (R131). -/
def execPadd (d a b : XReg) (s : State) : Host.Outcome State Fault Refusal := patternSet s d (fun x => x.getX a + x.getX b)
/-- PADDI (R131). -/
def execPaddi (d a : XReg) (imm : BitVec 14) (s : State) : Host.Outcome State Fault Refusal :=
  patternSet s d (fun x => x.getX a + imm.signExtend 32)
/-- PSUB (R131). -/
def execPsub (d a b : XReg) (s : State) : Host.Outcome State Fault Refusal := patternSet s d (fun x => x.getX a - x.getX b)
/-- PMUL (R131). -/
def execPmul (d a b : XReg) (s : State) : Host.Outcome State Fault Refusal := patternSet s d (fun x => x.getX a * x.getX b)
/-- PMULI (R131). -/
def execPmuli (d a : XReg) (imm : BitVec 14) (s : State) : Host.Outcome State Fault Refusal :=
  patternSet s d (fun x => x.getX a * imm.signExtend 32)
/-- PDIVI: the floor of the signed quotient (R131). -/
def execPdivi (d a : XReg) (imm : BitVec 14) (s : State) : Host.Outcome State Fault Refusal :=
  patternSet s d (fun x => BitVec.ofInt 32 ((x.getX a).toInt.fdiv imm.toInt))
/-- PMODI (R131). -/
def execPmodi (d a : XReg) (imm : BitVec 14) (s : State) : Host.Outcome State Fault Refusal :=
  patternSet s d (fun x => BitVec.ofInt 32 ((x.getX a).toInt.fmod imm.toInt))
/-- PAND (R131). -/
def execPand (d a b : XReg) (s : State) : Host.Outcome State Fault Refusal := patternSet s d (fun x => x.getX a &&& x.getX b)
/-- PXOR (R131). -/
def execPxor (d a b : XReg) (s : State) : Host.Outcome State Fault Refusal := patternSet s d (fun x => x.getX a ^^^ x.getX b)
/-- PSHR (R131). -/
def execPshr (d a : XReg) (imm : BitVec 14) (s : State) : Host.Outcome State Fault Refusal :=
  patternSet s d (fun x => x.getX a >>> imm.toNat)
/-- PSHL (R131). -/
def execPshl (d a : XReg) (imm : BitVec 14) (s : State) : Host.Outcome State Fault Refusal :=
  patternSet s d (fun x => x.getX a <<< imm.toNat)
/-- PHASH (R131). -/
def execPhash (d a b : XReg) (imm : BitVec 14) (s : State) : Host.Outcome State Fault Refusal :=
  patternSet s d (fun x => ((x.getX a ^^^ x.getX b) * 0x2545F491#32) >>> (32 - imm.toNat))
/-- PMIN (R131). -/
def execPmin (d a b : XReg) (s : State) : Host.Outcome State Fault Refusal :=
  patternSet s d (fun x => if (x.getX a).slt (x.getX b) then x.getX a else x.getX b)
/-- PMAX (R131). -/
def execPmax (d a b : XReg) (s : State) : Host.Outcome State Fault Refusal :=
  patternSet s d (fun x => if (x.getX a).slt (x.getX b) then x.getX b else x.getX a)
/-- The value that PTAB looks up (R131). -/
def tabValue (x : Gen) (v : Half) (sel : Nat) : Half :=
  let k := if sel % 2 = 0 then x.kt0.toNat else x.kt1.toNat
  if sel < 2 then (if k.testBit (v.toNat % 64) then 1 else 0) else BitVec.ofNat 32 (k / 256 ^ (v.toNat % 8) % 256)
/-- PTAB (R131). -/
def execPtab (d a : XReg) (imm : BitVec 14) (s : State) : Host.Outcome State Fault Refusal :=
  patternSet s d (fun x => tabValue x (x.getX a) imm.toNat)
/-- PSWAP (R131). -/
def execPswap (d a : XReg) (s : State) : Host.Outcome State Fault Refusal :=
  runPattern s (fun x => .next ((x.putX d (x.getX a)).putX a (x.getX d)))

/-- PLOOP at the word at PC (R132). -/
def patternLoop (d a : XReg) (imm : BitVec 14) (x : Gen) : GStep :=
  let n := (x.getX a).toInt
  if n ≤ 0 then .jump (x.putX d 0) (x.pc + imm.toNat + 1)
  else .jump ({ x with loops := ⟨0, n.toNat, x.pc + 1, x.pc + imm.toNat, d⟩ :: x.loops }.putX d 0) (x.pc + 1)
/-- PLOOP (R132). -/
def execPloop (d a : XReg) (imm : BitVec 14) (s : State) : Host.Outcome State Fault Refusal := runPattern s (patternLoop d a imm)

/-- The condition of PBR and PSKIP (R132). -/
def patternCond (x : Gen) (cond a b : XReg) : Bool :=
  match cond.toNat with
  | 0 => true
  | 1 => x.getX a == x.getX b
  | 2 => x.getX a != x.getX b
  | 3 => (x.getX a).slt (x.getX b)
  | _ => !(x.getX a).slt (x.getX b)
/-- PBR (R132). -/
def execPbr (cond a b : XReg) (imm : BitVec 14) (s : State) : Host.Outcome State Fault Refusal :=
  runPattern s (fun x => if patternCond x cond a b then .jump x ((x.pc : Int) + imm.toInt).toNat else .next x)
/-- PSKIP (R132). -/
def execPskip (cond a b : XReg) (s : State) : Host.Outcome State Fault Refusal :=
  runPattern s (fun x => if patternCond x cond a b then .skip x else .next x)

/-- A span of integers from `lo` up to `hi`. -/
def intSpan (lo hi : Int) : List Int := (List.range (hi + 1 - lo).toNat).map (fun (i : Nat) => lo + i)
/-- The coordinates of a band or a dilated band (R133). -/
def bandCoords (x : Gen) (d a b : XReg) (k : Int) : List (Half × Half) :=
  (intSpan (-(x.getX a).toInt) (x.getX b).toInt).map (fun j => (x.getX d, x.getX d + BitVec.ofInt 32 (k * j)))
/-- PEMIT (R133). -/
def execPemit (a b : XReg) (s : State) : Host.Outcome State Fault Refusal :=
  runPattern s (fun x => .emit [(x.getX a, x.getX b)])
/-- PBAND (R133). -/
def execPband (d a b : XReg) (s : State) : Host.Outcome State Fault Refusal :=
  runPattern s (fun x => .emit (bandCoords x d a b 1))
/-- PDIL (R133). -/
def execPdil (d a b : XReg) (imm : BitVec 14) (s : State) : Host.Outcome State Fault Refusal :=
  runPattern s (fun x => .emit (bandCoords x d a b imm.toInt))
/-- PBDIAG (R133). -/
def execPbdiag (d a : XReg) (imm : BitVec 14) (s : State) : Host.Outcome State Fault Refusal :=
  runPattern s (fun x =>
    let base := BitVec.ofInt 32 (((x.getX d).toInt.fdiv imm.toInt + (x.getX a).toInt) * imm.toInt)
    .emit ((List.range imm.toNat).map (fun j => (x.getX d, base + BitVec.ofNat 32 j))))
/-- The columns of a Kronecker row that are present (R133). -/
def kronCols (x : Gen) (r : Nat) : List Nat :=
  (List.range 64).filter (fun c => x.kt0.toNat.testBit (8 * (r / 8) + c / 8) && x.kt1.toNat.testBit (8 * (r % 8) + c % 8))
/-- PKRON (R133). -/
def execPkron (d a : XReg) (s : State) : Host.Outcome State Fault Refusal :=
  runPattern s (fun x =>
    .emit ((kronCols x ((x.getX d).toNat % 64)).map (fun c => (x.getX d, x.getX a + BitVec.ofNat 32 c))))

/-! ## Runs (R137, R138) -/

/-- Start a run's operation on a token. -/
def genStart (s : State) (u : Agent) (g : GReg) (t : TokIx) (k : OpKind) (scope : ScopeCode) (x : Gen) : State :=
  ((startOp s (newOp s u t k scope 0)).modOp u t.toNat (fun o => { o with st := .started })).setGen u.die u.tile g.toNat x

/-- The checks that GRUN and GRUN.T share, in order (R137). -/
def grunFault (s : State) (u : Agent) (g : GReg) (f : FReg) (t : TokIx) (tr : Bool) : Option FaultInfo :=
  let x := s.gen u.die u.tile g.toNat
  if genRunning x then some (flt clsToken 9)
  else if (ownRegion s u).isNone then some (flt clsToken 5)
  else
    match tokenCheck s u t.toNat with
    | some e => some e
    | none =>
      if (agentFifo s u f.toNat).producer.isSome then some (flt clsIllegal 0x33)
      else if x.st == .empty || (tr && !x.walk) then some (genInfo 5 x)
      else none

/-- The context of a run that begins; PC and the loop stack are the program's (R137). -/
def Gen.begin (x : Gen) (m : GenRun) : Gen :=
  { x with st := .run, emit := 0, clip := 0, steps := 0, todo := [], got := [], ended := false, mode := m }

/-- A program that begins at PC 0, with no loop open (R131; DEDUCED, log entry 118), the registers at its start kept for a restart (R140). -/
def Gen.program (x : Gen) : Gen := { x with pc := 0, loops := [], x0s := x.x }

/-- x0 and x1 from a scalar register, the other registers at zero as GLOAD leaves them, and the program from PC 0 (R137): R375 makes what a program
emits a function of itself, x0 and x1 (DEDUCED, log entry 118). -/
def Gen.argsFrom (x : Gen) (v : Word) : Gen :=
  ((({ x with x := [] } : Gen).putX 0 (v.extractLsb' 0 32)).putX 1 (v.extractLsb' 32 32)).program

/-- Claim a FIFO for a context's run. -/
def claimGen (s : State) (u : Agent) (g : GReg) (f : FReg) : State :=
  modFifo s u f.toNat (fun x => { x with producer := some (.gen (genKey u.die u.tile g.toNat)) })

/-- GRUN (R137). -/
def execGrun (g : Guard) (scope : ScopeCode) (x : GReg) (b : SReg) (f : FReg) (t : TokIx) (s : State) :
    Host.Outcome State Fault Refusal :=
  runStrand g s (fun s u =>
    match grunFault s u x f t false with
    | some e => .fault s e
    | none =>
      if reportPending s u t.toNat then .wait s
      else .ok (genStart (claimGen s u x f) u x t (.grun x) scope
        (((s.gen u.die u.tile x.toNat).begin (.push u f t)).argsFrom (s.getS u b))))

/-- GRUN.T (R137). -/
def execGrunT (g : Guard) (scope : ScopeCode) (x : GReg) (f : FReg) (t : TokIx) (s : State) : Host.Outcome State Fault Refusal :=
  runStrand g s (fun s u =>
    match grunFault s u x f t true with
    | some e => .fault s e
    | none =>
      if reportPending s u t.toNat then .wait s
      else .ok (genStart (claimGen s u x f) u x t (.grunT x) scope
        ((s.gen u.die u.tile x.toNat).begin (.transposed u f t 0))))

/-- GINV (R138). -/
def execGinv (g : Guard) (scope : ScopeCode) (x : GReg) (b a : SReg) (cap : BitVec 18) (t : TokIx) (s : State) :
    Host.Outcome State Fault Refusal :=
  runStrand g s (fun s u =>
    let c := s.gen u.die u.tile x.toNat
    let ta := s.getS u a
    if genRunning c then .fault s (flt clsToken 9)
    else
      match tokenCheck s u t.toNat with
      | some e => .fault s e
      | none =>
        if (match windowOf (s.req u) ta with
          | .tile o => decide (2 ^ 20 < o + 8 * cap.toNat) || o % 8 != 0
          | _ => true) then .fault s (flt clsAperture 8 ta)
        else if c.st == .empty then .fault s (genInfo 5 c)
        else if reportPending s u t.toNat then .wait s
        else .ok (genStart s u x t (.ginv x) scope
          { ((c.begin (.collect u t cap.toNat)).argsFrom (s.getS u b)) with walk := false, walkAt := ta }))

/-- Whether the operation of a context's run may make progress; a gear or spine change and a package stall hold the generator with its tile
(R140, R290). -/
def genOpRuns (s : State) (x : Gen) : Bool :=
  match runToken x.mode with
  | none => false
  | some (a, k) =>
    match s.op a k with
    | none => false
    | some o => opRuns s o && (s.tile a.die a.tile).st == .run && !s.shake

/-- A transposed run pushes one entry of the walk (R137). -/
def transposedPush (s : State) (d t g : Nat) (a : Agent) (f : FReg) (tk : TokIx) (k : Nat) : State :=
  let x := s.gen d t g
  match s.op a tk.toNat with
  | none => s
  | some o =>
    if x.wcnt ≤ k ∨ (agentFifo s a f.toNat).room = 0 then s
    else
      match readGen s (s.opReq o) (x.walkAt + BitVec.ofNat 64 (8 * k)) 8 with
      | (s1, .fault e) =>
        if fstatus e.cls e.detail = .replay then opFault s1 a tk.toNat e
        else (dropGenFifo (opFault s1 a tk.toNat e) d t g).setGen d t g x.idle
      | (s1, .later) => s.waiting s1
      | (s1, .ok bs) =>
        let v := leNat bs
        let s2 := modFifo (dropProbes s1 (s.opReq o)) a f.toNat (fun z => z.push (plainVal (v / 2 ^ 32 + v % 2 ^ 32 * 2 ^ 32)))
        noteProgress (s2.setGen d t g { x with emit := min (x.emit + 1) (2 ^ 32 - 1), mode := .transposed a f tk (k + 1) }) a tk.toNat

/-- A stalled emitter goes on once its FIFO has room, or a transposed run pushes its next entry (R131, R137). -/
def execCoordinatePush (die tile gen : Nat) (s : State) : Host.Outcome State Fault Refusal :=
  let x := s.gen die tile gen
  if x.st == .run && genOpRuns s x then
    match x.mode with
    | .transposed a f t k => .next (transposedPush s die tile gen a f t k)
    | .push a f _ =>
      (match x.todo with
      | [] => .next s
      | e :: es => if (agentFifo s a f.toNat).room = 0 then .next s else .next (emitAll die tile gen (e :: es) s))
    | _ => .next s
  else .next s

/-- A run has executed 2^32 words without an end: GEN detail 0x04 (R131). -/
def execGenRunaway (die tile gen : Nat) (s : State) : Host.Outcome State Fault Refusal :=
  let x := s.gen die tile gen
  if x.st == .run && genOpRuns s x && decide (2 ^ 32 ≤ x.steps) && !x.ended && x.todo.isEmpty then .next (genFault s die tile gen 4 none)
  else .next s

/-- A GRUN ends: READY, the FIFO released, the token DONE (R137). -/
def execGrunComplete (die tile gen : Nat) (s : State) : Host.Outcome State Fault Refusal :=
  let x := s.gen die tile gen
  let fin (a : Agent) (t : TokIx) : State := opDone ((dropGenFifo s die tile gen).setGen die tile gen x.idle) a t.toNat
  if x.st == .run && genOpRuns s x then
    match x.mode with
    | .push a _ t => if x.ended && x.todo.isEmpty then .next (fin a t) else .next s
    | .transposed a _ t k => if x.wcnt ≤ k then .next (fin a t) else .next s
    | _ => .next s
  else .next s

/-- Whether a coordinate stands before another in column-major order (R138). -/
def colBefore (x y : Half × Half) : Bool := decide (x.2.toNat < y.2.toNat) || (x.2 == y.2 && decide (x.1.toNat ≤ y.1.toNat))
/-- Insert a coordinate in column-major order. -/
def insertCol (x : Half × Half) : List (Half × Half) → List (Half × Half)
  | [] => [x]
  | y :: ys => if colBefore y x then y :: insertCol x ys else x :: y :: ys
/-- The coordinates by column, then by row (R138). -/
def sortCols (l : List (Half × Half)) : List (Half × Half) := l.foldl (fun acc x => insertCol x acc) []

/-- A GINV ends: the sorted table, WALK and WCNT, the token DONE (R138). -/
def execGinvComplete (die tile gen : Nat) (s : State) : Host.Outcome State Fault Refusal :=
  let x := s.gen die tile gen
  match x.mode with
  | .collect a t _ =>
    if x.st == .run && genOpRuns s x && x.ended && x.todo.isEmpty then
      let s1 := writeTable s die tile gen (sortCols x.got)
      .next (opDone (s1.setGen die tile gen { x.idle with wcnt := x.got.length, emit := x.got.length, walk := true }) a t.toNat)
    else .next s
  | _ => .next s

/-! ## Context images (R139) -/

/-- The bytes of x0 to x15. -/
def xregBytes (x : Gen) : List Byte := (List.range 16).flatMap (fun i => leBytes 4 (tget x.x i 0).toNat)

/-- A loop stack entry of an image: two dwords. -/
def loopBytes (l : GenLoop) : List Byte := leBytes 4 l.i ++ leBytes 4 l.n ++ leBytes 8 (l.head + l.last * 2 ^ 8 + l.xreg.toNat * 2 ^ 16)

/-- The T bit, FIFO and token of a context in RUN. -/
def runFields : GenRun → Nat
  | .none => 0
  | .push _ f t => f.toNat * 2 ^ 21 + t.toNat * 2 ^ 24
  | .transposed _ f t _ => 2 ^ 20 + f.toNat * 2 ^ 21 + t.toNat * 2 ^ 24
  | .collect _ t _ => t.toNat * 2 ^ 24

/-- The code of a context's STATE. -/
def genStCode : GenSt → Nat
  | .empty => 0
  | .ready => 1
  | .run => 2

/-- A context image (Table: Context image). -/
def genImage (x : Gen) : List Byte :=
  let pad (n : Nat) (l : List Byte) : List Byte := l ++ List.replicate (n - l.length) 0
  xregBytes x ++ pad 256 (x.prog.flatMap (fun w => leBytes 4 w.toNat)) ++ leBytes 8 x.kt0.toNat ++ leBytes 8 x.kt1.toNat ++
  leBytes 4 x.nr.toNat ++ leBytes 4 x.nc.toNat ++
  leBytes 8 (x.prog.length + x.pc * 2 ^ 7 + x.loops.length * 2 ^ 14 + genStCode x.st * 2 ^ 17 + (if x.walk then 2 ^ 19 else 0) + runFields x.mode) ++
  pad 64 (x.loops.reverse.flatMap loopBytes) ++ leBytes 8 (x.emit + x.clip * 2 ^ 32) ++ leBytes 8 x.walkAt.toNat ++
  leBytes 8 x.wcnt ++ leBytes 8 x.steps ++ List.replicate 64 0

/-- Bytes [lo, lo + n) of an image as a number. -/
def imageField (bs : List Byte) (lo n : Nat) : Nat := leNat ((bs.drop lo).take n)

/-- A loop stack entry of an image, with whether its reserved bits are zero. -/
def loopOfImage (bs : List Byte) (k : Nat) : GenLoop × Bool :=
  let a := imageField bs (352 + 16 * k) 8
  let b := imageField bs (360 + 16 * k) 8
  (⟨bitsOf a 31 0, bitsOf a 63 32, bitsOf b 6 0, bitsOf b 14 8, BitVec.ofNat 4 (bitsOf b 19 16)⟩,
    bitsOf b 63 20 == 0 && bitsOf b 15 15 == 0 && bitsOf b 7 7 == 0)

/-- The context that an image gives, or its fault (R139). -/
def genOfImage (bs : List Byte) (old : Gen) : Except FaultInfo Gen :=
  let f := imageField bs 344 8
  let count := bitsOf f 6 0
  let nr := imageField bs 336 4
  let nc := imageField bs 340 4
  let ws := halves ((bs.drop 64).take (4 * count))
  let depth := bitsOf f 16 14
  let ls := (List.range 4).map (loopOfImage bs)
  let e := imageField bs 416 8
  if badBounds count nr nc || bitsOf f 63 27 != 0 || decide (2 ≤ bitsOf f 18 17) || decide (64 < bitsOf f 13 7) || decide (4 < depth) ||
      imageField bs (64 + 4 * count) (256 - 4 * count) != 0 || ls.any (fun l => !l.2) || bitsOf e 63 61 != 0 ||
      imageField bs 436 4 != 0 || imageField bs 448 64 != 0 then .error (genInfo 6 old)
  else
    match badWord ws with
    | some k => .error (genWordFault ws k)
    | none =>
      .ok { old with
        st := if bitsOf f 18 17 = 0 then .empty else .ready
        x := (List.range 16).map (fun i => (i, BitVec.ofNat 32 (imageField bs (4 * i) 4)))
        prog := ws, kt0 := BitVec.ofNat 64 (imageField bs 320 8), kt1 := BitVec.ofNat 64 (imageField bs 328 8)
        nr := BitVec.ofNat 32 nr, nc := BitVec.ofNat 32 nc, pc := bitsOf f 13 7
        loops := ((ls.take depth).map (·.1)).reverse, emit := bitsOf e 31 0, clip := bitsOf e 60 32
        steps := imageField bs 440 8, walkAt := BitVec.ofNat 64 (imageField bs 424 8), wcnt := imageField bs 432 4
        walk := f.testBit 19, mode := .none, todo := [], got := [], ended := false }

/-- Write dwords as stores, all parts being checked before the first store. -/
def writeStores (q : Req) : State → Word → List Byte → Nat → State × Try Unit
  | s, _, _, 0 => (s, .ok ())
  | s, a, bs, n + 1 =>
    match writeGen s q a (bs.take 8) with
    | (s, .ok _) => writeStores q s (a + 8) (bs.drop 8) n
    | r => r

/-- GSAVE (R139). -/
def execGsave (g : Guard) (x : GReg) (a : SReg) (off : BitVec 29) (s : State) : Host.Outcome State Fault Refusal :=
  runStrand g s (fun s u =>
    let da := baseOff (s.ctx u) a off
    let c := s.gen u.die u.tile x.toNat
    if genRunning c then .fault s (flt clsToken 9)
    else if !aligned da 64 then .fault s (flt clsAlign 1 da)
    else
      match route s (s.req u) .store da 512 with
      | (s, .fault f) => .fault s f
      | (s1, .later) => .wait (s.waiting s1)
      | (s1, .ok _) =>
        match writeStores (s1.req u) s1 da (genImage c) 64 with
        | (s2, .ok _) => .ok s2
        | (s2, .fault f) => .fault s2 f
        | (s2, .later) => .wait (s.waiting s2))

/-- GREST (R139). -/
def execGrest (g : Guard) (x : GReg) (a : SReg) (off : BitVec 29) (s : State) : Host.Outcome State Fault Refusal :=
  runStrand g s (fun s u =>
    let da := baseOff (s.ctx u) a off
    let c := s.gen u.die u.tile x.toNat
    if genRunning c then .fault s (flt clsToken 9)
    else if !aligned da 64 then .fault s (flt clsAlign 1 da)
    else
      match readLoads s (s.req u) da 64 with
      | (s, .fault f) => .fault s f
      | (s1, .later) => .wait (s.waiting s1)
      | (s, .ok bs) =>
        match genOfImage bs c with
        | .error f => .fault s f
        | .ok y => .ok (s.setGen u.die u.tile x.toNat y))

end Sys2Proof.Machine
end

