-- ==== Sys2Proof/Machine/Place.lean ====
section
/-! DEFINITION. Launch records (R324, R325), the resources of a die, what makes a head fit, and valid placements (R326-R331, R347). -/

namespace Sys2Proof.Machine

/-! ## Launch-record fields (R324) -/

/-- NTILE. -/
def lrTiles (r : BitVec 2048) : Nat := recBits r 1097 1088
/-- SPTM1 + 1. -/
def lrSpt (r : BitVec 2048) : Nat := recBits r 1108 1107 + 1
/-- The package positions of DIEMASK. -/
def lrDies (r : BitVec 2048) : List Nat := (List.range Config.dies).filter (fun d => r.toNat.testBit (1098 + d))
/-- PRIO. -/
def lrPrio (r : BitVec 2048) : Nat := recBits r 1239 1232
/-- PERM: 0 DRAIN, 1 CHECKPOINT, 2 KILL. -/
def lrPerm (r : BitVec 2048) (k : Nat) : Bool := r.toNat.testBit (1240 + k)
/-- OWNER. -/
def lrOwner (r : BitVec 2048) : Nat := recBits r 1224 1216
/-- ENG. -/
def lrEng (r : BitVec 2048) : Nat := recBits r 1165 1160
/-- DBSL. -/
def lrDbsl (r : BitVec 2048) : Nat := recBits r 1159 1152
/-- CREG. -/
def lrCreg (r : BitVec 2048) : Bool := r.toNat.testBit 1111
/-- LENDOK. -/
def lrLendok (r : BitVec 2048) : Bool := r.toNat.testBit 1110
/-- PLACE = 1 (FIXED). -/
def lrFixed (r : BitVec 2048) : Bool := r.toNat.testBit 1109
/-- SPINE. -/
def lrSpine (r : BitVec 2048) : Nat := recBits r 1106 1104
/-- GEAR. -/
def lrGear (r : BitVec 2048) : Nat := recBits r 1103 1102
/-- CPLADDR. -/
def lrCpl (r : BitVec 2048) : Nat := recBits r 447 384
/-- CTXAREA. -/
def lrCtx (r : BitVec 2048) : Nat := recBits r 383 320

/-- A hierarchy level of a record (R325). -/
def lrLevel (r : BitVec 2048) (n : Nat) : Nat := recBits r (1280 + 64 * n + 63) (1280 + 64 * n)
/-- The levels in use, innermost first. -/
def lrLevels (r : BitVec 2048) : List Nat := (List.range (recBits r 1250 1248 + 1)).map (lrLevel r)
/-- COUNT of a level. -/
def lvCount (e : Nat) : Nat := bitsOf e 31 16
/-- SCOPE of a level. -/
def lvScope (e : Nat) : Nat := bitsOf e 12 10
/-- WIDTH of a level. -/
def lvWidth (e : Nat) : Nat := bitsOf e 9 4
/-- DOM of a level. -/
def lvDom (e : Nat) : Nat := bitsOf e 2 0

/-- The product of COUNT over the levels with DOM at or below a kind (R325). -/
def lrProduct (r : BitVec 2048) (x : Nat) : Nat := ((lrLevels r).filter (fun e => decide (lvDom e ≤ x))).foldl (fun n e => n * lvCount e) 1

/-- How many consecutive tiles, in rank order, the groups of DOM at or below a kind keep within one unit of it (R325, R328). -/
def lrRun (r : BitVec 2048) (x : Nat) : Nat := max 1 (Nat.lcm (lrProduct r x) (lrSpt r) / lrSpt r)

/-! ## Resources -/

/-- A tile that self-test has failed (R348). -/
def tileFailed (s : State) (d t : Nat) : Bool := (s.die d).failed.any (· == t)

/-- DMSTAT.ENABLED: every healthy tile (R348). -/
def enabledTiles (s : State) (d : Nat) : Nat := Config.tilesPerDie - (s.die d).failed.length

/-- Whether a strand of a tile is frozen, which takes the tile out of E (R344). -/
def tileFrozen (s : State) (d t : Nat) : Bool := (List.range 4).any (fun k => (s.ctx (.strand d t k)).frozen)

/-- E of the admission rules (R326, R344). -/
def admitTiles (s : State) (d : Nat) : Nat :=
  ((List.range Config.tilesPerDie).filter (fun t => !tileFailed s d t && !tileFrozen s d t)).length

/-- Whether a task is still with the scheduler (R326, R332). -/
def taskLives (k : Task) : Bool :=
  match k.st with
  | .retired | .killed | .faulted => false
  | .running | .draining | .saving | .saved | .killing => true

/-- The tasks of the package that are with the scheduler. -/
def liveTasks (s : State) : Tab Task := s.tasks.filter (fun e => taskLives e.2)

/-- The tasks that hold tiles, slices and engines: a SAVED task holds none (R332). -/
def holdingTasks (s : State) : Tab Task := (liveTasks s).filter (fun e => decide (e.2.st ≠ .saved))

/-- The owner of the task that holds a tile. -/
def tileOwner (s : State) (d t : Nat) : Option Nat := ((s.holder d t).bind s.task).map (·.owner)

/-- Whether a tile is free for the head of a queue: healthy, with no frozen strand, neither held nor under test, not recalled by another owner,
and not kept for another head (R327, R335, R344, R348). -/
def tileFree (s : State) (d q : Nat) (d' t : Nat) : Bool :=
  let x := s.tile d' t
  let y := s.die d'
  !tileFailed s d' t && !tileFrozen s d' t && x.holder.isNone && !x.testing &&
  (x.wanted.isNone || x.wanted == some (s.qmapEntry (64 * d + q)).owner) &&
  !(y.kept.any (· == t) && y.reserve != some q && y.reserve.isSome) && !(y.kept.any (· == t) && d' != d && y.reserve.isSome)

/-- Whether the record's starting gear and spine are permitted on a tile's island, once it has voted (R299, R327). -/
def islandAdmits (s : State) (r : BitVec 2048) (d t : Nat) : Bool :=
  lrGear r != 1 || decide ((spineAt s (lrSpine r)).minlv.toNat ≤ (s.island d (clusterOf t)).cap.toNat)

/-- The slices reserved for the loader and the security hub (R377, R383). -/
def sliceReserved (d j : Nat) : Bool := decide (238 ≤ j) || (d == 0 && j == 237)

/-- A die-buffer slice that no task holds. -/
def sliceFree (s : State) (d j : Nat) : Bool := !sliceReserved d j && !(holdingTasks s).any (fun e => e.2.slices.any (· == (d, j)))

/-- The free slices of a die. -/
def freeSlices (s : State) (d : Nat) : Nat := ((List.range Config.slicesPerDie).filter (sliceFree s d)).length

/-- The copy engines that tasks reserve on a die. -/
def engReserved (s : State) (d : Nat) : Nat :=
  ((holdingTasks s).filter (fun e => e.2.tiles.any (fun x => x.1 == d))).foldl (fun n e => n + lrEng e.2.lrec) 0

/-- The reserved tiles of an owner on a die (R352). -/
def ownerRsv (w : Owner) (d : Nat) : Nat := bitsOf w.rsv.toNat (8 * d + 7) (8 * d)

/-- The reserved tiles of an owner on a die that are idle: neither held by its own tasks nor lent nor recalled (R335). -/
def idleReserve (s : State) (d o : Nat) : Nat :=
  let ts := List.range Config.tilesPerDie
  ownerRsv (s.owner o) d -
    (ts.filter (fun t => (tileOwner s d t == some o && (s.tile d t).lent.isNone) || (s.tile d t).lent == some o || (s.tile d t).wanted == some o)).length

/-- Whether a record's task may be placed on lent tiles (R335). -/
def mayBorrow (r : BitVec 2048) : Bool := lrLendok r && (lrPerm r 1 || lrPerm r 2)

/-- The owners that have idle reserved tiles on a die, other than one. -/
def otherReserves (s : State) (d o : Nat) : Tab Nat :=
  ((s.owners.filter (fun e => e.2.v && e.1 != o)).map (fun e => (e.1, idleReserve s d e.1))).filter (fun e => e.2 != 0)

/-- The tiles of a die kept for the reservations of other owners: those of every owner, or of the owners that do not lend (R335). -/
def heldBack (s : State) (d o : Nat) (borrow : Bool) : Nat :=
  (otherReserves s d o).foldl (fun n e => if borrow && (s.owner e.1).lend then n else n + e.2) 0

/-! ## Fitting (R327) -/

/-- The tiles of a die that a head may take. -/
def candidates (s : State) (d q : Nat) (r : BitVec 2048) (d' : Nat) : List Nat :=
  (List.range Config.tilesPerDie).filter (fun t => tileFree s d q d' t && islandAdmits s r d' t)

/-- How many groups of tiles that stay within one die some candidate tiles hold, when groups within a cluster take `c` tiles each and
groups within the die `n` (R325). -/
def groupsIn (ts : List Nat) (c n : Nat) : Nat :=
  ((List.range Config.clustersPerDie).foldl (fun m k => m + (ts.filter (fun t => clusterOf t == k)).length / c) 0) / (n / c)

/-- Whether the slices and engines that a record asks for are there on a die. -/
def dieSupplies (s : State) (r : BitVec 2048) (d : Nat) : Bool :=
  decide (lrDbsl r ≤ freeSlices s d) && decide (engReserved s d + lrEng r ≤ 24)

/-- How many groups of a record a die can take now. -/
def dieGroups (s : State) (d q o : Nat) (r : BitVec 2048) (d' : Nat) : Nat :=
  let ts := candidates s d q r d'
  if dieSupplies s r d' then
    min (groupsIn ts (lrRun r 2) (lrRun r 3)) ((ts.length - heldBack s d' o (mayBorrow r)) / lrRun r 3)
  else 0

/-- The tiles that FIXED placement names: logical tile L is the normalised tile L of its die, the dies of DIEMASK being filled in
ascending order (R328; DESIGN CHOICE for several dies, log entry 71). -/
def fixedTiles (r : BitVec 2048) : List (Nat × Nat) :=
  let n := Config.tilesPerDie / lrRun r 3 * lrRun r 3
  ((lrDies r).flatMap (fun d => (List.range n).map (fun l => (d, rotTile (Config.rot d) l)))).take (lrTiles r)

/-- The parts of a list of `n` entries each, in order. -/
def chunks {α : Type} (n : Nat) (l : List α) : List (List α) := (List.range (l.length / n)).map (fun i => (l.drop (i * n)).take n)

/-- Whether all entries of a list agree in a value. -/
def allAgree {α : Type} (f : α → Nat) : List α → Bool
  | [] => true
  | x :: xs => xs.all (fun y => f y == f x)

/-- Whether tiles in rank order keep every level group within one unit of its DOM (R325, R328). -/
def groupsKept (r : BitVec 2048) (ts : List (Nat × Nat)) : Bool :=
  (chunks (lrRun r 2) ts).all (allAgree (fun x => x.1 * 36 + clusterOf x.2)) && (chunks (lrRun r 3) ts).all (allAgree (·.1))

/-- Whether the entries of a list are all different. -/
def noRepeats {α : Type} [BEq α] : List α → Bool
  | [] => true
  | x :: xs => !xs.any (· == x) && noRepeats xs

/-- The logical tiles of a die that form whole clusters, cluster by cluster: which logical tiles stand together (R345, R347). -/
def wholeClusters (ts : List (Nat × Nat)) (d : Nat) : List (List Nat) :=
  let l := (ts.filter (fun x => x.1 == d)).map (·.2)
  (List.range Config.clustersPerDie).filterMap (fun c =>
    let k := (List.range l.length).filter (fun i => clusterOf ((l[i]?).getD 0) == c)
    if k.length = 4 then some k else none)

/-- Whether a task holds the whole cluster of a tile (R75). -/
def holdsCluster (ts : List (Nat × Nat)) (d t : Nat) : Bool := (clusterTiles (clusterOf t)).all (fun k => ts.any (· == (d, k)))

/-- Whether two placements group the same logical tiles into whole clusters (R347). -/
def sameClusters (xs ys : List (Nat × Nat)) : Bool :=
  (List.range Config.dies).all (fun d =>
    let a := wholeClusters xs d
    let b := wholeClusters ys d
    a.length == b.length && a.all (fun k => b.any (· == k)))

/-- Whether a placement keeps what a readmission keeps: positions, numbering, whole clusters, the places inside the clusters of multi-tile
regions, and permitted gears and spines (R291, R347). -/
def keepsSaved (s : State) (k : Task) (v : SavedCtx) (ts : List (Nat × Nat)) : Bool :=
  k.tiles.map (·.1) == ts.map (·.1) && sameClusters k.tiles ts &&
  (!lrCreg k.lrec || (k.tiles.zip ts).all (fun e => !holdsCluster k.tiles e.1.1 e.1.2 ||
    ((clusterTiles (clusterOf e.1.2)).idxOf e.1.2 == (clusterTiles (clusterOf e.2.2)).idxOf e.2.2))) &&
  (k.tiles.zip ts).all (fun e =>
    let x := tget v.tiles (tileKey e.1.1 e.1.2) {}
    !x.gear || decide ((spineAt s x.spine.toNat).minlv.toNat ≤ (s.island e.2.1 (clusterOf e.2.2)).cap.toNat))

/-! ## The placer's preferences (R328) -/

/-- The die of the package that homes an address of an owner, if one does. -/
def homeDie (s : State) (d o : Nat) (va : Word) : Option Nat :=
  match walkOwner s d o va with
  | .ok l =>
    let pa := leafPa l va
    if pa.testBit 52 || locPkg pa != s.pkg.toNat then none else some (locDie pa)
  | _ => none

/-- The dies that home ARGS and BLKTAB of a record (R328). -/
def homeDies (s : State) (d o : Nat) (r : BitVec 2048) : List Nat :=
  (lrDies r).filter (fun e => homeDie s d o (BitVec.ofNat 64 (recBits r 127 64)) == some e ||
    homeDie s d o (BitVec.ofNat 64 (recBits r 191 128)) == some e)

/-- The clusters of a die whose four tiles the head may take. -/
def freeClusters (s : State) (d q : Nat) (r : BitVec 2048) (e : Nat) : List Nat :=
  let ts := candidates s d q r e
  (List.range Config.clustersPerDie).filter (fun c => (clusterTiles c).all (fun t => ts.any (· == t)))

/-- Whether two clusters stand side by side; a die's rotation keeps that (R308). -/
def besideCluster (a b : Nat) : Bool :=
  (a / 6 == b / 6 && (a % 6 + 1 == b % 6 || b % 6 + 1 == a % 6)) || (a % 6 == b % 6 && (a / 6 + 1 == b / 6 || b / 6 + 1 == a / 6))

/-- The clusters of a list that a first one reaches through neighbours of the list, in so many rounds. -/
def reachClusters (l : List Nat) : Nat → List Nat → List Nat
  | 0, seen => seen
  | k + 1, seen => reachClusters l k (l.filter (fun c => seen.any (fun x => x == c || besideCluster x c)))

/-- Whether the clusters of a list are contiguous. -/
def contiguous (l : List Nat) : Bool :=
  match l with
  | [] => true
  | c :: _ => (reachClusters l 36 [c]).length == l.length

/-- Whether `n` contiguous clusters are among some free ones. -/
def hasContiguous (l : List Nat) (n : Nat) : Bool := l.any (fun c => decide (n ≤ (reachClusters l 36 [c]).length))

/-- The spare columns in use among some tiles of a die, which count against their health (R328, R348). -/
def sparesUsed (s : State) (e : Nat) (ts : List Nat) : Nat := (ts.filter (fun t => (tfind (s.die e).spare t).isSome)).length

/-- The clusters of which some tiles of a die hold all four. -/
def wholeTaken (l : List Nat) : List Nat :=
  (List.range Config.clustersPerDie).filter (fun k => (clusterTiles k).all (fun t => l.any (· == t)))

/-- The most whole clusters that `t` groups take on some dies, when a die can take `cap` groups and `g` of them give it `gain` whole ones. -/
def bestWhole (gain : Nat → Nat → Nat) (cap : Nat → Nat) : List Nat → Nat → Nat
  | [], _ => 0
  | e :: es, t =>
    ((List.range (min (cap e) t + 1)).map (fun g =>
      if es.foldl (fun n x => n + cap x) 0 < t - g then 0 else gain e g + bestWhole gain cap es (t - g))).foldl max 0

/-- Whether a placement takes as many whole free clusters on some dies as the groups that it puts there can (R328). -/
def wholeBest (s : State) (d q o : Nat) (r : BitVec 2048) (p : Placement) (ds : List Nat) : Bool :=
  let n := lrRun r 3
  let on (e : Nat) : List Nat := (p.tiles.filter (fun x => x.1 == e)).map (·.2)
  ds.foldl (fun m e => m + (wholeTaken (on e)).length) 0 ==
    bestWhole (fun e g => min (g * n / 4) (freeClusters s d q r e).length) (dieGroups s d q o r) ds (ds.foldl (fun m e => m + (on e).length) 0 / n)

/-- Whether the whole clusters that a placement takes on each die are contiguous, if so many contiguous ones are free there among those that may serve
(R308, R328). -/
def contiguousBest (s : State) (d q : Nat) (r : BitVec 2048) (p : Placement) (serves : Nat → Nat → Bool) : Bool :=
  (lrDies r).all (fun e =>
    let took := wholeTaken ((p.tiles.filter (fun x => x.1 == e)).map (·.2))
    contiguous took || !hasContiguous ((freeClusters s d q r e).filter (serves e)) took.length)

/-- The units of a placement on a die that can stand elsewhere by themselves: its whole clusters, and its groups of other clusters. -/
def placedUnits (r : BitVec 2048) (l : List Nat) : List (Bool × List Nat) :=
  let took := wholeTaken l
  took.map (fun k => (true, clusterTiles k)) ++
    ((chunks (lrRun r 2) l).filter (fun g => !g.any (fun t => took.any (· == clusterOf t)))).map (fun g => (false, g))

/-- The fewest spare columns in use among `n` of some tiles of a cluster of a die. -/
def fewestSpares (s : State) (e n : Nat) (l : List Nat) : Nat := n - (l.length - sparesUsed s e l)

/-- Whether no unit of a placement could stand in another cluster with fewer spare columns in use, the preferences before health kept: a whole cluster
in a whole free one, contiguous as before; a unit of a larger group on its own die, another on a die of its kind (R328). -/
def healthBest (s : State) (d q : Nat) (r : BitVec 2048) (p : Placement) (alike : Nat → Nat → Bool) (serves : List (Nat × Nat) → Nat → Nat → Bool) : Bool :=
  let on (e : Nat) : List Nat := (p.tiles.filter (fun x => x.1 == e)).map (·.2)
  (lrDies r).all (fun e => (placedUnits r (on e)).all (fun u =>
    (lrDies r).all (fun x =>
      let left := (candidates s d q r x).filter (fun t => !(on x).any (· == t))
      !(x == e || (alike e x && decide (lrRun r 3 ≤ u.2.length))) ||
      (List.range Config.clustersPerDie).all (fun k =>
        let l := left.filter (fun t => clusterOf t == k)
        let k0 := clusterOf (u.2.headD 0)
        !serves (u.2.map (fun t => (e, t))) x k || decide (l.length < u.2.length) ||
        (u.1 && contiguous (wholeTaken (on e)) &&
          !contiguous (k :: (if x = e then (wholeTaken (on e)).filter (· != k0) else wholeTaken (on x)))) ||
        decide (sparesUsed s e u.2 ≤ fewestSpares s x u.2.length l)))))

/-- Whether a placement for a new task follows the placer's order of preference, as far as the record and the free tiles allow: the dies that home
ARGS and BLKTAB, whole free clusters and contiguous ones, health (R328). That the islands permit gear and spine, `candidates` says. Slices near
the tiles (R73) have no stated measure (log entry 78). -/
def preferred (s : State) (d q o : Nat) (r : BitVec 2048) (p : Placement) : Bool :=
  let n := lrRun r 3
  let homes := homeDies s d o r
  let isHome (e : Nat) : Bool := homes.any (· == e)
  let others := (lrDies r).filter (fun e => !isHome e)
  let onHomes := (p.tiles.filter (fun x => isHome x.1)).length
  onHomes == n * min (lrTiles r / n) (homes.foldl (fun m e => m + dieGroups s d q o r e) 0) &&
  (lrRun r 2 == 3 || (wholeBest s d q o r p homes && wholeBest s d q o r p others && contiguousBest s d q r p (fun _ _ => true))) &&
  healthBest s d q r p (fun a b => isHome a == isHome b) (fun _ _ _ => true)

/-- Whether a placement is one that the placer may choose for the head of a queue, but for its preferences (R327, R328, R335). -/
def placementOk (s : State) (d q o : Nat) (r : BitVec 2048) (p : Placement) : Bool :=
  p.tiles.length == lrTiles r && noRepeats p.tiles && noRepeats p.slices && groupsKept r p.tiles &&
  p.tiles.all (fun x => (lrDies r).any (· == x.1) && decide (x.2 < Config.tilesPerDie) && tileFree s d q x.1 x.2 && islandAdmits s r x.1 x.2) &&
  p.slices.all (fun x => p.tiles.any (fun y => y.1 == x.1) && decide (x.2 < Config.slicesPerDie) && sliceFree s x.1 x.2) &&
  (List.range Config.dies).all (fun e =>
    let n := (p.tiles.filter (fun x => x.1 == e)).length
    n == 0 || (dieSupplies s r e && (p.slices.filter (fun x => x.1 == e)).length == lrDbsl r &&
      decide (n + heldBack s e o (mayBorrow r) ≤ (candidates s d q r e).length))) &&
  (!lrFixed r || p.tiles == fixedTiles r)

/-- Whether the head of a queue fits (R327). -/
def headFits (s : State) (d q o : Nat) (r : BitVec 2048) : Bool :=
  if lrFixed r then
    let slices := (List.range Config.dies).flatMap (fun e =>
      if (fixedTiles r).any (fun x => x.1 == e) then
        (((List.range Config.slicesPerDie).filter (sliceFree s e)).take (lrDbsl r)).map (fun j => (e, j))
      else [])
    placementOk s d q o r ⟨fixedTiles r, slices⟩
  else decide (lrTiles r / lrRun r 3 ≤ (lrDies r).foldl (fun n e => n + dieGroups s d q o r e) 0)

/-- A record with no starting gear, whose placement asks no island level: a saved task's own gears decide (R327). -/
def anyGear (r : BitVec 2048) : BitVec 2048 := BitVec.ofNat 2048 (r.toNat - lrGear r * 2 ^ 1102)

/-- The lowest CAP on which a saved tile's gear and spine are permitted (R291). -/
def tileNeed (s : State) (v : SavedCtx) (x : Nat × Nat) : Nat :=
  let y := tget v.tiles (tileKey x.1 x.2) {}
  if y.gear then (spineAt s y.spine.toNat).minlv.toNat else 0

/-- The largest of some numbers. -/
def largest (l : List Nat) : Nat := l.foldl max 0

/-- Levels in falling order. -/
def falling (l : List Nat) : List Nat := (List.range 8).reverse.flatMap (fun n => l.filter (· == n))

/-- Take, from some caps, the smallest that permits a need. -/
def takeCap (caps : List Nat) (need : Nat) : Option (List Nat) :=
  ((List.range 8).find? (fun n => decide (need ≤ n) && caps.any (· == n))).map (fun n => caps.erase n)

/-- The caps left when every need has taken one, the highest needs first; none if one finds none. -/
def takeCaps (caps : List Nat) : List Nat → Option (List Nat)
  | [] => some caps
  | n :: ns => (takeCap caps n).bind (fun l => takeCaps l ns)

/-- Whether each need finds a cap of its own. -/
def capsServe (caps needs : List Nat) : Bool :=
  (List.range 8).all (fun n => decide ((needs.filter (n ≤ ·)).length ≤ (caps.filter (n ≤ ·)).length))

/-- Whether a placement of a saved task follows the placer's preferences, as far as the positions and clusters that it keeps leave a choice: contiguous
clusters and health, on islands whose CAP permits its gears and spines (R291, R328, R347). -/
def preferredSaved (s : State) (d q : Nat) (k : Task) (v : SavedCtx) (p : Placement) : Bool :=
  let cap (e c : Nat) : Nat := (s.island e c).cap.toNat
  let old (x : Nat × Nat) : Nat := largest (((k.tiles.zip p.tiles).filter (fun e => e.2 == x)).map (fun e => tileNeed s v e.1))
  let needs (e : Nat) : Nat := largest ((p.tiles.filter (fun x => x.1 == e)).map old)
  contiguousBest s d q (anyGear k.lrec) p (fun e c => decide (needs e ≤ cap e c)) &&
  healthBest s d q (anyGear k.lrec) p (fun _ _ => false) (fun us e c => us.all (fun x => decide (old x ≤ cap e c)))

/-- Whether the tiles of a saved task fit on a die: its whole clusters on free clusters, its other groups on what is left of the clusters, each
on an island whose CAP permits its gears and spines (R291, R327, R347). -/
def savedDieFits (s : State) (d q : Nat) (k : Task) (v : SavedCtx) (e : Nat) : Bool :=
  let l := k.tiles.filter (fun x => x.1 == e)
  let need (i : Nat) : Nat := ((l[i]?).map (tileNeed s v)).getD 0
  let whole := wholeClusters k.tiles e
  let c := min 3 (lrRun k.lrec 2)
  let parts := (chunks c ((List.range l.length).filter (fun i => !whole.any (·.any (· == i))))).map (fun g => largest (g.map need))
  let ts := candidates s d q (anyGear k.lrec) e
  let free (j : Nat) : Nat := (ts.filter (fun t => clusterOf t == j)).length
  let cap (j : Nat) : Nat := (s.island e j).cap.toNat
  let cs := List.range Config.clustersPerDie
  match takeCaps ((cs.filter (fun j => free j == 4)).map cap) (falling (whole.map (fun g => largest (g.map need)))) with
  | none => false
  | some left =>
    dieSupplies s k.lrec e && decide (l.length + heldBack s e k.owner (mayBorrow k.lrec) ≤ ts.length) &&
    capsServe ((cs.filter (fun j => free j != 4)).flatMap (fun j => List.replicate (free j / c) (cap j)) ++
      left.flatMap (fun n => List.replicate (3 / c) n)) parts

/-- Whether a saved task fits: on its own tiles if its placement is FIXED, else die by die (R327, R328, R347). -/
def savedFits (s : State) (d q o : Nat) (k : Task) : Bool :=
  match k.saved with
  | none => false
  | some v =>
    if lrFixed k.lrec then headFits s d q o (anyGear k.lrec) && keepsSaved s k v (fixedTiles k.lrec)
    else (List.range Config.dies).all (fun e => !k.tiles.any (fun x => x.1 == e) || savedDieFits s d q k v e)

/-! ## Rejection (R331, R333) -/

/-- A reserved bit that is set, the wrong MAGIC or a reserved code: detail 0x01. -/
def recordBad (r : BitVec 2048) : Bool :=
  recBits r 1279 1264 != 0x4C31 || recBits r 2047 1792 != 0 || recBits r 1263 1251 != 0 || recBits r 1247 1243 != 0 ||
  recBits r 1231 1225 != 0 || recBits r 1215 1166 != 0 || recBits r 1151 1112 != 0 || recBits r 1087 1056 != 0 || lrGear r == 3 ||
  recBits r 924 896 != 0 || recBits r 853 832 != 0 || recBits r 787 768 != 0 ||
  (List.range 8).any (fun n => let e := lrLevel r n; bitsOf e 63 32 != 0 || bitsOf e 15 13 != 0 || e.testBit 3) ||
  (lrLevels r).any (fun e => decide (5 < lvDom e) || lvScope e == 7)

/-- The strand capacity of one unit of a kind (R325). -/
def domCapacity (s : State) (ds : List Nat) : Nat → Nat
  | 0 => 1
  | 1 => 4
  | 2 => 16
  | 3 => 4 * (ds.map (enabledTiles s)).foldl max 0
  | 4 => 4 * ((List.range Config.dies).map (enabledTiles s)).foldl (· + ·) 0
  | _ => 4096 * ((List.range Config.dies).map (enabledTiles s)).foldl (· + ·) 0

/-- Whether DOM never falls from a level to the next. -/
def domsRise : List Nat → Bool
  | a :: b :: l => decide (lvDom a ≤ lvDom b) && domsRise (b :: l)
  | _ => true

/-- A hierarchy that breaks R325: detail 0x03. -/
def hierarchyBad (s : State) (r : BitVec 2048) : Bool :=
  let ls := lrLevels r
  !domsRise ls ||
  ls.any (fun e => lvCount e == 0 || lvWidth e == 0 || decide (32 < lvWidth e) || decide (2 ^ lvWidth e < lvCount e) ||
    decide (lvScope e < lvDom e) || (lvDom e == 0 && lvCount e != 1) || decide (domCapacity s (lrDies r) (lvDom e) < lrProduct r (lvDom e))) ||
  lrProduct r 5 != lrTiles r * lrSpt r || decide (64 < (ls.map lvWidth).foldl (· + ·) 0) ||
  lrRun r 1 != 1 || decide (4 < lrRun r 2)

/-- A request beyond the enabled resources: detail 0x04. FIXED tiles that no placement can give are counted here (DEDUCED from R331, log entry
71). -/
def requestBad (s : State) (r : BitVec 2048) : Bool :=
  let groups (d : Nat) : Nat := groupsIn ((List.range Config.tilesPerDie).filter (fun t => !tileFailed s d t)) (lrRun r 2) (lrRun r 3)
  decide ((lrDies r).foldl (fun n d => n + groups d) 0 < lrTiles r / lrRun r 3) || lrTiles r == 0 || decide (544 < lrTiles r) ||
  decide (168 < lrDbsl r) || decide (24 < lrEng r) || (lrCreg r && lrSpt r != 1) ||
  (lrGear r != 1 && decide (1000 < (spineAt s (lrSpine r)).freq.toNat)) ||
  (lrFixed r && ((fixedTiles r).length != lrTiles r || !groupsKept r (fixedTiles r)))

/-- The largest extent of a record's context area (R345). -/
def ctxExtent (r : BitVec 2048) : Nat :=
  0x100000 + 2 ^ 21 * lrTiles r + 2 ^ 22 * (lrTiles r / 4) + 2 ^ 21 * lrDbsl r * (lrDies r).length

/-- Whether a page of a context area is as R345 asks: it translates, permits R and W, is pinned and is homed in the package. -/
def ctxPageOk (s : State) (d o : Nat) (va : Word) : Bool :=
  match walkOwner s d o va with
  | .ok l =>
    let pa := leafPa l va
    populated s d pa 1 && l.e.getLsbD 2 && l.e.getLsbD 3 && l.e.getLsbD 10 && !pa.testBit 52 && locPkg pa == s.pkg.toNat
  | _ => false

/-- A page of the context area that is not: detail 0x05. -/
def ctxBad (s : State) (d o : Nat) (r : BitVec 2048) : Bool :=
  let a := lrCtx r
  (List.range ((a % 65536 + ctxExtent r + 65535) / 65536)).any (fun i => !ctxPageOk s d o (BitVec.ofNat 64 (a / 65536 * 65536 + 65536 * i)))

/-- The lowest detail that rejects a record of a queue, but for the itinerary reads (R333). -/
def rejectDetail (s : State) (d : Nat) (m : QMap) (r : BitVec 2048) : Option Nat :=
  if recordBad r then some 1
  else if lrOwner r ≠ m.owner ∨ (s.owner m.owner).priomax.toNat < lrPrio r then some 2
  else if hierarchyBad s r then some 3
  else if requestBad s r then some 4
  else if ctxBad s d m.owner r then some 5
  else if lrFixed r ∧ (fixedTiles r).any (fun x => tileFailed s x.1 x.2) = true then some 6
  else if recBits r 63 0 % 8 ≠ 0 ∨ lrCtx r % 4096 ≠ 0 ∨ lrCpl r % 16 ≠ 0 then some 7
  else none

end Sys2Proof.Machine
end

