-- ==== Sys2Proof/Machine/Perform.lean ====
section
/-! DEFINITION. The accesses that wait for their home: how they are performed, answered, or fail (R47, R48, R173, R321, R344, R355). -/

namespace Sys2Proof.Machine

/-! ## Who takes the fault of a waiting access -/

/-- Whether the maker of a waiting access is there to take its fault: an operation that runs, a schedule, a run of the strand's region, the device, or
the agent at its instruction. -/
def makerWaits (s : State) (p : Pending) : Bool :=
  !p.orphan && !p.stale && !p.answered && p.failed.isNone &&
  (match p.kind with
  | .probe (some t) =>
    (match s.op p.agent (probeTok t) with
    | some o => opRuns s o
    | none =>
      if 8 ≤ t then mayProceed s p.agent && (match ((s.ctx p.agent).getSch (t - 8)).st with
        | .run | .waittok => true
        | .idle | .stopped | .done => false)
      else (ownRegion s p.agent).any (fun r => ((s.region r).bind (·.run)).any (fun u => u.tok.toNat == t && runMoves s r u)))
  | .probe none => probing s p.agent && mayProceed s p.agent
  | .device _ => true
  | .load .. | .store _ | .atom .. | .cas .. => (s.ctx p.agent).stall == .access && mayProceed s p.agent)

/-- Remove the waiting access `i`. -/
def dropPend (s : State) (i : Nat) : State := { s with pend := s.pend.eraseIdx i }

/-- The maker of the waiting access `i` takes its fault: an operation, a schedule, a run, or the agent (R101, R339); the device meets it when it makes the access
again. -/
def failMaker (s : State) (i : Nat) (p : Pending) (f : FaultInfo) : State :=
  let s1 := dropPend s i
  match p.kind with
  | .probe (some t) =>
    (match s.op p.agent (probeTok t) with
    | some _ => opFault s1 p.agent (probeTok t) f
    | none =>
      if 8 ≤ t then
        (if ((s.ctx p.agent).getSch (t - 8)).count = 0 then takeFault s1 p.agent f else schFault s1 p.agent (t - 8) none f)
      else
        match ownRegion s p.agent with
        | some r => runFault s1 r f
        | none => s1)
  | .probe none => takeFault s1 p.agent f
  | .device _ => { s with pend := s.pend.set i { p with failed := some f } }
  | .load .. | .store _ | .atom .. | .cas .. => takeFault (s1.modCtx p.agent (fun c => { c with stall := .none })) p.agent f

/-! ## Performing at the home (R48) -/

/-- The address of the first part of a waiting access that satisfies a test of its location and length; else that of the access (R50). -/
def partAddr (p : Pending) (test : Nat → Nat → Bool) : Word :=
  (p.parts.foldl (fun (m : Option Word × Nat) x =>
    (if m.1.isNone && test x.1 x.2 then some (p.addr + BitVec.ofNat 64 m.2) else m.1, m.2 + x.2)) (none, 0)).1.getD p.addr

/-- Whether a part is for a home in another package that refuses the owner: its grant there leaves this package out (R344). -/
def refusedAt (s : State) (p : Pending) (loc : Nat) : Bool :=
  !isBuffer loc && !isHost loc && locPkg loc != s.pkg.toNat && !Config.homeGrants (locPkg loc) p.owner

/-- ISOL detail 0x04 of a waiting access that its home refuses, with the address of the first part refused. -/
def refusal (s : State) (p : Pending) : Option FaultInfo :=
  if p.parts.any (fun x => x.2 != 0 && refusedAt s p x.1) then some (flt clsIsol 4 (partAddr p (fun l _ => refusedAt s p l))) else none

/-- The issuer of a performed access retires it; one whose instruction was abandoned does not, and its loaded values are discarded
(R340). An atomic that was issued before the halt keeps its issuer in the stall, so it retires once (log entry 70). -/
def finishAccess (s0 s : State) (p : Pending) : State :=
  if !p.orphan && !p.stale && (s0.ctx p.agent).stall == .access then s.endStall p.agent
  else s.setCtx p.agent (s0.ctx p.agent)

/-- The issuer of a waiting access takes its fault, unless its instruction was abandoned. -/
def failAccess (s : State) (p : Pending) (f : FaultInfo) : State :=
  if !p.orphan && !p.stale && (s.ctx p.agent).stall == .access then takeFault (s.modCtx p.agent (fun c => { c with stall := .none })) p.agent f else s

/-- A waiting access whose parts are routed is performed at its home; `s0` is the state before (R48). A home in another package may refuse
it (R344). -/
def finishPend (s0 s1 : State) (p : Pending) (ps : List Place) : State :=
  match refusal s1 { p with parts := partsOf ps } with
  | some f => failAccess s1 p f
  | none =>
    match performAt s1 p.req p.kind p.addr p.size ps with
    | (s2, .fault f) => failAccess s2 p f
    | (_, .later) => s0
    | (s2, .ok _) => finishAccess s1 s2 p

/-- The routed parts of a waiting access, if it keeps its translation. -/
def pendPlaces (p : Pending) : List Place := p.parts.map (fun x => ⟨x.1, false, false, x.2⟩)

/-- The probe `i` comes to its home: the home refuses it, or answers, and the step that it stands for may be made. -/
def answerProbe (s : State) (i : Nat) (p : Pending) : State :=
  match refusal s p with
  | some f => if makerWaits s p then failMaker s i p f else s
  | none => { s with pend := s.pend.set i { p with answered := true } }

/-- Whether an access of the same agent, issued before the waiting access `i`, is still to be performed: a strand's accesses are performed in
program order, a hub core's as the edges ask (R280; log entry 9). -/
def behind (s : State) (i : Nat) (p : Pending) : Bool :=
  (s.pend.take i).any (fun x => decide (x.agent = p.agent) && !x.orphan && !isProbe x && (!p.agent.isHub || hubEdge s x p.kind p.ord p.scope p.parts))

/-- A waiting access that a migration has returned translates again (R47). -/
def reissue (s : State) (i : Nat) (p : Pending) : State :=
  match route s p.req (accNeed p.kind) p.addr p.len with
  | (s1, .later) => s.waiting s1
  | (s1, .fault f) => failAccess (dropPend s1 i) p f
  | (s1, .ok ps) =>
    if ps.any (fun x => isHost x.loc) && !hostAtomic p.kind then failAccess (dropPend s1 i) p (flt clsHost 1 p.addr)
    else if ps.any (fun x => locked s1 x.loc x.len || !homeReach s1 p.agent.die x.loc) then
      let x := pendOf s1 p.req p.kind p.addr p.size p.len ps
      { s1 with pend := s1.pend.set i { p with parts := x.parts, remote := x.remote, host := x.host, ticks := 0 } }
    else finishPend s (dropPend s1 i) p ps

/-- Whether a waiting access is a timed send on its way: its arrival answers it (R316). -/
def onItsWay (s : State) (p : Pending) : Bool :=
  match p.kind with
  | .probe (some t) => (s.op p.agent t).any (fun o => decide (o.kind = .tsend))
  | .probe none | .device _ | .load .. | .store _ | .atom .. | .cas .. => false

/-- The waiting access `i` is performed at its home, and its result or fault is returned (R48). An access that a migration still
holds, or that no route reaches, is not performed; one that was returned translates again (R47). -/
def performPend (s : State) (i : Nat) : State :=
  match s.pend[i]? with
  | none => s
  | some p =>
    if p.answered || p.failed.isSome || onItsWay s p || behind s i p then s
    else if (pendPlaces p).any (fun x => locked s x.loc x.len || !homeReach s p.agent.die x.loc) then s
    else if isProbe p then answerProbe s i p
    else if p.parts.isEmpty then reissue s i p
    else finishPend s (dropPend s i) p (pendPlaces p)

/-- A waiting access is performed at its home (R48). -/
def execMemoryAccessPerform (i : Nat) (s : State) : Host.Outcome State Fault Refusal := .next (performPend s i)

/-! ## Accesses that fail while they wait (R173, R321, R355) -/

/-- An access held by a migration has waited for HOLDTO ticks: HOLDTO detail 0x03 for the agent or operation that made it (R173). -/
def execHeldAccessWatchdogExpiry (i : Nat) (s : State) : Host.Outcome State Fault Refusal :=
  match s.pend[i]? with
  | none => .next s
  | some p =>
    match p.task.bind s.task with
    | none => .next s
    | some k =>
      if isHeld s p && decide (holdtoLimit k ≤ p.heldTicks) && makerWaits s p then
        .next (failMaker s i p (flt clsHoldto 3 (partAddr p (locked s))))
      else .next s

/-- Whether a part of a waiting access is remote. -/
def remotePart (s : State) (p : Pending) (loc : Nat) : Bool :=
  if isBuffer loc then bufDie loc != p.agent.die else offDie s p.agent.die loc && !isHost loc

/-- The fault of a remote access that is not acknowledged: LINK detail 0x03 where the causeways on its path are down in both ring
directions, else 0x02; the address of its first remote part, the package and its mask (R50, R321, R341). -/
def linkLate (s : State) (p : Pending) : FaultInfo :=
  let pa := ((p.parts.find? (fun x => remotePart s p x.1)).map (·.1)).getD 0
  let det := if linkPkg s pa = s.pkg.toNat && !homeReach s p.agent.die pa then 3 else 2
  { flt clsLink det (partAddr p (fun l _ => remotePart s p l)) with
    info0 := BitVec.ofNat 64 (linkPkg s pa), info1 := BitVec.ofNat 64 (routeMask s p.agent.die (linkPkg s pa)) }

/-- What stays in the retry buffer of an access that is not acknowledged, to be performed when a route returns, with nobody to take its result: the
access itself, or the write for which a probe stands (R321). -/
def retryEntry (p : Pending) : Pending :=
  match p.kind with
  | .probe _ => { p with kind := .store p.data, stale := true }
  | .device _ => { p with kind := .store p.data, orphan := true }
  | .load .. | .store _ | .atom .. | .cas .. => { p with stale := true }

/-- No acknowledgement of a remote access within 2,000,000 ticks: LINK (R321). -/
def execLinkAckTimeout (i : Nat) (s : State) : Host.Outcome State Fault Refusal :=
  match s.pend[i]? with
  | none => .next s
  | some p =>
    if p.remote ∧ 2000000 ≤ p.ticks ∧ makerWaits s p = true then
      let t := failMaker s i p (linkLate s p)
      .next (if isProbe p && p.data.isEmpty then t else { t with pend := t.pend ++ [retryEntry p] })
    else .next s

/-- No completion of a host access within 10,000,000 ticks: HOST detail 0x03; the access is not performed (R355). -/
def execHostCompletionTimeout (i : Nat) (s : State) : Host.Outcome State Fault Refusal :=
  .next (match s.pend[i]? with
    | none => s
    | some p =>
      if p.host ∧ 10000000 ≤ p.ticks ∧ makerWaits s p = true then failMaker s i p (flt clsHost 3 (partAddr p (fun l _ => isHost l))) else s)

end Sys2Proof.Machine
end

