-- ==== Sys2Proof/Machine/TimeZones.lean ====
section
/-! DEFINITION. Dies as time zones: TICK, LATQ, REALIGN and timed sends (R303, R310-R318), causeways and Swelin ports
(R309, R319-R321). -/

namespace Sys2Proof.Machine

/-! ## TICK and LATQ (R303, R313) -/

/-- TICK (R303). -/
def execTick (g : Guard) (d : SReg) (s : State) : Host.Outcome State Fault Refusal :=
  runOk g s (fun s u => s.putS u d (s.die u.die).tick)

/-- LATQ (R312, R313). -/
def execLatq (g : Guard) (d a b : SReg) (s : State) : Host.Outcome State Fault Refusal :=
  runOk g s (fun s u =>
    let x := (s.getS u a).toNat
    let y := (s.getS u b).toNat
    s.putS u d (if 3 < x ∨ 3 < y then BitVec.allOnes 64 else (Config.latency x y).zeroExtend 64))

/-- LATQ.NOW (R313). -/
def execLatqNow (g : Guard) (d : SReg) (s : State) : Host.Outcome State Fault Refusal :=
  runOk g s (fun s u => s.putS u d (visible s u u.die))

/-- LATQ.RAW (R313). -/
def execLatqRaw (g : Guard) (d : SReg) (s : State) : Host.Outcome State Fault Refusal :=
  runOk g s (fun s u => s.putS u d (s.die u.die).raw)

/-! ## REALIGN (R311, R314) -/

/-- The dies on which an agent's group runs. -/
def groupDies (s : State) (u : Agent) : List Nat :=
  match (s.taskOf u).bind s.task with
  | none => List.range Config.dies
  | some k => (List.range Config.dies).filter (fun d => k.tiles.any (fun t => t.1 == d))

/-- Write the offset of an agent's group on a die. -/
def setMpOff (s : State) (u : Agent) (d : Nat) (v : Word) : State :=
  if u.isHub then { s with hubMpoff := tset s.hubMpoff d v }
  else
    match s.taskOf u with
    | none => s
    | some n => s.modTask n (fun k => { k with mpoff := tset k.mpoff d v })

/-- REALIGN: the alignment instant is 512 beats away (R314). -/
def execRealign (g : Guard) (d a : SReg) (s : State) : Host.Outcome State Fault Refusal :=
  runStrand g s (fun s u => .wait (s.stallOn u (.realign (s.getS u a) d ((s.die u.die).raw + 512) false)))

/-- Every die of a group takes its offset at the alignment instant; the markers of the dies other than the issuing one may be one beat off
(R314). -/
def alignDies (u : Agent) (m : Word) (skew : List (BitVec 1)) : State → List Nat → State
  | s, [] => s
  | s, d :: ds =>
    let k : Word := if d = u.die then 0 else ((skew[d]?).getD 0).zeroExtend 64
    alignDies u m skew (setMpOff s u d (m - (s.die d).raw + k)) ds

/-- The alignment instant of a REALIGN comes: every die of the group applies its offset (R314). -/
def alignGroup (skew : List (BitVec 1)) (s : State) (u : Agent) : State :=
  match (s.ctx u).stall with
  | .realign m d ap false =>
    if (s.die u.die).raw = ap then
      (alignDies u m skew s (groupDies s u)).modCtx u (fun c => { c with stall := .realign m d ap true })
    else s
  | _ => s

/-- The alignment instant of a REALIGN comes, and once every die of the group has applied its offset the instruction retires (R314). -/
def execMilepostAlignment (u : Agent) (skew : List (BitVec 1)) (s : State) : Host.Outcome State Fault Refusal :=
  let t := alignGroup skew s u
  match (t.ctx u).stall with
  | .realign _ d ap true => .next (if mayProceed t u then (t.putS u d ap).endStall u else t)
  | _ => .next t

/-- No alignment instant passes unapplied: before the count goes on, every REALIGN whose instant it is takes effect, the markers of the dies with
free errors (R314). -/
def alignDue (s : State) : State :=
  s.ctxs.foldl (fun s e =>
    let u := agentOfKey e.1
    if s.halted u then s else alignGroup ((List.range Config.dies).map (fun d => BitVec.ofBool (s.fresh.1.getLsbD d))) s.fresh.2 u) s

/-! ## Timed sends (R315-R318) -/

/-- MP of a timed send. -/
def tsMp (d : BitVec 512) : Word := BitVec.ofNat 64 (dbits d 127 64)
/-- FEN. -/
def tsFen (d : BitVec 512) : Bool := d.toNat.testBit 138
/-- The data length in bytes. -/
def tsLen (d : BitVec 512) : Nat := 8 * (dbits d 141 139 + 1)
/-- The destination die. -/
def tsDie (d : BitVec 512) : Nat := dbits d 143 142
/-- DOFF. -/
def tsDoff (d : BitVec 512) : Nat := dbits d 171 152
/-- FOFF. -/
def tsFoff (d : BitVec 512) : Nat := dbits d 191 172

/-- ILLEGAL detail 0x3C of a timed-send descriptor (R315). -/
def tsBad (d : BitVec 512) : Bool :=
  dbits d 255 192 != 0 || dbits d 137 128 != 0 || dbits d 63 0 % 8 != 0 || tsDoff d % 8 != 0 || tsFoff d % 8 != 0 ||
  (!tsFen d && tsFoff d != 0) ||
  (tsFen d && decide (tsFoff d < tsDoff d + tsLen d) && decide (tsDoff d < tsFoff d + 8)) ||
  decide (2 ^ 20 < tsDoff d + tsLen d)

/-- The physical tile that a timed send is for. -/
def tsTile (s : State) (u : Agent) (d : BitVec 512) : Option Nat :=
  ((s.taskOf u).bind s.task).bind (fun k => physTile k (tsDie d) (dbits d 151 144))

/-- The faults of a TSEND after its token's checks (R315, R321). -/
def tsFault (s : State) (u : Agent) (d : BitVec 512) : Option FaultInfo :=
  if tsBad d then some (flt clsIllegal 0x3C)
  else if (visible s u u.die).toNat + 2 ^ 30 < (tsMp d).toNat then some (flt clsIllegal 0x3D)
  else if (tsTile s u d).isNone then some (flt clsAperture 3)
  else if !dieReach s u.die (tsDie d) then
    some { flt clsLink 3 with info0 := BitVec.ofNat 64 s.pkg.toNat, info1 := BitVec.ofNat 64 (routeMask s u.die s.pkg.toNat) }
  else none

/-- The request of a timed send to another die, which stays in the retry buffer until it arrives (R320, R321): its data, and its flag if it has
one. -/
def sendPend (s : State) (o : EngOp) (k : Nat) : Pending :=
  let data : Place := ⟨tbLoc (tsDie o.desc) k (tsDoff o.desc), false, false, o.data.length⟩
  let flag : List Place := if tsFen o.desc then [⟨tbLoc (tsDie o.desc) k (tsFoff o.desc), false, false, 8⟩] else []
  { pendOf s (s.opReq o) (.probe (some o.tok.toNat)) 0 0 0 (data :: flag) with
    remote := true, data := o.data ++ (if tsFen o.desc then leBytes 8 (tsMp o.desc).toNat else []) }

/-- A timed send sets out (R316). -/
def sendOn (s : State) (o : EngOp) : State :=
  let s := (clearProbes s o.agent o.tok.toNat).setOp o.agent o.tok.toNat { o with st := .started }
  match tsTile s o.agent o.desc with
  | some k => if tsDie o.desc = o.agent.die then s else addPend s (sendPend s o k)
  | none => s

/-- TSEND (R315, R316): the data is read at issue. -/
def execTsend (g : Guard) (scope : ScopeCode) (t : TokIx) (a : SReg) (off : BitVec 29) (s : State) : Host.Outcome State Fault Refusal :=
  runStrand g s (fun s0 u =>
    let da := baseOff (s0.ctx u) a off
    if !aligned da 32 then .fault s0 (flt clsAlign 1 da)
    else
      match readLoads s0 (s0.req u) da 4 with
      | (s, .fault f) => .fault s f
      | (s, .later) => .wait (s0.waiting s)
      | (s, .ok bs) =>
        let d := BitVec.ofNat 512 (leNat bs)
        match tokenCheck s u t.toNat with
        | some f => .fault s f
        | none =>
          if reportPending s u t.toNat then .wait s
          else
            match tsFault s u d with
            | some f => .fault s f
            | none =>
              match readGen s (s.req u) (dSrc d) (tsLen d) with
              | (s, .fault f) => .fault s f
              | (s, .later) => .wait (s0.waiting s)
              | (s, .ok data) =>
                let o := newOp s u t .tsend scope d
                let s := startOp s o
                .ok (sendOn s { o with data := data, order := s.opSeq }))

/-- Whether an earlier send of the same issuer to the same tile is still on its way (R316). -/
def sendAhead (s : State) (o : EngOp) : Bool :=
  s.ops.any (fun e => decide (e.2.kind = .tsend) && decide (e.2.agent = o.agent) && decide (e.2.st = .started) && e.2.fault.isNone && decide (e.2.order < o.order) &&
    tsDie e.2.desc == tsDie o.desc && dbits e.2.desc 151 144 == dbits o.desc 151 144)

/-- The data of a timed send is written, in bank words (R316). -/
def writeData (s : State) (d t : Nat) (o : EngOp) : State := writeLoc s (tbLoc d t (tsDoff o.desc)) o.data

/-- The flag of a timed send is written, if it has one (R316). -/
def writeFlag (s : State) (d t : Nat) (o : EngOp) : State :=
  if tsFen o.desc then writeLoc s (tbLoc d t (tsFoff o.desc)) (leBytes 8 (tsMp o.desc).toNat) else s

/-- The writes of a timed send: its data, then its flag (R316). -/
def writeSend (s : State) (d t : Nat) (o : EngOp) : State := writeFlag (writeData s d t o) d t o

/-- The fault of a late send (R317, R341). -/
def lateFault (mp now : Word) : FaultInfo := { flt clsLate 1 with info0 := mp, info1 := now }

/-- The held send that a tile writes next: of those due, the one with the lowest milepost, in arrival order (R316). -/
def dueSend (s : State) (d t : Nat) : Option EngOp :=
  ((s.tile d t).sends.filterMap (tfind s.ops)).foldl (fun m o =>
    if (tsMp o.desc).toNat ≤ (visible s o.agent d).toNat then
      match m with
      | none => some o
      | some (x : EngOp) => if (tsMp o.desc).toNat < (tsMp x.desc).toNat then some o else some x
    else m) none

/-- A tile writes a held send whose milepost has come: its data, and in a further step its flag, so that an observer may see new data with
the old flag, never the flag with old data (R316). -/
def deliverOne (s : State) (die tile : Nat) (o : EngOp) : State :=
  let k := opKey o.agent o.tok.toNat
  let done (s : State) : State := (s.setOp o.agent o.tok.toNat { o with st := .written }).modTile die tile
    (fun x => { x with sends := x.sends.filter (fun n => n != k) })
  if o.st = .landed then done (writeFlag s die tile o)
  else if tsFen o.desc then (writeData s die tile o).setOp o.agent o.tok.toNat { o with st := .landed }
  else done (writeData s die tile o)

/-- A held send whose milepost has come is written (R316). -/
def execTsendDeliver (die tile : Nat) (s : State) : Host.Outcome State Fault Refusal :=
  match dueSend s die tile with
  | none => .next s
  | some o => .next (deliverOne s die tile o)

/-- The sends of a tile that are due are written, data and flag: each has two writes at most. -/
def flushTile (die tile : Nat) : Nat → State → State
  | 0, s => s
  | n + 1, s =>
    match dueSend s die tile with
    | none => s
    | some o => flushTile die tile n (deliverOne s die tile o)

/-- A timed send reaches its tile's timed buffer of 32 sends, or is late: then it is written at once, after what the tile has to write before it
(R316, R317). -/
def execTsendArrive (u : Agent) (t : Nat) (s : State) : Host.Outcome State Fault Refusal :=
  match s.op u t with
  | none => .next s
  | some o =>
    match tsTile s u o.desc with
    | none => .next s
    | some k =>
      let d := tsDie o.desc
      if o.kind ≠ .tsend ∨ o.st ≠ .started ∨ opRuns s o = false ∨ sendAhead s o = true ∨ dieReach s u.die d = false ∨ 32 ≤ (s.tile d k).sends.length then .next s
      else
        let now := visible s u d
        let s := clearProbes s u t
        if (tsMp o.desc).toNat < now.toNat then
          .next (opFault (writeSend (flushTile d k (2 * (s.tile d k).sends.length) s) d k o) u t (lateFault (tsMp o.desc) now) 0x30)
        else .next ((s.setOp u t { o with st := .arrived }).modTile d k (fun x => { x with sends := x.sends ++ [opKey u t] }))

/-- A milepost does not pass with a send unwritten that is due at it: what is due is written before the count goes on (R316). -/
def flushSends (s : State) : State :=
  s.tiles.foldl (fun s e => flushTile (e.1 / 144) (e.1 % 144) (2 * e.2.sends.length) s) s

/-- The destination acknowledges every write: the token goes DONE (R316). -/
def execTsendComplete (u : Agent) (t : Nat) (s : State) : Host.Outcome State Fault Refusal :=
  match s.op u t with
  | none => .next s
  | some o => if o.kind = .tsend ∧ o.st = .written ∧ opRuns s o = true then .next (opDone s u t) else .next s

/-! ## Causeways (R309) -/

/-- Set or clear the causeway on a logical edge of a die, seen from both its ends. -/
def setCauseway (s : State) (d e : Nat) (down : Bool) : State :=
  let bit (n : Nat) (v : BitVec 2) : BitVec 2 := if down then v ||| (1#2 <<< n) else v &&& ~~~(1#2 <<< n)
  let far := if e = 0 then (d + 1) % 4 else (d + 3) % 4
  (s.modDie d (fun y => { y with cwDown := bit e y.cwDown })).modDie far (fun y => { y with cwDown := bit (1 - e) y.cwDown })

/-- A causeway goes down (R309). -/
def execCausewayDown (die edge : Nat) (s : State) : Host.Outcome State Fault Refusal :=
  if die < Config.dies ∧ edge < 2 then .next (setCauseway s die edge true) else .next s

/-- A causeway is restored (R309). -/
def execCausewayRestored (die edge : Nat) (s : State) : Host.Outcome State Fault Refusal :=
  if die < Config.dies ∧ edge < 2 then .next (setCauseway s die edge false) else .next s

/-! ## Swelin ports (R319-R321) -/

/-- A Swelin port of a die. -/
def swPort (s : State) (d i : Nat) : SwPort := tget (s.die d).ports i {}
/-- Write a Swelin port of a die. -/
def setSwPort (s : State) (d i : Nat) (x : SwPort) : State := s.modDie d (fun y => { y with ports := tset y.ports i x })

/-- A port after a flit: a bad CRC is counted and replayed; after 16 consecutive failed replays of one flit the port trains (R320). -/
def afterFlit (x : SwPort) (bad : Bool) : SwPort :=
  if !bad then { x with fails := 0 }
  else
    let y := { x with crcerr := if x.crcerr = 0xFFFF then x.crcerr else x.crcerr + 1 }
    if 16 ≤ x.fails then { y with st := .train, fails := 0 }
    else { y with retry := if x.retry = 0xFFFF then x.retry else x.retry + 1, fails := x.fails + 1 }

/-- What a request from another package reads and writes at this home (R48, R85, R87). -/
def remotePerform (s : State) (pa : Nat) (k : RemoteKind) : State × List Byte :=
  let old (n : Nat) : Nat := mnat s.mem pa n
  match k with
  | .read n => (s, mread s.mem pa n)
  | .write bs => (writeLoc s pa bs, [])
  | .atom aop n v => (writeLoc s pa (leBytes n (atomNew aop n (old n) (v.toNat % 2 ^ (8 * n)))), leBytes n (old n))
  | .cas n e w => (if old n = e.toNat % 2 ^ (8 * n) then writeLoc s pa (leBytes n w.toNat) else s, leBytes n (old n))

/-- The bytes that a request touches, and whether it reads what stands there. -/
def remoteLen : RemoteKind → Nat × Bool
  | .read n => (n, true)
  | .write bs => (bs.length, false)
  | .atom _ n _ => (n, true)
  | .cas n _ _ => (n, true)

/-- The home's answer to a request, and the state after it: ISOL detail 0x04 for an owner whose grant leaves the requesting package out,
XLATE detail 0x04 for memory that this package does not home, ECC detail 0x01 for poison, else the access, which the frame's counter for the
requesting die counts (R10, R38, R46, R74, R344). The master that made a refused request is the other package's, and is frozen there. -/
def remoteAnswer (s : State) (r : RemoteReq) : State × RemoteAns :=
  let (n, rd) := remoteLen r.kind
  if !(s.owner r.owner).grant.toNat.testBit (4096 + r.pkg) then (s, .fault clsIsol 4)
  else if r.pa.testBit 52 || locPkg r.pa != s.pkg.toNat || !inCapacity r.pa n then (s, .fault clsXlate 4)
  else
    let s := if r.nc then s else countAccess s r.pa r.pkg r.die
    if rd && (firstPoison s r.pa n).isSome then (s, .fault clsEcc 1)
    else
      let x := remotePerform s r.pa r.kind
      (x.1, .done x.2)

/-- Whether a record is of a request's requester and sequence number. -/
def recordOf (r : RemoteReq) (x : RemoteRec) : Bool := x.pkg == r.pkg && x.requester == r.requester && x.seq == r.seq

/-- A request is performed or refused, recorded and answered (R320). -/
def remoteServe (s : State) (r : RemoteReq) : State :=
  let a := remoteAnswer s r
  let x : RemoteRec := ⟨r.pkg, r.requester, r.seq, a.2⟩
  { a.1 with homeRecs := a.1.homeRecs ++ [x], homeOut := a.1.homeOut ++ [x] }

/-- A request from another package reaches its home: each sequence number of a requester is performed once, and a repeat is answered from
its record. One for a locked frame is held (R10, R47, R320). -/
def remoteRequest (s : State) (r : RemoteReq) : State :=
  match s.homeRecs.find? (recordOf r) with
  | some x => { s with homeOut := s.homeOut ++ [x] }
  | none =>
    if s.homeHeld.any (fun e => e.2.pkg == r.pkg && e.2.requester == r.requester && e.2.seq == r.seq) then s
    else if locked s r.pa (remoteLen r.kind).1 then { s with homeHeld := s.homeHeld ++ [(s.arrivals, r)], arrivals := s.arrivals + 1 }
    else remoteServe s r

/-- A flit arrives at a port: one whose CRC fails is counted and replayed; one that carries a request of another package brings it to its
home (R320). -/
def execSwelinFlitReceive (die port : Nat) (flit : Flit) (s : State) : Host.Outcome State Fault Refusal :=
  let x := swPort s die port
  match x.st with
  | .down | .train => .next s
  | .up | .degraded =>
    let s1 := setSwPort s die port (afterFlit x (decide (flit = .bad)))
    match flit with
    | .request r => .next (remoteRequest s1 r)
    | .bad | .other => .next s1

/-- A port ends its training with the lanes that pass: UP with four, DEGRADED with fewer, DOWN with none (R319, R320). -/
def execSwelinPortTrained (die port : Nat) (lanes : BitVec 3) (peerPkg : BitVec 10) (peerPort : BitVec 4) (s : State) :
    Host.Outcome State Fault Refusal :=
  let x := swPort s die port
  if die < Config.dies ∧ port < 9 ∧ lanes.toNat ≤ 4 ∧ (x.st = .train ∨ x.st = .down) then
    .next (setSwPort s die port { x with
      st := if lanes = 4 then .up else if lanes = 0 then .down else .degraded
      lanes := lanes, peerPkg := peerPkg, peerPort := peerPort, fails := 0 })
  else .next s

/-- A port goes down (R319). -/
def execSwelinPortDown (die port : Nat) (s : State) : Host.Outcome State Fault Refusal :=
  if die < Config.dies ∧ port < 9 then .next (setSwPort s die port { swPort s die port with st := .down, lanes := 0, fails := 0 }) else .next s

end Sys2Proof.Machine
end

