-- ==== Sys2Proof/Machine/Read.lean ====
section
/-! DEFINITION. The control registers as words, and KRD (R272-R274). -/

namespace Sys2Proof.Machine

/-- A bit at a place of a word. -/
def flagAt (b : Bool) (i : Nat) : Nat := if b then 2 ^ i else 0

/-- STRAND_ID (R274). -/
def strandId (s : State) (u : Agent) : Nat :=
  let c := s.ctx u
  let own := if u.isHub then 0 else (s.ownerOf u).getD 0 * 2 ^ 48 + c.task.getD 0 % 65536 * 2 ^ 32 + c.ltile * 2 ^ 24
  flagAt u.isHub 63 + own + u.die * 2 ^ 22 + u.slot * 2 ^ 20 + s.pkg.toNat * 2 ^ 10

/-- The code of a schedule slot's state (R103). -/
def schCode : SchSt → Nat
  | .idle => 0
  | .run => 1
  | .waittok => 2
  | .stopped => 3
  | .done => 4

/-- SCHSTAT (R103). -/
def schstat (x : SchSlot) : Nat := schCode x.st * 2 ^ 61 + x.ctr % 256 * 2 ^ 53 + x.cursor % 512 * 2 ^ 44 + x.count % 512 * 2 ^ 35

/-- GSTAT (R135). -/
def gstat (x : Gen) : Nat := genStCode x.st * 2 ^ 62 + flagAt x.walk 61 + x.clip % 2 ^ 29 * 2 ^ 32 + x.emit % 2 ^ 32

/-- The code of a gear-change state (R291). -/
def gearCode : GearSt → Nat
  | .run => 0
  | .quiesce => 1
  | .ramp => 2
  | .switch => 3
  | .settle => 4

/-- GEARCTL (R291). -/
def gearctl (x : Tile) : Nat :=
  gearCode x.st * 2 ^ 29 + flagAt x.defer 28 + flagAt x.moved 27 + flagAt x.g1ok 26 + flagAt x.gear 4 + x.spine.toNat

/-- SPTAB (R289): MINLV and FREQ of a spine. -/
def sptabWord (e : SpineEntry) : Nat := e.minlv.toNat * 2 ^ 16 + e.freq.toNat

/-- RVSTAT (R301). -/
def rvstat (s : State) (d t : Nat) : Nat :=
  let x := s.tile d t
  let i := s.island d (clusterOf t)
  i.hold % 2 ^ 32 * 2 ^ 32 + i.cap.toNat * 2 ^ 24 + islandDemand s d (clusterOf t) * 2 ^ 20 + i.lvl.toNat * 2 ^ 16 + flagAt x.ven 4 + x.vote.toNat

/-- TRIM of an island (R306). -/
def trimWord (x : Trim) : Nat :=
  x.cecnt.toNat * 2 ^ 48 + x.cetgt.toNat * 2 ^ 40 + x.trim % 16 * 2 ^ 36 + x.lkg % 16 * 2 ^ 32 + flagAt x.frz 31 + x.frzleft % 2 ^ 31

/-- The code of a Swelin port's state (R319). -/
def portCode : PortSt → Nat
  | .down => 0
  | .train => 1
  | .up => 2
  | .degraded => 3

/-- SWPORT (R319). -/
def swportWord (x : SwPort) : Nat :=
  x.retry.toNat * 2 ^ 48 + x.crcerr.toNat * 2 ^ 32 + x.peerPkg.toNat * 2 ^ 22 + x.peerPort.toNat * 2 ^ 18 + x.lanes.toNat * 2 ^ 4 + portCode x.st

/-- TASKST (R337): a strand runs in RUNNING and DRAINING only. -/
def taskstWord (s : State) (u : Agent) (k : Task) : Nat :=
  (if k.st = .draining then 2 else 1) * 2 ^ 60 + recBits k.lrec 1242 1240 * 2 ^ 57 + flagAt (s.tile u.die u.tile).lent.isSome 56 +
  lrPrio k.lrec * 2 ^ 48 + k.est % 2 ^ 32

/-- A tollbooth counter (R338). -/
def tollWord (x : Toll) : Nat → Nat
  | 0 => x.tt
  | 1 => x.hbm
  | 2 => x.lpd
  | _ => x.uj

/-- FRZn (R344). -/
def frzWord (y : Die) (n : Nat) : Nat :=
  flagAt (n == 15 && y.frzOvf) 62 + (match tfind y.frz n with
    | none => 0
    | some z => 2 ^ 63 + z.kind * 2 ^ 59 + z.id % 65536 * 2 ^ 43 + z.ltile * 2 ^ 35 + z.detail * 2 ^ 27 + flagAt z.wd 26)

/-- A 64-tile part of a map of tiles (R348). -/
def tileMap (p : Nat → Bool) (k : Nat) : Nat :=
  (List.range 64).foldl (fun n i => if 64 * k + i < Config.tilesPerDie ∧ p (64 * k + i) = true then n + 2 ^ i else n) 0

/-- DMSTAT (R348). -/
def dmstat (s : State) (d : Nat) : Nat := (8 - (s.die d).failed.length) * 2 ^ 8 + enabledTiles s d

/-- MSTAT (R353). -/
def mstat (y : Die) : Nat := y.dblf.toNat * 2 ^ 12 + y.stop.toNat * 2 ^ 8 + flagAt y.rdy 2 + flagAt y.err 1 + flagAt y.busy 0

/-- DOESTAT (R383). -/
def doestat (x : Doe) : Nat := flagAt x.present 62 + x.reqLen % 4096

/-- The code of an interface state (R385). -/
def tdiCode : TdiSt → Nat
  | .unlocked => 0
  | .locked => 1
  | .run => 2
  | .error => 3

/-- TDICTL (R385): FUNC 0 reads STATE 00. -/
def tdictl (s : State) : Nat :=
  let x := s.vf s.doe.func
  let st := if s.doe.func = 0 then 0 else tdiCode x.st * 2 ^ 56 + x.cause * 2 ^ 52
  st + s.doe.res * 2 ^ 48 + s.doe.func % 512 * 2 ^ 32 + s.doe.len % 65536 * 2 ^ 16

/-- The control region of a strand, if it has one. -/
def krdRegion (s : State) (u : Agent) : Option Region := (ownRegion s u).bind s.region

/-- The registers of the strand and its tile, at indices below 0x100. -/
def krdStrand (s : State) (u : Agent) (i : Nat) : Nat :=
  let c := s.ctx u
  let x := s.tile u.die u.tile
  if i = 0x000 then strandId s u
  else if i = 0x010 then c.apTile.toNat
  else if i = 0x011 then c.apClus.toNat
  else if i = 0x012 then c.apDie.toNat
  else if i = 0x020 then (tokstat c).toNat
  else if i = 0x021 then (tokerr c).toNat
  else if 0x028 ≤ i ∧ i ≤ 0x02F then schstat (c.getSch (i - 0x028))
  else if i = 0x030 then c.hashst.toNat
  else if 0x038 ≤ i ∧ i ≤ 0x03B then gstat (s.gen u.die u.tile (i - 0x038))
  else if 0x03C ≤ i ∧ i ≤ 0x03F then (s.gen u.die u.tile (i - 0x03C)).bad.toNat
  else if i = 0x040 then x.itbase.toNat
  else if i = 0x041 then x.itcur.toNat
  else if i = 0x0A0 then ((krdRegion s u).map (fun (y : Region) => y.numflg.toNat)).getD 0
  else if i = 0x0A1 then ((krdRegion s u).map (fun (y : Region) => y.zwords.toNat * 2 ^ 32 + y.rovf.toNat)).getD 0
  else if i = 0x0A2 then ((krdRegion s u).map (fun (y : Region) => y.seed.toNat)).getD 0
  else if 0x0C0 ≤ i ∧ i ≤ 0x0CF then (s.trk u.die u.tile (i - 0x0C0)).cfg
  else if 0x0D0 ≤ i ∧ i ≤ 0x0DF then (s.trk u.die u.tile (i - 0x0D0)).stat
  else if 0x0E0 ≤ i ∧ i ≤ 0x0EF then (s.trk u.die u.tile (i - 0x0E0)).pk
  else 0

/-- The power and die registers, at indices 0x100 to 0x2FF. -/
def krdDie (s : State) (u : Agent) (i : Nat) : Nat :=
  let d := u.die
  if i = 0x100 then gearctl (s.tile d u.tile)
  else if 0x108 ≤ i ∧ i ≤ 0x10F then sptabWord (spineAt s (i - 0x108))
  else if i = 0x110 then ((krdRegion s u).map (fun (y : Region) => y.duty.toNat)).getD 0
  else if i = 0x118 then rvstat s d u.tile
  else if 0x180 ≤ i ∧ i ≤ 0x1A3 then trimWord (s.trim d (i - 0x180))
  else if i = 0x200 then d * 4 + Config.rot d
  else if i = 0x201 then (Config.cwmap d).toNat % 2 ^ 4
  else if i = 0x202 then (Config.portmap d).toNat % 2 ^ 36
  else if i = 0x203 then (Config.chmap d).toNat % 2 ^ 14
  else if i = 0x208 then (s.die d).raw.toNat
  else if i = 0x209 then (visible s u d).toNat
  else if i = 0x20A then (mpOff s u d).toNat
  else if 0x240 ≤ i ∧ i ≤ 0x248 then swportWord (swPort s d (i - 0x240))
  else if i = 0x250 then (s.die d).swrt.toNat
  else 0

/-- The handler, task, fault and host registers, at indices from 0x300. XINV_CMD, PCTL and MCMD hold write-only fields alone. -/
def krdSystem (s : State) (u : Agent) (i : Nat) : Nat :=
  let c := s.ctx u
  let y := s.die u.die
  let k := (s.taskOf u).bind s.task
  if i = 0x300 then c.htvec.toNat
  else if i = 0x301 then c.hepc.toNat
  else if i = 0x302 then c.hcause.toNat
  else if i = 0x303 then c.hfaddr.toNat
  else if i = 0x304 then flagAt c.hstat 0
  else if i = 0x310 then c.xinvVa.toNat
  else if i = 0x400 then (k.map (taskstWord s u)).getD 0
  else if 0x408 ≤ i ∧ i ≤ 0x40F then (k.map (fun (k : Task) => lrLevel k.lrec (i - 0x408))).getD 0
  else if 0x410 ≤ i ∧ i ≤ 0x413 then tollWord (s.toll ((s.ownerOf u).getD 0)) (i - 0x410)
  else if i = 0x500 then y.lanehub.toNat
  else if 0x510 ≤ i ∧ i ≤ 0x51F then frzWord y (i - 0x510)
  else if i = 0x530 then y.dmver.toNat
  else if 0x540 ≤ i ∧ i ≤ 0x542 then tileMap (tileFailed s u.die) (i - 0x540)
  else if 0x544 ≤ i ∧ i ≤ 0x546 then tileMap (fun t => (tfind y.spare t).isSome) (i - 0x544)
  else if i = 0x548 then dmstat s u.die
  else if i = 0x600 then s.mgbase.toNat
  else if i = 0x602 then mstat y
  else if i = 0x603 then y.hdoor.toNat
  else if i = 0x610 then s.doe.base.toNat
  else if i = 0x611 then doestat s.doe
  else if i = 0x612 then tdictl s
  else 0

/-- The word that a read of a control register returns (R272). -/
def kregRead (s : State) (u : Agent) (i : Nat) : Word :=
  BitVec.ofNat 64 (if i < 0x100 then krdStrand s u i else if i < 0x300 then krdDie s u i else krdSystem s u i)

/-- KRD (R272). -/
def execKrd (g : Guard) (d : SReg) (idx : BitVec 12) (s : State) : Host.Outcome State Fault Refusal :=
  runOk g s (fun s u => s.putS u d (kregRead s u idx.toNat))

end Sys2Proof.Machine
end

