-- ==== Sys2Proof/Machine/Xform.lean ====
section
/-! DEFINITION. Transformed copies (R100): lending the region, the words that the engine feeds to the block and takes from it, the end
of the copy; and the mapper's results (R238, R240, R246). -/

namespace Sys2Proof.Machine

/-! ## Lending a region (R100) -/

/-- The claim of a transformed copy's engine on a FIFO. -/
def xformClaim (o : EngOp) : Claim := .stream o.agent (16 + o.tok.toNat)

/-- The run of a transformed copy's block on its region. -/
def xformRun (s : State) (o : EngOp) (x : Region) (i : Install) : Run :=
  { tok := o.tok, scope := o.scope, shared := false, stages := [newStage (s.ctx o.agent) x 4 i]
    apTile := o.apTile, apClus := o.apClus, apDie := o.apDie }

/-- The engine's roles: producer of the block's first FEED-FIFO binding, consumer of its first OUT-FIFO binding. -/
def claimXform (c : Claim) (st : Stage) (x : Region) : Region :=
  let x := match (bindsOf st 0).head? with
    | some e => x.setFifo e.2.fifo { x.fifo e.2.fifo with producer := some c }
    | none => x
  match (bindsOf st 3).head? with
  | some e => x.setFifo e.2.fifo { x.fifo e.2.fifo with consumer := some c }
  | none => x

/-- Whether another producer or consumer holds a FIFO that the engine needs. -/
def xformTaken (st : Stage) (x : Region) : Bool :=
  (match (bindsOf st 0).head? with
  | some e => (x.fifo e.2.fifo).producer.isSome
  | none => false) ||
  (match (bindsOf st 3).head? with
  | some e => (x.fifo e.2.fifo).consumer.isSome
  | none => false)

/-- The copy ends in a fault before its block runs; the lend ends. -/
def xformFail (s : State) (r : RegionId) (o : EngOp) (f : FaultInfo) : State :=
  let s := opFault s o.agent o.tok.toNat f
  if fstatus f.cls f.detail = .replay then s else s.modRegion r (fun x => { x with lent := none, mapping := none })

/-- The block is placed: the region's run becomes the copy's, after the checks that BRUN would make. -/
def xformPlace (s : State) (r : RegionId) (o : EngOp) (b : Block) (img : MapImage) (addr : Word) : State :=
  match s.region r with
  | none => s
  | some x =>
    let u := xformRun s o x ⟨b, img, addr⟩
    match u.cur with
    | none => s
    | some st =>
      match runIssueFault s r (s.opReq o) x u with
      | some f => xformFail s r o f
      | none =>
        if xformTaken st x then xformFail s r o (flt clsIllegal 0x33)
        else (clearProbes s o.agent o.tok.toNat).setRegion r { claimXform (xformClaim o) st x with run := some u, lent := some o.tok.toNat, mapping := none }

/-- The block of a transformed copy: entry BIDX of the task's block table names its record (R100). -/
def xformBlock (s : State) (r : RegionId) (o : EngOp) (x : Region) : State :=
  let q := s.opReq o
  match (s.taskOf o.agent).bind s.task with
  | none => s
  | some k =>
    match readGen s q (BitVec.ofNat 64 (recBits k.lrec 191 128 + 8 * dBidx o.desc)) 8 with
    | (s1, .fault f) => xformFail s1 r o f
    | (s1, .later) => s.waiting s1
    | (s1, .ok e) =>
      let addr : Word := BitVec.ofNat 64 (leNat e)
      if !aligned addr 64 then xformFail s1 r o (flt clsAlign 1 addr)
      else
        match readRecord s1 q addr with
        | (s2, .fault f) => xformFail s2 r o f
        | (s2, .later) => s.waiting s2
        | (s2, .ok (.error f)) => xformFail s2 r o f
        | (s2, .ok (.ok (h, b))) =>
          if b.img then
            (match loadImage s2 r q 4 addr h b x with
            | (s3, .fault f) => xformFail s3 r o f
            | (s3, .later) => s.waiting s3
            | (s3, .ok (.error f)) => xformFail s3 r o f
            | (_, .ok (.ok s3)) =>
              (match (s3.region r).bind (fun y => tfind y.slots 4) with
              | some i => xformPlace (s3.modRegion r (fun y => { y with slots := tdel y.slots 4, hit := x.hit, mapFb := x.mapFb, relays := x.relays }))
                  r o i.block i.image addr
              | none => s))
          else
            match lookUp s2 r q 4 addr h b x with
            | (s3, .fault f) => xformFail s3 r o f
            | (s3, .later) => s.waiting s3
            | (s3, .ok (.error f)) => xformFail s3 r o f
            | (_, .ok (.ok (s3, some img))) => xformPlace s3 r o b img addr
            | (_, .ok (.ok (s3, none))) => s3.modRegion r (fun y => { y with lent := some o.tok.toNat })

/-- The transformed copy that waits for its region to be lent: of several of a strand that are on engines, the one on the lowest token (R100 gives
no order; DESIGN CHOICE, log entry 134). -/
def xformWaiting (s : State) (r : RegionId) : Option EngOp :=
  ((List.range 8).filterMap (fun t => s.op r.strand t)).find? (fun o => decide (o.kind = .xform) && decide (o.st = .started) && opRuns s o)

/-- A region is lent to a transformed copy once no block run of it is BUSY (R100). -/
def execRegionLendBegin (r : RegionId) (s : State) : Host.Outcome State Fault Refusal :=
  match s.region r, xformWaiting s r with
  | some x, some o => if regionBusy x || x.mapping.isSome then .next s else .next (xformBlock s r o x)
  | _, _ => .next s

/-! ## The engine's words (R100) -/

/-- The words of a row on a side of `n` bytes, and how many there are in all. -/
def xformWords (d : BitVec 512) (n : Nat) : Nat := dPlanes d * dRows d * (n / 8)

/-- The address of the k-th word of a side, row by row. -/
def xformAddr (d : BitVec 512) (base : Word) (n : Nat) (rs ps : Int) (k : Nat) : Word :=
  let row := k / max 1 (n / 8)
  rowAddr base (row / max 1 (dRows d)) (row % max 1 (dRows d)) rs ps + BitVec.ofNat 64 (8 * (k % max 1 (n / 8)))

/-- The FIFO of a region that a claim produces for, or consumes from. -/
def claimedFifo (x : Region) (c : Claim) (feed : Bool) : Option Nat :=
  (List.range 8).find? (fun f => (if feed then (x.fifo f).producer else (x.fifo f).consumer) == some c)

/-- A transformed copy that runs on the agent's region. -/
def xformOp (s : State) (u : Agent) (t : Nat) : Option (RegionId × Region × EngOp) :=
  match ownRegion s u, s.op u t with
  | some r, some o =>
    (match s.region r with
    | some x => if o.kind = .xform ∧ x.lent = some t ∧ opRuns s o = true then some (r, x, o) else none
    | none => none)
  | _, _ => none

/-- The engine reads a source word and feeds it to the block (R100). -/
def xformFeed (s : State) (u : Agent) (t : Nat) : State :=
  match xformOp s u t with
  | none => s
  | some (r, x, o) =>
    match claimedFifo x (xformClaim o) true with
    | none => s
    | some f =>
      if o.st ≠ .started ∨ x.run.isNone ∨ (x.fifo f).room = 0 ∨ xformWords o.desc (dLen o.desc) ≤ o.num then s
      else
        match readGenOwn s (s.opReq o) o.own (xformAddr o.desc (dSrc o.desc) (dLen o.desc) (dStride o.desc 192) (dStride o.desc 256) o.num) 8 with
        | (s1, .fault f) => opFault s1 u t f
        | (s1, .later) => s.waiting s1
        | (s1, .ok bs) =>
          noteProgress (((dropProbes s1 (s.opReq o)).setRegion r (x.setFifo f ((x.fifo f).push (plainVal (leNat bs))))).setOp u t { o with num := o.num + 1 }) u t

/-- The engine takes a word from the block and writes it to the destination; words beyond the last row are only counted (R100). -/
def xformDrain (s : State) (u : Agent) (t : Nat) : State :=
  match xformOp s u t with
  | none => s
  | some (r, x, o) =>
    match claimedFifo x (xformClaim o) false with
    | none => s
    | some f =>
      match (x.fifo f).readable with
      | [] => s
      | v :: _ =>
        let n := xformLen o.desc
        let took (s : State) (own : Tab Byte) : State :=
          noteProgress ((s.setRegion r (x.setFifo f (x.fifo f).pop)).setOp u t { o with made := o.made + 1, own := own }) u t
        if xformWords o.desc n ≤ o.made then took s o.own
        else
          let a := xformAddr o.desc (dDst o.desc) n (dStride o.desc 224) (dStride o.desc 288) o.made
          let q := { s.opReq o with tok := some (drainProbe t) }
          match writeGen s q a (leBytes 8 v.w.toNat) with
          | (s1, .fault f) => opFault s1 u t f
          | (s1, .later) => s.waiting s1
          | (s1, .ok _) => took (dropProbes s1 q) (noteOwn s (s.opReq o) o.own a 8)

/-- A FEED pushes one entry (R117); q from 16 up names the transformed copy on token q - 16 (R100). -/
def execFeedPush (u : Agent) (q : Nat) (s : State) : Host.Outcome State Fault Refusal :=
  .next (if q < 16 then feedStep s u q else xformFeed s u (q - 16))

/-- A DRAIN writes one entry (R117); q from 16 up names the transformed copy on token q - 16 (R100). -/
def execDrainWrite (u : Agent) (q : Nat) (s : State) : Host.Outcome State Fault Refusal :=
  .next (if q < 16 then drainStep s u q else xformDrain s u (q - 16))

/-! ## The end of a copy (R92, R99, R100) -/

/-- A region whose lend ends: the engine's roles go, and what it fed and the block did not consume is discarded. -/
def endLend (x : Region) (o : EngOp) : Region :=
  let c := xformClaim o
  { (List.range 8).foldl (fun x f =>
      let y := x.fifo f
      x.setFifo f (dropConsumer c (if y.producer = some c then { dropProducer c y with entries := [] } else y))) x with lent := none }

/-- The words that the block of a transformed copy has left unconsumed. -/
def xformLeft (x : Region) (o : EngOp) : Nat :=
  match claimedFifo x (xformClaim o) true with
  | none => 0
  | some f => (x.fifo f).entries.length

/-- The end of a transformed copy: the lend ends; a wrong ratio raises TOKEN detail 0x07 and leaves cause 0x02 (R100). -/
def endXform (s : State) (r : RegionId) (x : Region) (o : EngOp) : State :=
  let cin := o.num - xformLeft x o
  let s1 := s.setRegion r (endLend x o)
  let s2 := if cin * dRout o.desc ≠ o.made * dRin o.desc then opFault s1 o.agent o.tok.toNat (flt clsToken 7) 2 else endCopy s s1 o
  reformTry s2 (s2.ctx o.agent).task o.agent.die o.agent.tile

/-- Whether a transformed copy whose block has ended has written all that the block made. -/
def xformDrained (x : Region) (o : EngOp) : Bool :=
  match claimedFifo x (xformClaim o) false with
  | none => true
  | some f => (x.fifo f).readable.isEmpty

/-- A copy, fill or transformed copy on an engine completes (R92, R99, R100). -/
def execCopyComplete (u : Agent) (t : Nat) (s : State) : Host.Outcome State Fault Refusal :=
  match s.op u t with
  | none => .next s
  | some o =>
    if o.st = .started ∧ opRuns s o = true ∧ (o.kind = .copy ∨ o.kind = .fill) then
      (match copyRows s.mem (s.opReq o) o.desc s (if dEmpty o.desc then [] else rowsOf o.desc) with
      | (s1, .ok _) => .next (endCopy s s1 o)
      | (s1, .fault f) => .next (opFault s1 u t f)
      | (s1, .later) => .next (s.waiting s1))
    else if o.st = .written then
      (match xformOp s u t with
      | some (r, x, o) => .next (if xformDrained x o then endXform s r x o else s)
      | none => .next s)
    else .next s

/-! ## The mapper's answer (R238, R240, R246) -/

/-- Whether a result is one that the mapper gives: what R238 and R240 let it answer, the same for the same record and shape of region, within
4,000,000 ticks. -/
def isAnswer (s : State) (x : Region) (m : Mapping) (res : Option MapImage) : Bool :=
  decide (m.ticks < 4000000) &&
  (match answerOf s m.block x with
  | some e => decide (e.result = res)
  | none => mayAnswer m.block x.nrows x.ncols res)

/-- The mapper's answer is remembered (R238). -/
def keepAnswer (s : State) (x : Region) (m : Mapping) (res : Option MapImage) : State :=
  if (answerOf s m.block x).isSome then s else { s with mapped := s.mapped ++ [⟨m.block, x.qrows, x.qcols, res⟩] }

/-- The mapper answers a BLOAD, or the engine of a transformed copy: with a mapping, which the cache keeps, or with none. -/
def mapperAnswer (s : State) (r : RegionId) (x : Region) (m : Mapping) (res : Option MapImage) : State :=
  let u := r.strand
  match res with
  | none =>
    if m.slot < 4 then takeFault (s.modRegion r (fun y => { y with mapping := none })) u (flt clsMap 1)
    else
      (match x.lent.bind (s.op u) with
      | some o => xformFail s r o (flt clsMap 1)
      | none => s)
  | some img =>
    let img := { img with words := sortWords img.words }
    let s := cacheTouch s r.die (cacheEntry (s.die r.die) m.block x img)
    if m.slot < 4 then (fillSlot s r m.slot m.block img m.addr false).endStall u
    else
      match x.lent.bind (s.op u) with
      | some o => xformPlace s r o m.block img m.addr
      | none => s

/-- Whether the mapper's client still waits: the strand in its BLOAD, or the engine. -/
def mapperAwaited (s : State) (r : RegionId) (x : Region) (m : Mapping) : Bool :=
  if m.slot < 4 then (s.ctx r.strand).stall == .mapper && mayProceed s r.strand
  else
    match x.lent.bind (s.op r.strand) with
    | some o => opRuns s o
    | none => false

/-- The mapper returns a placement or a failure (R238, R240). -/
def execMapperResult (u : Agent) (res : Option MapImage) (s : State) : Host.Outcome State Fault Refusal :=
  match ownRegion s u with
  | none => .next s
  | some r =>
    match s.region r with
    | none => .next s
    | some x =>
      match x.mapping with
      | some m => if mapperAwaited s r x m && isAnswer s x m res then .next (mapperAnswer (keepAnswer s x m res) r x m res) else .next s
      | none => .next s

/-- The mapper gives no result within 4,000,000 ticks: MAP detail 0x06 (R240). -/
def execMapperTimeout (u : Agent) (s : State) : Host.Outcome State Fault Refusal :=
  match ownRegion s u with
  | none => .next s
  | some r =>
    match s.region r with
    | none => .next s
    | some x =>
      match x.mapping with
      | none => .next s
      | some m =>
        if m.ticks < 4000000 ∨ mapperAwaited s r x m = false then .next s
        else if m.slot < 4 then .next (takeFault (s.modRegion r (fun y => { y with mapping := none })) u (flt clsMap 6))
        else
          match x.lent.bind (s.op u) with
          | some o => .next (xformFail s r o (flt clsMap 6))
          | none => .next s

end Sys2Proof.Machine
end

