-- ==== Sys2Proof/Machine/Halt.lean ====
section
/-! DEFINITION. After the halt line: agents stop and write their records, the skid bound, the lanes (R339-R343), and the resume of a
partition (R112, R121, R140, R318, R347). -/

namespace Sys2Proof.Machine

/-! ## The context area (R345, R346) -/

/-- The request of the device's own accesses for an owner on a die: virtual addresses, no window (R345). -/
def ownerReq (d o : Nat) : Req := ⟨.strand d 0 0, 0, 0, 0, o, none, false, true, none, false, none⟩

/-- The same of an access that waits for its home: that of record `n` (R355). -/
def deviceReq (d o n : Nat) : Req := { ownerReq d o with waits := true, dev := some n }

/-- The place of a tile among the frames of a task: die by die in ascending position, then in ascending logical tile (R345). -/
def frameIndex (k : Task) (d t : Nat) : Nat := (k.tiles.filter (fun x => decide (x.1 < d))).length + logTile k d t

/-- The offset of the frame of a tile in the context area. -/
def frameOff (k : Task) (d t : Nat) : Nat := 0x100000 + 2 ^ 21 * frameIndex k d t

/-- The number of an entry of a task's stop tables: the frame of a tile, and the entry (R346). -/
def stopKey (k : Task) (d t i : Nat) : Nat := frameIndex k d t * 64 + i

/-- A write into the context area of a task, as stores of its owner. -/
def ctxStore (s : State) (k : Task) (off : Nat) (bs : List Byte) : State × Try Unit :=
  writeGen s (ownerReq k.die k.owner) (BitVec.ofNat 64 (lrCtx k.lrec + off)) bs

/-- The header bytes 6 to 15 of a halt: STATE, FDROP and the tick at the halt (R345). -/
def haltHeader (k : Task) (state : Nat) : List Byte := leBytes 1 state ++ leBytes 1 k.fdrop.toNat ++ leBytes 8 k.haltTick.toNat

/-! ## Stop records (R341) -/

/-- A stop record (R341). -/
def stopRec (s : State) (n : Nat) (k : Task) (a : Agent) (tok : Option Nat) (src : Nat) (f : Option FaultInfo) : StopRec :=
  let x := f.getD (flt 0 0)
  let c := s.ctx a
  let tick := match f with
    | some f => f.tick
    | none => (s.die a.die).tick
  BitVec.ofNat 512 (x.cls + x.detail * 2 ^ 8 + 2 ^ 16 + (if fastLane x.cls x.detail then 2 ^ 17 else 0) + statusCode x.cls x.detail * 2 ^ 18 +
    src * 2 ^ 20 + c.ltile * 2 ^ 24 + a.die * 2 ^ 32 + a.slot * 2 ^ 34 + (if tok.isSome then 2 ^ 36 else 0) + tok.getD 0 * 2 ^ 37 +
    n % 65536 * 2 ^ 40 + k.seq.toNat * 2 ^ 56 + c.pc.toNat * 2 ^ 64 + x.addr.toNat * 2 ^ 128 + tick.toNat * 2 ^ 192 +
    x.info0.toNat * 2 ^ 256 + x.info1.toNat * 2 ^ 320 + x.info2.toNat * 2 ^ 384 + x.info3.toNat * 2 ^ 448)

/-- The lowest lane slot of a range that no record occupies (R342). -/
def freeSlot (k : Task) (lo hi : Nat) : Option Nat :=
  (List.range' lo (hi - lo)).find? (fun i => (tfind k.fast i).isNone && (tfind k.slow i).isNone)

/-- Whether a fault's record must wait for a slow slot (R342). -/
def slowFull (k : Task) (f : Option FaultInfo) : Bool :=
  match f with
  | none => false
  | some f => !fastLane f.cls f.detail && (freeSlot k 32 256).isNone

/-- A task after a record: its count, the first class of the halt, and the record on its lane (R342, R343). -/
def noteRec (k : Task) (r : StopRec) (f : Option FaultInfo) : Task × Option Nat :=
  let k1 := { k with seq := k.seq + 1 }
  match f with
  | none => (k1, none)
  | some f =>
    let fast := fastLane f.cls f.detail
    let stops := decide (fstatus f.cls f.detail ≠ .report)
    let k2 := { k1 with
      firstCls := if stops && ((fast && !k.fastSeen) || k.firstCls.isNone) then some f.cls else k.firstCls
      fastSeen := k.fastSeen || fast
      fatal := k.fatal || fast }
    match (if fast then freeSlot k 0 32 else freeSlot k 32 256) with
    | some i => ((if fast then { k2 with fast := k2.fast ++ [(i, r)] } else { k2 with slow := k2.slow ++ [(i, r)] }), some i)
    | none => ({ k2 with fdrop := if k2.fdrop = 0xFF then k2.fdrop else k2.fdrop + 1 }, none)

/-- Store bytes into the context area; a store that faults is not made. -/
def ctxTry (s : State) (k : Task) (off : Nat) (bs : List Byte) : Option State :=
  match ctxStore s k off bs with
  | (s1, .ok _) => some s1
  | (s1, .fault _) => some s1
  | (_, .later) => none

/-- Write a record: to its lane's slot, and, for an agent that stops, to its entry in its tile frame's stop table and the header (R341,
R342, R345). None while a page of the context area is held. -/
def writeRec (s : State) (n : Nat) (k : Task) (a : Agent) (tok : Option Nat) (src : Nat) (f : Option FaultInfo) (stops : Bool) : Option State :=
  let r := stopRec s n k a tok src f
  let (k0, slot) := noteRec k r f
  let i := 16 * a.slot + (match tok with
    | some t => t + 1
    | none => 0)
  let k1 := if stops then { k0 with stops := tset k0.stops (stopKey k0 a.die a.tile i) r } else k0
  let bs := leBytes 64 r.toNat
  let s1 := s.setTask n k1
  let s2 := match slot with
    | some i => ctxTry s1 k1 (0x1000 + 64 * i) bs
    | none => some s1
  if stops then
    (s2.bind (fun s => ctxTry s k1 (frameOff k a.die a.tile + 0x194000 + 64 * i) bs)).bind (fun s => ctxTry s k1 6 (haltHeader k1 (if k.st = .saving then 2 else 1)))
  else s2

/-! ## Agents that stop (R340, R341) -/

/-- Whether the gear change that a strand waits for is in progress: a halt lets it complete (R296). -/
def inChange (s : State) (u : Agent) : Bool :=
  let x := s.tile u.die (gearLead s u.die u.tile)
  decide (x.st ≠ .run) && (match x.change.head? with
    | some c => c.slot == some (u.tile * 4 + u.slot)
    | none => false)

/-- Whether a strand's access in flight is an atomic, which retires when it is performed. -/
def atomicInFlight (s : State) (u : Agent) : Bool :=
  s.pend.any (fun p => decide (p.agent = u) && (match p.kind with
    | .atom .. | .cas .. => true
    | .load .. | .store _ | .probe _ | .device _ => false))

/-- An instruction that has not retired is abandoned as not begun; the accesses that it has issued are performed and its loads' values are
discarded (R250, R340). A parked strand stays parked. -/
def abandon (s : State) (u : Agent) : State :=
  let clear (s : State) : State := (abandonPend s u).modCtx u (fun c => { c with stall := .none, ticks := 0 })
  match (s.ctx u).stall with
  | .parked => s
  | .access => if atomicInFlight s u then s else clear s
  | .gear => if inChange s u then s else clear (dropChange s u)
  | .mapper =>
    clear (match ownRegion s u with
      | some r => s.modRegion r (fun x => { x with mapping := none })
      | none => s)
  | _ => clear s

/-- The slots of a strand whose schedule has met a fault that is not reported (R101). -/
def schPending (c : Ctx) : List (Nat × FaultInfo × Option Nat) :=
  (List.range 8).filterMap (fun i => ((c.getSch i).fault).map (fun f => (i, f.1, f.2)))

/-- A strand stops and writes its record; once it has stopped, the next of its schedules that met a fault is reported (R101, R341). -/
def stopStrand (s : State) (n : Nat) (k : Task) (u : Agent) : Option State :=
  let c := s.ctx u
  if c.run = .running ∧ !c.stopped then
    if slowFull k c.fault then none
    else (writeRec s n k u none 0 c.fault true).map (fun s => (abandon s u).modCtx u (fun c => { c with stopped := true }))
  else
    match schPending c with
    | [] => none
    | (i, f, t) :: _ =>
      if slowFull k (some f) then none
      else
        (writeRec s n k u t 1 (some f) true).map (fun s => s.modCtx u (fun c => c.putSch i { c.getSch i with fault := none }))

/-- The fault of the operation on a token: its own, or that of the run to which its region is lent. -/
def opFaultOf (s : State) (o : EngOp) : Option FaultInfo :=
  match o.fault with
  | some f => some f
  | none =>
    if o.kind = .xform then
      ((ownRegion s o.agent).bind s.region).bind (fun x => if x.lent = some o.tok.toNat then x.run.bind (·.fault) else none)
    else none

/-- The run of a strand's region on a token, active or pending, when no operation stands for it. -/
def runOnTok (s : State) (u : Agent) (t : Nat) : Option (RegionId × Bool × Run) :=
  match ownRegion s u with
  | none => none
  | some r =>
    match s.region r with
    | none => none
    | some x =>
      if x.lent.isSome then none
      else
        match x.run.filter (fun y => y.tok.toNat == t) with
        | some y => some (r, true, y)
        | none => (x.pend.filter (fun y => y.tok.toNat == t)).map (fun y => (r, false, y))

/-- Replace a run of a region, the active or the pending one. -/
def setRun (s : State) (r : RegionId) (act : Bool) (y : Run) : State :=
  s.modRegion r (fun x => if act then { x with run := some y } else { x with pend := some y })

/-- Mark a run of a region stopped. -/
def markRun (s : State) (r : RegionId) (act : Bool) (y : Run) : State := setRun s r act { y with stopped := true }

/-- The operation or run on a token stops and writes its record; an operation whose token has left BUSY ends with it. A REPORT record needs
no halt (R339, R341, R342). -/
def stopToken (s : State) (n : Nat) (k : Task) (u : Agent) (t : Nat) : Option State :=
  match s.op u t with
  | some o =>
    let f := opFaultOf s o
    let rep := match f with
      | some f => decide (fstatus f.cls f.detail = FStatus.report)
      | none => false
    if o.stopped ∨ slowFull k f = true then none
    else if rep then (writeRec s n k u (some t) (opSrc o.kind) f k.halt.isSome).map (fun (s : State) => s.delOp u t)
    else if k.halt.isNone then none
    else
      (writeRec s n k u (some t) (if o.fault.isNone && f.isSome then 2 else opSrc o.kind) f true).map (fun (s : State) =>
        if (s.getTok u t).st = .busy then s.setOp u t { o with stopped := true } else s.delOp u t)
  | none =>
    match runOnTok s u t with
    | none => none
    | some (r, act, y) =>
      if y.stopped ∨ k.halt.isNone ∨ slowFull k y.fault = true then none
      else (writeRec s n k u (some t) 2 y.fault true).map (fun (s : State) => markRun s r act y)

/-- An agent stops after the halt line and writes its stop record (R340, R341). -/
def execAgentStop (x : StopAgent) (s : State) : Host.Outcome State Fault Refusal :=
  let u := match x with
    | .strand a => a
    | .token a _ => a
  match s.taskOf u with
  | none => .next s
  | some n =>
    match s.task n with
    | none => .next s
    | some k =>
      .next ((match x with
        | .strand a => if k.halt.isSome then stopStrand s n k a else none
        | .token a t => stopToken s n k a t).getD s)

/-! ## The skid bound (R340) -/

/-- The skid bound of a task in ticks: 32 fabric cycles of its slowest spine, and never more than 64. -/
def skidBound (s : State) (k : Task) : Nat :=
  let f := (k.tiles.map (fun x => (spineAt s (s.tile x.1 x.2).spine.toNat).freq.toNat)).foldl min 2700
  min 64 ((6400 + f - 1) / max 1 f)

/-- The fault that an agent had met when its skid bound ran out is written first, on its lane (R340, R342). -/
def firstRec (s : State) (n : Nat) (k : Task) (a : Agent) (tok : Option Nat) (src : Nat) (f : Option FaultInfo) : State :=
  match f with
  | none => s
  | some _ => (writeRec s n k a tok src f false).getD s

/-- WATCHDOG detail 0x01 of a master (R340, R341). -/
def watchdogAt (s : State) (u : Agent) (kind id : Nat) : FaultInfo := stamp s u.die (masterInfo (flt clsWatchdog 1) kind id)

/-- An agent that has not stopped within the skid bound raises WATCHDOG detail 0x01 and is frozen; a record that only waits for a slow slot
is no such case (R340, R342, R344). -/
def skidExpire (s : State) (n : Nat) (k : Task) (x : StopAgent) : State :=
  match x with
  | .strand u =>
    let c := s.ctx u
    if c.run = .running ∧ !c.stopped ∧ !c.frozen ∧ slowFull k c.fault = false then
      (freezeAgent (firstRec s n k u none 0 c.fault) u 1 true).modCtx u (fun c => { c with fault := some (watchdogAt s u 0 n) })
    else s
  | .token u t =>
    match s.op u t with
    | some o =>
      let f := opFaultOf s o
      if o.stopped ∨ o.frozen ∨ (s.getTok u t).st ≠ .busy ∨ slowFull k f = true then s
      else
        let m := masterId (firstRec s n k u (some t) (opSrc o.kind) f) o
        settleTok ((freezeOp (noteHacc m.2 o) o m.1 1 true).setOp u t { o with
          fault := some (watchdogAt s u (opFreezeKind o.kind) m.1), frozen := true }) u t .error 1
    | none =>
      match runOnTok s u t with
      | none => s
      | some (r, act, y) =>
        if y.stopped ∨ (s.getTok u t).st ≠ .busy ∨ slowFull k y.fault = true then s
        else
          let s1 := freezeOp (firstRec s n k u (some t) 2 y.fault) (runOp s r y) n 1 true
          let s2 := setRun s1 r act { y with fault := some (watchdogAt s u 2 n) }
          settleTok (if act then autoCloseAll r.die r.tile (s2.modRegion r releaseRun) (namedTrackers y) else s2) u t .error 1

/-- The skid bound of a halted partition runs out for an agent (R340). -/
def execSkidBoundExpiry (x : StopAgent) (s : State) : Host.Outcome State Fault Refusal :=
  let u := match x with
    | .strand a => a
    | .token a _ => a
  match s.taskOf u with
  | none => .next s
  | some n =>
    match s.task n with
    | none => .next s
    | some k => .next (if k.halt.isSome ∧ skidBound s k ≤ k.haltTicks then skidExpire s n k x else s)

/-! ## A stopped partition -/

/-- The strands of a task, as agent numbers. -/
def taskAgents (s : State) (n : Nat) : List Nat := (s.ctxs.filter (fun e => e.2.task == some n)).map (·.1)

/-- Whether an agent belongs to a task. -/
def inTask (s : State) (n : Nat) (u : Agent) : Bool := (s.ctx u).task == some n

/-- The regions of a task, by number. -/
def taskRegions (s : State) (n : Nat) : Tab Region := s.regions.filter (fun e => (tget s.ctxs e.1 {}).task == some n)

/-- The operations of a task. -/
def taskOps (s : State) (n : Nat) : List EngOp := (s.ops.map (·.2)).filter (fun o => inTask s n o.agent)

/-- Whether a strand has stopped and reported all it has to report. -/
def strandStopped (c : Ctx) : Bool := (decide (c.run ≠ .running) || c.stopped) && (schPending c).isEmpty

/-- Whether every agent of a partition has stopped and written its record (R340, R341). -/
def allStopped (s : State) (n : Nat) : Bool :=
  (taskAgents s n).all (fun i => strandStopped (tget s.ctxs i {})) && (taskOps s n).all (·.stopped) &&
  (taskRegions s n).all (fun e => e.2.lent.isSome || (e.2.run.toList ++ e.2.pend.toList).all (·.stopped))

/-- Whether a fault ends its task (R339). -/
def fatalFault (f : FaultInfo) : Bool :=
  match fstatus f.cls f.detail with
  | .fatal | .hardware => true
  | .replay | .resume | .report | .none => false

/-- Whether a task has met a task-fatal fault, recorded or still to be recorded: it ends FAULTED (R332, R339). -/
def doomed (s : State) (n : Nat) (k : Task) : Bool :=
  k.fatal || (taskAgents s n).any (fun i => (tget s.ctxs i {}).fault.any fatalFault || (schPending (tget s.ctxs i {})).any (fun x => fatalFault x.2.1)) ||
  (taskOps s n).any (fun o => o.fault.any fatalFault) ||
  (taskRegions s n).any (fun e => (e.2.run.toList ++ e.2.pend.toList).any (fun y => y.fault.any fatalFault))

/-- Whether no access of a partition is on its way to its home: one that has left its agent is performed first (R340). -/
def accessesDone (s : State) (n : Nat) : Bool := !s.pend.any (fun p => !p.orphan && !isProbe p && p.task == some n)

/-! ## Resume (R347) -/

/-- The region number as an identifier. -/
def regionOfKey (i : Nat) : RegionId := ⟨i / 576, i / 4 % 144, i % 4⟩

/-- The schedules of a strand that a fault kept from starting start again. -/
def restartScheds (s : State) (u : Agent) : State :=
  (List.range 8).foldl (fun s i =>
    let x := (s.ctx u).getSch i
    if x.st = .run ∧ x.count = 0 then readSched s u i x.table else s) s

/-- The FIFOs of a region whose lend a halt has cut short: retained entries return to the head and uncommitted ones are dropped (R243); what the
engine fed, or has not taken, is made again. -/
def unlendFifos (x : Region) (o : EngOp) : Region :=
  (List.range 8).foldl (fun y f =>
    let z := (y.fifo f).rewind
    y.setFifo f (if z.consumer = some (xformClaim o) then { z with entries := [] } else z)) x

/-- A region whose lend a halt has cut short: the copy starts anew, and the region is lent again. The copy's token stays BUSY, so that no AUTO
step closes (R69, R112). -/
def undoLend (s : State) (o : EngOp) : State :=
  match ownRegion s o.agent with
  | none => s
  | some r =>
    match s.region r with
    | none => s
    | some x =>
      if x.lent = some o.tok.toNat then
        let s1 := match x.run with
          | some u => dropFlights s r x u
          | none => s
        s1.setRegion r { endLend (unlendFifos x o).endRun o with mapping := none }
      else s

/-- An operation reissued from its start, in its place in the order of issue (R112, R120, R121). The entries that a MERGE has pushed are in its
FIFO and are not pushed again (R116). -/
def requeue (s : State) (o : EngOp) : State :=
  let made := match o.kind with
    | .merge .. => o.made
    | _ => 0
  s.setOp o.agent o.tok.toNat { o with st := .queued o.seq, num := 0, made := made, fault := none, stopped := false }

/-- The generator context of a GINV starts again from its first coordinate, with the registers that it began with (R140). -/
def restartInv (s : State) (u : Agent) (g : Nat) : State :=
  let x := s.gen u.die u.tile g
  s.setGen u.die u.tile g ({ x.begin x.mode with x := x.x0s }.program)

/-- An operation at the resume of its partition (R112, R121, R140, R318, R339). A COLL that is abandoned still counts in its group's order, also where a
rank had not issued its own: Task.colls stays (R107 and R112 do not say; DESIGN CHOICE, log entry 137). -/
def resumeOp (s : State) (o : EngOp) : State :=
  let u := o.agent
  let t := o.tok.toNat
  let o1 := { o with fault := none, stopped := false }
  match o.kind with
  | .coll => settleTok (s.delOp u t) u t .error 4
  | .xform => requeue (undoLend s o) o
  | .copy | .fill | .merge .. | .route | .hacc .. | .hflush .. => requeue s o
  | .tsend => sendOn s o1
  | .ginv g => (restartInv s u g.toNat).setOp u t o1
  | .grun _ | .grunT _ | .feed _ | .drain _ | .run => s.setOp u t o1

/-- A region at the resume of its partition: its run restarts from the shadow of its last waypoint (R242, R347). -/
def resumeRegion (s : State) (i : Nat) : State :=
  let r := regionOfKey i
  (rebuild s r).modRegion r (fun x => { x with pend := x.pend.map (fun y => { y with stopped := false, fault := none }) })

/-- A strand at the resume of its partition. -/
def resumeStrand (s : State) (i : Nat) : State :=
  let u := agentOfKey i
  restartScheds (s.modCtx u (fun c => { c with fault := none, stopped := false })) u

/-- The generator contexts of a tile at the resume. -/
def resumeGens (s : State) (x : Nat × Nat) : State :=
  (List.range 4).foldl (fun s g => s.setGen x.1 x.2 g { s.gen x.1 x.2 g with fault := none }) s

/-- The offsets of a task on several dies bring their visible mileposts together at or above a bound: at a value that the spec leaves open
(R318). -/
def agreeMileposts (s : State) (n : Nat) (k : Task) (low : Word) : State :=
  let ds := (List.range Config.dies).filter (fun d => k.tiles.any (fun x => x.1 == d))
  let m := low + (s.fresh.1.truncate 32).zeroExtend 64
  s.fresh.2.setTask n { k with mpoff := ds.map (fun d => (d, m - (s.die d).raw)) }

/-- The greatest visible milepost of a task now. -/
def topMilepost (s : State) (k : Task) : Word :=
  ((List.range Config.dies).filter (fun d => k.tiles.any (fun x => x.1 == d))).foldl (fun m d =>
    let v := (s.die d).raw + tget k.mpoff d 0
    if m.toNat ≤ v.toNat then v else m) 0

/-- Whether the elements that a region's installed blocks were placed on are no longer all there: no region with the saved shape and defect
signature is available (R240, R347). A tile that a task may be placed on has no failed element (R328, R348), so the signature is the empty one. -/
def sigLost (s : State) (i : Nat) (x : Region) : Bool :=
  (x.run.isSome || x.pend.isSome || !x.slots.isEmpty) && x.quads.any (fun q => tileFailed s (regionOfKey i).die q.1)

/-- Regions that have lost their signature raise MAP detail 0x07 (R347). -/
def checkSigs (s : State) (n : Nat) : State :=
  (taskRegions s n).foldl (fun s e => if sigLost s e.1 e.2 then takeFault s (regionOfKey e.1).strand (flt clsMap 7) else s) s

/-- The partition goes on, in the order of R347: regions and generators, operations, strands; what was lost is reported last. -/
def resumeParts (s : State) (n : Nat) : State :=
  match s.task n with
  | none => s
  | some k =>
    let s := (taskOps s n).foldl (fun s o => if o.kind = .xform then undoLend s o else s) s
    let s := (taskRegions s n).foldl (fun s e => resumeRegion s e.1) s
    let s := k.tiles.foldl resumeGens s
    let s := (taskOps s n).foldl resumeOp s
    checkSigs ((taskAgents s n).foldl resumeStrand
      (s.setTask n { k with halt := none, firstCls := none, fastSeen := false, fatal := false, haltTicks := 0, stops := [], resuming := false })) n

/-- Whether a RESUME is obeyed (R343). -/
def resumeObeyed (k : Task) : Bool := k.halt.isSome && !k.resuming && !k.fatal && (match k.st with
  | .running | .draining => true
  | _ => false)

/-- PCTL RESUME (R343, R345): it waits until every agent has stopped; CTXHDR.STATE becomes 00 before the partition restarts. -/
def pctlResume (n : Nat) (s : State) (_u : Agent) : Res :=
  match s.task n with
  | none => .ok s
  | some k =>
    if !resumeObeyed k then .ok s
    else if !allStopped s n || !accessesDone s n then .wait s
    else
      match ctxTry s k 6 (leBytes 1 0) with
      | none => .wait s
      | some s1 =>
        let one := k.tiles.all (fun x => x.1 == k.die)
        .ok (resumeParts (if one then s1 else agreeMileposts s1 n k (topMilepost s1 k)) n)

end Sys2Proof.Machine
end

