-- ==== Sys2Proof/Machine/Save.lean ====
section
/-! DEFINITION. The context area: what a save writes (R345, R346), and the context that is kept and restored (R347, R75). Where the
spec names an entry without its inner layout, the bytes written are free values. -/

namespace Sys2Proof.Machine

/-! ## Images -/

/-- Bytes at offsets, in ascending order, with zeros between them and up to a length. -/
def layout (len : Nat) : Nat → List (Nat × List Byte) → List Byte
  | pos, [] => List.replicate (len - pos) 0
  | pos, (o, bs) :: es => List.replicate (o - pos) 0 ++ bs ++ layout len (o + bs.length) es

/-- Free bytes: the layout of an entry that the spec leaves open, drawn from the free values at a counter. -/
def openBytes (at_ n : Nat) : List Byte :=
  (List.range n).map (fun i => (Config.freeBits (at_ + i / 32)).extractLsb' (8 * (i % 32)) 8)

/-- An open entry: free bytes if there is something to hold, else zeros. -/
def openEntry (used : Bool) (at_ n : Nat) : List Byte := if used then openBytes at_ n else List.replicate n 0

/-- A lane value in 16 bytes: the value in bytes 0 to 9, the side-band in byte 10 (DEDUCED from the entry of a result in flight, log entry 74). -/
def valBytes (v : Val) : List Byte := leBytes 10 v.w.toNat ++ [v.sb] ++ List.replicate 5 0

/-- A result in flight: its value and side-band in bytes 0 to 10, DST in byte 11, its remaining cycles in byte 12 (R346). The value of an
effect that is no 80-bit value, and a byte of DST where the effect has no DST, are free. -/
def flightBytes (at_ : Nat) (x : InFlight) : List Byte :=
  let head := match x.eff with
    | .write dst _ _ v => leBytes 10 v.w.toNat ++ [v.sb] ++ leBytes 1 dst
    | .anch _ _ v => leBytes 10 v.w.toNat ++ [v.sb] ++ openBytes at_ 1
    | .accFloat .. | .accInt .. | .feed .. => openBytes at_ 12
  head ++ leBytes 1 x.left ++ List.replicate 3 0

/-- The results in flight of an element: sixteen entries of 16 bytes (the size of an entry DEDUCED, log entry 73), and zeros to the element's
end (R346). -/
def flightImage (at_ : Nat) (l : List InFlight) : List Byte :=
  layout 320 0 ((List.range (min 16 l.length)).filterMap (fun i => (l[i]?).map (fun x => (16 * i, flightBytes (at_ + i) x))))

/-- The shadow of an element (R346). -/
def elemImage (at_ : Nat) (e : Elem) : List Byte :=
  (List.range 4).flatMap (fun k => leBytes 4 (tget e.acc k 0).toNat) ++
  (List.range 4).flatMap (fun k => leBytes 10 (tget e.anchor k 0).toNat) ++
  (List.range 4).map (fun k => tget e.asc k 0x7F) ++ leBytes 4 e.rsr.toNat ++ valBytes e.o0 ++ valBytes e.o1 ++
  (List.range 32).flatMap (fun k => valBytes (((tfind e.car k).map (·.v)).getD {})) ++
  (List.range 32).map (fun k => BitVec.ofNat 8 (((tfind e.car k).map (·.life)).getD 0)) ++
  (List.range 4).flatMap (fun h =>
    let p := tget e.hair h {}
    (List.range 16).flatMap (fun k => valBytes (tget p.stages k {})) ++ valBytes p.input) ++
  flightImage at_ e.flight

/-- A FIFO of a region block: its pointers, whose layout is open and which mark the retained and the uncommitted entries (R243), then its entries
from the oldest in 16 bytes each (the order DEDUCED, R346; log entry 74). -/
def fifoImage (at_ : Nat) (x : Fifo) : List Byte :=
  layout 1088 0 [(0, openEntry (decide (x ≠ {})) at_ 64), (64, (x.entries.take 64).flatMap valBytes)]

/-- The region block of a strand slot: NUMFLG, EDGECNT, RSRSEED, the argument file and the FIFOs; the layout of the other entries is open
(R346). -/
def regionImage (at_ : Nat) : Option Region → List Byte
  | none => List.replicate 0x4000 0
  | some x =>
    layout 0x4000 0 [(0, openBytes at_ 64),
      (64, leBytes 8 x.numflg.toNat ++ leBytes 8 (x.zwords.toNat * 2 ^ 32 + x.rovf.toNat) ++ leBytes 8 x.seed.toNat),
      (128, (List.range 64).flatMap (fun k => leBytes 4 (tget x.args k 0).toNat)),
      (384, openEntry (!x.slots.isEmpty) (at_ + 2) 256), (640, openEntry (!x.dec.isEmpty || !x.enc.isEmpty) (at_ + 10) 512),
      (1152, openEntry (x.enc.any (fun e => !e.2.lines.isEmpty)) (at_ + 26) 2048),
      (3200, (List.range 8).flatMap (fun f => fifoImage (at_ + 90 + 2 * f) (tget x.fifos f {}))),
      (11904, openBytes (at_ + 106) (0x4000 - 11904))]

/-- The strand block of a slot (R346). -/
def strandImage (s : State) (at_ : Nat) (u : Agent) : List Byte :=
  let c := s.ctx u
  layout 0x1000 0 [(0, leBytes 8 c.pc.toNat ++ (List.range 32).flatMap (fun k => leBytes 8 (c.getS (BitVec.ofNat 5 k)).toNat) ++
      leBytes 8 (predWord c).toNat ++ openEntry (!c.loops.isEmpty) at_ 128 ++ leBytes 8 (tokstat c).toNat ++ leBytes 8 (tokerr c).toNat),
    (416, (List.range 16).flatMap (fun k => openEntry (decide ((c.getQ k).mode ≠ .unbound)) (at_ + 4 + 4 * k) 128)),
    (2464, (List.range 8).flatMap (fun k => openEntry (decide ((c.getSch k).st ≠ .idle)) (at_ + 68 + k) 32)),
    (2720, (List.range 8).flatMap (fun t => match s.op u t with
      | some o => leBytes 64 o.desc.toNat ++ openBytes (at_ + 76 + 2 * t) 64
      | none => List.replicate 128 0)),
    (3744, leBytes 8 c.hashst.toNat ++ openEntry (!c.met.isEmpty) (at_ + 92) 8 ++ leBytes 8 c.apTile.toNat ++ leBytes 8 c.apClus.toNat ++
      leBytes 8 c.apDie.toNat)]

/-- A barrier slot: PHASE, COUNT, N (R345). -/
def barBytes (b : Barrier) : List Byte := leBytes 8 (b.phase.toNat + b.count.toNat * 2 ^ 32 + b.n.toNat * 2 ^ 48)

/-- The sixteen barrier slots of a scope and unit. -/
def barImage (s : State) (u : Agent) (scope : ScopeCode) : List Byte := (List.range 16).flatMap (fun k => barBytes (barSlot s u scope k))

/-- The tile block (R346): the CLUSTER slots stand in the frame of the cluster's lowest logical tile. -/
def tileImage (s : State) (at_ : Nat) (k : Task) (d t : Nat) : List Byte :=
  let x := s.tile d t
  let u := Agent.strand d t 0
  layout 0x2000 0 [(0, (List.range 4).flatMap (fun g => (genImage (s.gen d t g)).take 512)),
    (2048, (List.range 16).flatMap (fun j => openEntry (decide (s.trk d t j ≠ {})) (at_ + 2 * j) 64)),
    (3072, barImage s u 1),
    (3200, leBytes 8 (gearctl x) ++ leBytes 8 (x.vote.toNat + flagAt x.ven 4) ++ leBytes 8 x.itbase.toNat ++ leBytes 8 x.itcur.toNat),
    (3328, if clusterLead k d (clusterOf t) = logTile k d t then barImage s u 2 else List.replicate 128 0)]

/-- How many free values a frame draws. -/
def frameFree : Nat := 2 ^ 15

/-- A tile frame before its stop table (R346). -/
def frameHead (s : State) (at_ d t : Nat) : List Byte :=
  mread s.mem (tbLoc d t 0) (2 ^ 20) ++
  (List.range 256).flatMap (fun e => elemImage (at_ + 10 * e) (tget s.elems (tileKey d t * 256 + e) {})) ++
  (List.range 4).flatMap (fun k => regionImage (at_ + 2560 + 512 * k) (s.region ⟨d, t, k⟩)) ++
  (List.range 4).flatMap (fun k => strandImage s (at_ + 4608 + 128 * k) (.strand d t k))

/-- The stop table of a tile frame: the record of every agent that was active, and zeros (R341, R346). -/
def stopImage (k : Task) (d t : Nat) : List Byte :=
  (List.range 64).flatMap (fun i => leBytes 64 (tget k.stops (stopKey k d t i) 0).toNat)

/-- A tile frame from its stop table on (R346). -/
def frameTail (s : State) (at_ : Nat) (k : Task) (d t : Nat) : List Byte :=
  stopImage k d t ++ tileImage s (at_ + 5120) k d t ++ List.replicate (0x200000 - 0x197000) 0

/-- CTXHDR of a saved task (R345): STATE 11, and the largest visible milepost of each die. -/
def headerImage (s : State) (k : Task) (vis : List (Nat × Word)) : List Byte :=
  let u := ((k.tiles.head?).map (fun x => Agent.strand x.1 x.2 0)).getD (.strand 0 0 0)
  let bar (d : Nat) : List Byte :=
    match k.tiles.find? (fun x => x.1 == d) with
    | some x => barImage s (.strand x.1 x.2 0) 3
    | none => List.replicate 128 0
  layout 0x1000 0 [(0, leBytes 4 0x43585431 ++ leBytes 2 1), (6, haltHeader k 3),
    (16, (List.range 4).flatMap (fun d => leBytes 8 (tget vis d 0).toNat)), (0x100, (List.range 4).flatMap bar), (0x300, barImage s u 4)]

/-! ## The kept context -/

/-- The bytes of memory in a range of locations. -/
def bytesIn (s : State) (lo n : Nat) : List (Nat × Byte) := s.mem.filter (fun e => decide (lo ≤ e.1) && decide (e.1 < lo + n))

/-- The entries of a placement's list, die by die in ascending position (R345). -/
def byDie (l : List (Nat × Nat)) : List (Nat × Nat) := (List.range Config.dies).flatMap (fun d => l.filter (fun x => x.1 == d))

/-- The clusters that some tiles hold whole, die by die, in the order of their lowest logical tiles (R345). -/
def heldClusters (ts : List (Nat × Nat)) : List (Nat × Nat) :=
  ((byDie ts).foldl (fun cs x => if cs.any (· == (x.1, clusterOf x.2)) then cs else cs ++ [(x.1, clusterOf x.2)]) []).filter (fun c =>
    (clusterTiles c.2).all (fun t => ts.any (· == (c.1, t))))

/-- The buffers of a task as ranges: its tile buffers, its cluster buffers, its slices. -/
def bufferRanges (ts slices : List (Nat × Nat)) : List (Nat × Nat) :=
  ts.map (fun x => (tbLoc x.1 x.2 0, 2 ^ 20)) ++ (heldClusters ts).map (fun c => (cbLoc c.1 c.2 0, 2 ^ 22)) ++
  slices.map (fun x => (dbLoc x.1 x.2 0, 2 ^ 21))

/-- Whether a key of a table with `n` entries a tile belongs to some tiles. -/
def keyIn (ts : List (Nat × Nat)) (n key : Nat) : Bool := ts.any (fun x => tileKey x.1 x.2 == key / n)

/-- A region that is saved takes EDGECNT as it stood at the waypoint, so that only what is consumed after the readmission counts (R370); a replay in
place counts a second time (R157). The two rules differ, and each is followed where it speaks (DEDUCED, log entry 83). -/
def countsAtWaypoint (x : Region) : Region :=
  let sum (f : Stage → Nat) : Nat := ((x.run.map (·.stages)).getD []).foldl (fun n st => n + f st) 0
  { x with zwords := BitVec.ofNat 32 (x.zwords.toNat - sum (·.zSince)), rovf := BitVec.ofNat 32 (x.rovf.toNat - sum (·.rSince)) }

/-- The context of a task as it stands (R345-R347). -/
def savedCtx (s : State) (n : Nat) (k : Task) (vis : List (Nat × Word)) : SavedCtx :=
  let rs := bufferRanges k.tiles k.slices
  { ctxs := s.ctxs.filter (fun e => e.2.task == some n)
    regions := (taskRegions s n).map (fun e => (e.1, countsAtWaypoint e.2))
    gens := tsub s.gens (keyIn k.tiles 4)
    trks := tsub s.trks (keyIn k.tiles 16)
    elems := tsub s.elems (keyIn k.tiles 256)
    tiles := tsub s.tiles (keyIn k.tiles 1)
    ops := s.ops.filter (fun e => inTask s n e.2.agent)
    bufs := rs.flatMap (fun r => bytesIn s r.1 r.2)
    poison := s.poison.filter (fun w => rs.any (fun r => decide (r.1 ≤ w) && decide (w < r.1 + r.2)))
    trimPoison := s.trimPoison.filter (fun w => rs.any (fun r => decide (r.1 ≤ w) && decide (w < r.1 + r.2)))
    visible := vis }

/-- The visible mileposts of a task now, by die. -/
def visiblesOf (s : State) (k : Task) : List (Nat × Word) :=
  ((List.range Config.dies).filter (fun d => k.tiles.any (fun x => x.1 == d))).map (fun d => (d, (s.die d).raw + tget k.mpoff d 0))

/-! ## Writing the context area -/

/-- The lane slots of a context area: the records that occupy them, and zeros (R342, R345). -/
def laneImage (k : Task) : List Byte :=
  (List.range 256).flatMap (fun i => leBytes 64 (((tfind k.fast i).getD ((tfind k.slow i).getD 0)).toNat))

/-- The parts of a context area, which a save writes whole (R345). -/
def ctxParts (s : State) (k : Task) (vis : List (Nat × Word)) : List (Nat × List Byte) :=
  let frames := k.tiles.flatMap (fun x =>
    let f := frameOff k x.1 x.2
    let at_ := s.free + frameFree * frameIndex k x.1 x.2
    [(f, frameHead s at_ x.1 x.2), (f + 0x194000, frameTail s at_ k x.1 x.2)])
  let c0 := 0x100000 + 2 ^ 21 * k.tiles.length
  let cs := heldClusters k.tiles
  let d0 := c0 + 2 ^ 22 * cs.length
  let ss := byDie k.slices
  [(0, headerImage s k vis), (0x1000, laneImage k), (0x5000, List.replicate (0x100000 - 0x5000) 0)] ++ frames ++
  (List.range cs.length).map (fun i => (c0 + 2 ^ 22 * i, mread s.mem (((cs[i]?).map (fun c => cbLoc c.1 c.2 0)).getD 0) (2 ^ 22))) ++
  (List.range ss.length).map (fun i => (d0 + 2 ^ 21 * i, mread s.mem (((ss[i]?).map (fun x => dbLoc x.1 x.2 0)).getD 0) (2 ^ 21)))

/-- Write parts in order, as the owner's stores; the first that cannot be made ends the writes. -/
def ctxWriteAll (k : Task) : List (Nat × List Byte) → State → State × Try Unit
  | [], s => (s, .ok ())
  | (o, bs) :: ps, s =>
    match ctxStore s k o bs with
    | (s1, .ok _) => ctxWriteAll k ps s1
    | r => r

/-- The element storage and the fabric state as a save takes them: from the shadow of the last waypoint, with the FIFOs as they stand, their
retained and uncommitted entries among them (R242, R243, R346). -/
def atWaypoints (s : State) (n : Nat) : State :=
  (taskRegions s n).foldl (fun s e => (rebuild s (regionOfKey e.1)).modRegion (regionOfKey e.1) (fun x =>
    { countsAtWaypoint e.2 with run := x.run, dutyIdx := x.dutyIdx, dec := x.dec, enc := x.enc })) s

/-- Write the whole context area of a task (R345). -/
def saveWrites (s : State) (n : Nat) (k : Task) (vis : List (Nat × Word)) : State × Try Unit :=
  ctxWriteAll k (ctxParts (atWaypoints s n) k vis) { s with free := s.free + frameFree * (k.tiles.length + 1) }

/-! ## Restoring on other tiles (R347) -/

/-- Where a readmission moves a task: old and new tiles in pairs, old and new slices in pairs. -/
structure Moves where
  tiles  : List ((Nat × Nat) × (Nat × Nat))
  slices : List ((Nat × Nat) × (Nat × Nat))
  deriving DecidableEq, Repr

/-- The new place of a tile. -/
def Moves.tile (m : Moves) (x : Nat × Nat) : Nat × Nat := ((m.tiles.find? (fun e => e.1 == x)).map (·.2)).getD x

/-- The new key of an entry of a table with `n` entries a tile. -/
def Moves.key (m : Moves) (n i : Nat) : Nat :=
  let x := m.tile (i / n / 144, i / n % 144)
  tileKey x.1 x.2 * n + i % n

/-- The new place of a strand. -/
def Moves.agent (m : Moves) : Agent → Agent
  | .strand d t k => let x := m.tile (d, t); .strand x.1 x.2 k
  | .hub d k => .hub d k

/-- The clusters of the old tiles that are held whole, with the new ones (R347). -/
def Moves.cluster (m : Moves) (c : Nat × Nat) : Nat × Nat :=
  match m.tiles.find? (fun e => (e.1.1, clusterOf e.1.2) == c) with
  | some e => (e.2.1, clusterOf e.2.2)
  | none => c

/-- The new location of a byte of a buffer. -/
def Moves.loc (m : Moves) (a : Nat) : Nat :=
  if 2 ^ 58 ≤ a then
    let j := (a - 2 ^ 58) / 2 ^ 21
    let x := ((m.slices.find? (fun e => e.1 == (j / 240, j % 240))).map (·.2)).getD (j / 240, j % 240)
    dbLoc x.1 x.2 (a % 2 ^ 21)
  else if 2 ^ 57 ≤ a then
    let j := (a - 2 ^ 57) / 2 ^ 22
    let x := m.cluster (j / 36, j % 36)
    cbLoc x.1 x.2 (a % 2 ^ 22)
  else
    let j := (a - 2 ^ 56) / 2 ^ 20
    let x := m.tile (j / 144, j % 144)
    tbLoc x.1 x.2 (a % 2 ^ 20)

/-- The new holder of a FIFO's role. -/
def Moves.claim (m : Moves) : Claim → Claim
  | .stream a q => .stream (m.agent a) q
  | .merge a t => .merge (m.agent a) t
  | .gen g => .gen (m.key 4 g)
  | .run => .run

/-- A FIFO with its roles moved. -/
def Moves.fifo (m : Moves) (x : Fifo) : Fifo := { x with producer := x.producer.map m.claim, consumer := x.consumer.map m.claim }

/-- A region with its quads moved. -/
def Moves.region (m : Moves) (d : Nat) (x : Region) : Region :=
  { x with
    quads := x.quads.map (fun e => ((m.tile (d, e.1)).2, e.2))
    fifos := x.fifos.map (fun (e : Nat × Fifo) => (e.1, m.fifo e.2)) }

/-- What a generator runs for, moved. -/
def Moves.genRun (m : Moves) : GenRun → GenRun
  | .none => .none
  | .push a f t => .push (m.agent a) f t
  | .transposed a f t k => .transposed (m.agent a) f t k
  | .collect a t c => .collect (m.agent a) t c

/-- Put entries into a table. -/
def tputAll {α : Type} (t : Tab α) (es : List (Nat × α)) : Tab α := es.foldl (fun t e => tset t e.1 e.2) t

/-- A saved tile on its new tile: G1OK, MOVED, vote and itinerary at once, gear and spine through a change that begins here, with no checks
and no strand that waits for it (R291, R295, R347). -/
def restoreTile (s : State) (d t : Nat) (x : Tile) : State :=
  s.modTile d t (fun z => { z with
    st := .quiesce, change := [⟨none, some x.gear, x.spine⟩]
    g1ok := x.g1ok, moved := x.moved, vote := x.vote, ven := x.ven, itbase := x.itbase, itcur := x.itcur, last := x.last })

/-- Put a context on the tiles and slices of a placement (R347). -/
def restoreCtx (s : State) (v : SavedCtx) (m : Moves) : State :=
  let s1 := { s with
    ctxs := tputAll s.ctxs (v.ctxs.map (fun (e : Nat × Ctx) => (m.key 4 e.1, e.2)))
    regions := tputAll s.regions (v.regions.map (fun (e : Nat × Region) => (m.key 4 e.1, m.region (e.1 / 576) e.2)))
    gens := tputAll s.gens (v.gens.map (fun (e : Nat × Gen) => (m.key 4 e.1, { e.2 with mode := m.genRun e.2.mode })))
    trks := tputAll s.trks (v.trks.map (fun (e : Nat × Tracker) => (m.key 16 e.1, e.2)))
    elems := tputAll s.elems (v.elems.map (fun (e : Nat × Elem) => (m.key 256 e.1, e.2)))
    ops := v.ops.foldl (fun (t : Tab EngOp) (e : Nat × EngOp) =>
      let o := { e.2 with agent := m.agent e.2.agent }
      tset t (opKey o.agent o.tok.toNat) o) s.ops
    mem := v.bufs.foldl (fun mem e => mset mem (m.loc e.1) e.2) s.mem
    poison := s.poison ++ v.poison.map m.loc
    trimPoison := s.trimPoison ++ v.trimPoison.map m.loc }
  v.tiles.foldl (fun s e =>
    let x := m.tile (e.1 / 144, e.1 % 144)
    restoreTile s x.1 x.2 e.2) s1

end Sys2Proof.Machine
end

