-- ==== Sys2Proof/Machine/Restore.lean ====
section
/-! DEFINITION. Reading a context area back (R345-R347): every entry whose layout the spec gives is taken from the bytes, the others from the
context that the save kept. -/

namespace Sys2Proof.Machine

/-- The bytes of a context area, as loads of the task's owner; none where its pages give none, and there the kept context stands (log entry
73). -/
def ctxBytes (s : State) (k : Task) (off n : Nat) : Option (List Byte) :=
  match readGen s (ownerReq k.die k.owner) (BitVec.ofNat 64 (lrCtx k.lrec + off)) n with
  | (_, .ok bs) => some bs
  | (_, .fault _) => none
  | (_, .later) => none

/-- A lane value of an image. -/
def valOfImage (bs : List Byte) (o : Nat) : Val := ⟨BitVec.ofNat 80 (imageField bs o 10), BitVec.ofNat 8 (imageField bs (o + 10) 1)⟩

/-- An element from its shadow of 2 KiB; its results in flight stay those that were kept (R346). -/
def elemOfImage (bs : List Byte) (e : Elem) : Elem :=
  { e with
    acc := (List.range 4).map (fun k => (k, BitVec.ofNat 32 (imageField bs (4 * k) 4)))
    anchor := (List.range 4).map (fun k => (k, BitVec.ofNat 80 (imageField bs (16 + 10 * k) 10)))
    asc := (List.range 4).map (fun k => (k, BitVec.ofNat 8 (imageField bs (56 + k) 1)))
    rsr := BitVec.ofNat 32 (imageField bs 60 4), o0 := valOfImage bs 64, o1 := valOfImage bs 80
    car := (List.range 32).filterMap (fun k =>
      let l := imageField bs (608 + k) 1
      if l = 0 then none else some (k, ⟨valOfImage bs (96 + 16 * k), l⟩))
    hair := (List.range 4).map (fun h =>
      let o := 640 + 272 * h
      (h, { stages := (List.range 16).map (fun k => (k, valOfImage bs (o + 16 * k))), input := valOfImage bs (o + 256) })) }

/-- The element of a region at an element of a tile: its row and column in the region, if it is there. -/
def elemPlace (x : Region) (t e : Nat) : Option (Nat × Nat) :=
  (x.quads.idxOf? (t, e / 128 * 2 + e % 16 / 8)).map (fun i => (i / x.qcols * 8 + e / 16 % 8, i % x.qcols * 8 + e % 8))

/-- A shadow whose element at a row and column is taken from an image; the live slots go to the stage that has them there (R244). -/
def shadowOfImage (u : Run) (row col k : Nat) (bs : List Byte) (h : Shadow) : Shadow :=
  match tfind h.elems (elemKey row col) with
  | none => h
  | some e =>
    let z := elemOfImage bs e
    { h with elems := tset h.elems (elemKey row col) (if flightStage u row col = some k then z else { z with car := e.car }) }

/-- The shadows of a region with an element of a tile taken from an image: a run restarts from them (R242). -/
def regionElem (t e : Nat) (bs : List Byte) (x : Region) : Region :=
  match elemPlace x t e, x.run with
  | some (row, col), some u => { x with shadows := x.shadows.map (fun h => (h.1, shadowOfImage u row col h.1 bs h.2)) }
  | _, _ => x

/-- A region block: NUMFLG, EDGECNT, RSRSEED, the argument file (R346). -/
def regionOfImage (bs : List Byte) (x : Region) : Region :=
  { x with
    numflg := BitVec.ofNat 5 (imageField bs 64 8), rovf := BitVec.ofNat 32 (imageField bs 72 4), zwords := BitVec.ofNat 32 (imageField bs 76 4)
    seed := BitVec.ofNat 32 (imageField bs 80 8)
    args := (List.range 64).map (fun k => (k, BitVec.ofNat 32 (imageField bs (128 + 4 * k) 4))) }

/-- A token's state by its code (R98). -/
def tokOfCode (n : Nat) : TokSt := if n = 0 then .idle else if n = 1 then .busy else if n = 2 then .done else .error

/-- A strand block: PC, s and p registers, tokens, HASHST, the APBASE registers (R346). -/
def strandOfImage (bs : List Byte) (c : Ctx) : Ctx :=
  { c with
    pc := BitVec.ofNat 64 (imageField bs 0 8)
    s := (List.range 32).map (fun k => (k, BitVec.ofNat 64 (imageField bs (8 + 8 * k) 8)))
    p := BitVec.ofNat 8 (imageField bs 264 8)
    tok := (List.range 8).map (fun t => (t, ⟨tokOfCode (imageField bs 400 8 / 4 ^ t % 4), BitVec.ofNat 8 (imageField bs (408 + t) 1)⟩))
    hashst := BitVec.ofNat 64 (imageField bs 3744 8), apTile := BitVec.ofNat 64 (imageField bs 3760 8)
    apClus := BitVec.ofNat 64 (imageField bs 3768 8), apDie := BitVec.ofNat 64 (imageField bs 3776 8) }

/-- A generator context from its image; what its run is for stays as it was kept (R139, R346). -/
def genOfSave (bs : List Byte) (x : Gen) : Gen :=
  let f := imageField bs 344 8
  let e := imageField bs 416 8
  { x with
    x := (List.range 16).map (fun i => (i, BitVec.ofNat 32 (imageField bs (4 * i) 4)))
    prog := halves ((bs.drop 64).take (4 * bitsOf f 6 0))
    kt0 := BitVec.ofNat 64 (imageField bs 320 8), kt1 := BitVec.ofNat 64 (imageField bs 328 8)
    nr := BitVec.ofNat 32 (imageField bs 336 4), nc := BitVec.ofNat 32 (imageField bs 340 4), pc := bitsOf f 13 7
    loops := (((List.range 4).map (fun k => (loopOfImage bs k).1)).take (bitsOf f 16 14)).reverse
    emit := bitsOf e 31 0, clip := bitsOf e 60 32, steps := imageField bs 440 8
    walkAt := BitVec.ofNat 64 (imageField bs 424 8), wcnt := imageField bs 432 4, walk := f.testBit 19 }

/-- A tile from its block: GEARCTL, vote and VEN, ITBASE and ITCUR (R291, R346). -/
def tileOfImage (bs : List Byte) (x : Tile) : Tile :=
  let g := imageField bs 3200 8
  let v := imageField bs 3208 8
  { x with
    gear := g.testBit 4, spine := BitVec.ofNat 3 g, moved := g.testBit 27, g1ok := g.testBit 26
    vote := BitVec.ofNat 3 v, ven := v.testBit 4
    itbase := BitVec.ofNat 64 (imageField bs 3216 8), itcur := BitVec.ofNat 32 (imageField bs 3224 8) }

/-- Change one entry of a table with what an image of it gives, where there is one. -/
def tmapImage {α : Type} (t : Tab α) (i : Nat) (bs : Option (List Byte)) (f : List Byte → α → α) : Tab α :=
  match bs with
  | some b => tmap t i (f b)
  | none => t

/-- The context of one tile: its elements, its regions and strands, its generators, its registers (R346). -/
def tileCtx (s : State) (k : Task) (v : SavedCtx) (x : Nat × Nat) : SavedCtx :=
  let f := frameOff k x.1 x.2
  let key := tileKey x.1 x.2
  let v := (List.range 256).foldl (fun (v : SavedCtx) e =>
    match ctxBytes s k (f + 0x100000 + 2048 * e) 2048 with
    | none => v
    | some bs =>
      { v with
        elems := tset v.elems (key * 256 + e) (elemOfImage bs (tget v.elems (key * 256 + e) {}))
        regions := v.regions.map (fun (r : Nat × Region) => if r.1 / 576 = x.1 then (r.1, regionElem x.2 e bs r.2) else r) }) v
  let v := (List.range 4).foldl (fun (v : SavedCtx) i =>
    { v with
      regions := tmapImage v.regions (key * 4 + i) (ctxBytes s k (f + 0x180000 + 0x4000 * i) 0x4000) regionOfImage
      ctxs := tmapImage v.ctxs (key * 4 + i) (ctxBytes s k (f + 0x190000 + 0x1000 * i) 0x1000) strandOfImage
      gens := (match ctxBytes s k (f + 0x195000 + 512 * i) 512 with
        | some bs => tset v.gens (key * 4 + i) (genOfSave bs (tget v.gens (key * 4 + i) {}))
        | none => v.gens) }) v
  { v with tiles := tmapImage v.tiles key (ctxBytes s k (f + 0x195000) 0x1000) tileOfImage }

/-- The buffers of a saved task, each by its place in the context area, its location and its length (R345). -/
def bufferParts (k : Task) : List (Nat × Nat × Nat) :=
  let c0 := 0x100000 + 2 ^ 21 * k.tiles.length
  let cs := heldClusters k.tiles
  let d0 := c0 + 2 ^ 22 * cs.length
  let ss := byDie k.slices
  k.tiles.map (fun x => (frameOff k x.1 x.2, tbLoc x.1 x.2 0, 2 ^ 20)) ++
  ((List.range cs.length).zip cs).map (fun e => (c0 + 2 ^ 22 * e.1, cbLoc e.2.1 e.2.2 0, 2 ^ 22)) ++
  ((List.range ss.length).zip ss).map (fun e => (d0 + 2 ^ 21 * e.1, dbLoc e.2.1 e.2.2 0, 2 ^ 21))

/-- The bytes that a task's buffers had, as cells by their old locations. -/
def bufferCells (s : State) (k : Task) (old : List (Nat × Byte)) : List (Nat × Byte) :=
  (bufferParts k).flatMap (fun (o, lo, n) =>
    match ctxBytes s k o n with
    | some bs => ((List.range n).zip bs).filterMap (fun e => if e.2 = 0 then none else some (lo + e.1, e.2))
    | none => old.filter (fun e => decide (lo ≤ e.1) && decide (e.1 < lo + n)))

/-- The context of a saved task as its context area gives it (R347). -/
def ctxOfArea (s : State) (k : Task) (v : SavedCtx) : SavedCtx :=
  let v := (k.tiles.foldl (tileCtx s k) v)
  { v with
    bufs := bufferCells s k v.bufs
    visible := v.visible.map (fun e => (e.1, ((ctxBytes s k (16 + 8 * e.1) 8).map (fun bs => BitVec.ofNat 64 (leNat bs))).getD e.2)) }

/-- Where the barrier slots of each scope unit of a task stand in its context area (R345, R346). -/
def barParts (k : Task) : List (Nat × Nat) :=
  k.tiles.flatMap (fun x =>
    let f := frameOff k x.1 x.2 + 0x195000
    (1024 + x.1 * 256 + logTile k x.1 x.2, f + 3072) ::
      (if clusterLead k x.1 (clusterOf x.2) = logTile k x.1 x.2 then [(2048 + x.1 * 256 + logTile k x.1 x.2, f + 3328)] else [])) ++
  (List.range Config.dies).map (fun d => (3072 + d, 0x100 + 128 * d)) ++ [(4096, 0x300)]

/-- A barrier slot from its dword (R345). -/
def barOfImage (bs : List Byte) (i : Nat) : Barrier :=
  ⟨BitVec.ofNat 32 (imageField bs (8 * i) 4), BitVec.ofNat 16 (imageField bs (8 * i + 4) 2), BitVec.ofNat 16 (imageField bs (8 * i + 6) 2)⟩

/-- The barrier slots of a saved task as its context area gives them (R345). -/
def barsOfArea (s : State) (k : Task) : Tab Barrier :=
  (barParts k).foldl (fun t e => match ctxBytes s k e.2 128 with
    | some bs => (List.range 16).foldl (fun t i => tset t (e.1 * 16 + i) (barOfImage bs i)) t
    | none => t) k.bars

end Sys2Proof.Machine
end

