-- ==== Sys2Proof/Machine/Ends.lean ====
section
/-! DEFINITION. How a task leaves the scheduler: completion records, the release of what it holds (R332, R333, R348, R357), retirement,
saves, kills and their deadlines (R335). -/

namespace Sys2Proof.Machine

/-! ## Completion records (R333) -/

/-- A completion record. -/
def cplBytes (status detail n : Nat) (tick : Word) : List Byte :=
  [BitVec.ofNat 8 status, BitVec.ofNat 8 detail] ++ leBytes 2 n ++ leBytes 4 0 ++ leBytes 8 tick.toNat

/-- CPLDROP of a queue rises by 1, saturating (R350). -/
def dropCpl (s : State) (d q : Nat) : State :=
  let x := s.queue d q
  s.setQueue d q { x with cpldrop := if x.cpldrop = 0xFFFF then x.cpldrop else x.cpldrop + 1 }

/-- The numbers of the device's records: the completion of a task, that of a queue's head, and the head's itineraries. -/
def taskRecord (n : Nat) : Nat := 3 * n
@[inherit_doc taskRecord] def headRecordNo (d q : Nat) : Nat := 3 * (64 * d + q) + 1
@[inherit_doc taskRecord] def itinRecord (d q : Nat) : Nat := 3 * (64 * d + q) + 2

/-- Write completion record `id` of function `v` at SYSTEM scope as the owner, and whether that is over: a write that faults counts in CPLDROP; one
that waits for its home is made later (R333, R355). -/
def completion (s : State) (id v d q o : Nat) (r : BitVec 2048) (status detail n : Nat) : State × Bool :=
  let x := deviceReq d o id
  let a := BitVec.ofNat 64 (lrCpl r)
  if lrCpl r = 0 then (s, true)
  else if deviceBarred s x .store v a 16 then (dropProbes (dropCpl s d q) x, true)
  else
    match writeGen s x a (cplBytes status detail n (s.die d).tick) with
    | (s1, .ok _) => (dropProbes s1 x, true)
    | (s1, .fault _) => (dropProbes (dropCpl s1 d q) x, true)
    | (s1, .later) => (s.waiting s1, false)

/-! ## Release (R332) -/

/-- A tile that its task has left: its votes, its itinerary and its staging go; a tile that met ECC detail 0x02 is tested (R348, R380); a recalled
one is held for the owner that recalled it (R335). -/
def freeTile (x : Tile) : Tile :=
  { x with
    st := .run, defer := false, moved := false, g1ok := false, gear := false, spine := 5, rail := false, mux := 5, change := [], vote := 0, ven := false
    itbase := 0, itcur := 0, last := 3, holder := none, lent := none, cfg := { x.cfg with staging := none }, sends := []
    testing := x.suspect }

/-- Release tiles; while a head has tiles reserved for it, they are kept for it (R327). -/
def freeTiles (s : State) (ts : List (Nat × Nat)) : State :=
  (List.range Config.dies).foldl (fun s d =>
    let l := (ts.filter (fun x => x.1 == d)).map (·.2)
    let s1 := withDemand s d (clustersOf l) (fun s => l.foldl (fun s t => s.modTile d t freeTile) s)
    s1.modDie d (fun y => if y.reserve.isSome then { y with kept := y.kept ++ l } else y)) s

/-- What a strand leaves behind: its freezing, which only the physical function ends (R344). -/
def leaveCtx (s : State) (i : Nat) : State :=
  if (tget s.ctxs i {}).frozen then { s with ctxs := tset s.ctxs i { frozen := true } } else { s with ctxs := tdel s.ctxs i }

/-- The accesses of a task that is leaving: those on their way are performed, and nobody takes their results. -/
def orphanPend (s : State) (n : Nat) : State :=
  { s with pend := (s.pend.filter (fun p => !(isProbe p && p.task == some n))).map (fun (p : Pending) =>
      if p.task = some n then { p with orphan := true } else p) }

/-- Zero the buffers of a task (R357). -/
def zeroBuffers (s : State) (k : Task) : State :=
  { s with mem := (bufferRanges k.tiles k.slices).foldl (fun m r => mclear m r.1 (r.1 + r.2)) s.mem
           poison := s.poison.filter (fun w => !(bufferRanges k.tiles k.slices).any (fun r => decide (r.1 ≤ w) && decide (w < r.1 + r.2))) }

/-- Everything that a task holds is released. -/
def releaseHolds (s : State) (n : Nat) (k : Task) : State :=
  let s := orphanPend s n
  let s := { s with
    ops := s.ops.filter (fun e => !inTask s n e.2.agent)
    regions := s.regions.filter (fun e => (tget s.ctxs e.1 {}).task != some n)
    gens := tsub s.gens (fun i => !keyIn k.tiles 4 i)
    trks := tsub s.trks (fun i => !keyIn k.tiles 16 i)
    elems := tsub s.elems (fun i => !keyIn k.tiles 256 i) }
  let s := (taskAgents s n).foldl leaveCtx s
  let s := if 1 ≤ k.vf ∧ k.vf ≤ 256 then zeroBuffers s k else s
  freeTiles s k.tiles

/-! ## The end of a STOP (R357) -/

/-- Whether a task of an interface is still with the scheduler. -/
def vfBusy (s : State) (v : Nat) : Bool := (liveTasks s).any (fun e => e.2.vf == v)

/-- An interface whose STOP is complete: CONFIG_UNLOCKED, with the frozen set released; the command ends with RES 0 and LEN 0 (R386). -/
def stopDone (s : State) (v : Nat) : State :=
  let x := s.vf v
  { s.setVf v { x with st := .unlocked, stopping := false } with doe := { s.doe with res := 0, len := 0 } }

/-- The commands that wait for the STOP of an interface retire. -/
def retireStops (s : State) (v : Nat) : State :=
  (List.range 16).foldl (fun s k =>
    let u := Agent.hub (k / 4) (k % 4)
    if (s.ctx u).stall = .tdiStop v then s.endStall u else s) s

/-- STOPs whose last task has left end, and the command that waits for it retires; one whose core has left the command ends too. -/
def endStops (s : State) : State :=
  (List.range 257).foldl (fun s v => if (s.vf v).stopping && !vfBusy s v then retireStops (stopDone s v) v else s) s

/-! ## Leaving the scheduler -/

/-- The last state of a task, by the STATUS of its completion (R332, R333). -/
def lastState (status : Nat) : TaskSt :=
  if status = 1 then .retired else if status = 5 then .faulted else .killed

/-- A task leaves the scheduler, and whether it has: completion, then release (R332, R333); not while its completion record waits for its
home. -/
def leave (s : State) (n status detail : Nat) : State × Bool :=
  match s.task n with
  | none => (s, true)
  | some k =>
    match completion s (taskRecord n) k.vf k.die k.queue k.owner k.lrec status detail n with
    | (s1, false) => (s1, false)
    | (s1, true) =>
      (endStops ((releaseHolds s1 n k).modTask n (fun k => { k with
        st := lastState status, tiles := [], slices := [], halt := none, saved := none, finish := some (status, detail) })), true)

/-- Whether every strand of a task has halted and every token is settled (R332). -/
def retireReady (s : State) (n : Nat) : Bool :=
  (taskAgents s n).all (fun i =>
    let c := tget s.ctxs i {}
    decide (c.run = .halted) && c.fault.isNone && (List.range 8).all (fun t => tokSettled (c.getTok t)))

/-- Whether a halted task ends FAULTED: a FATAL or HARDWARE record was written, every agent has stopped, and the records are delivered
(R332, R339). -/
def faultedReady (s : State) (n : Nat) (k : Task) : Bool :=
  k.halt.isSome && k.fatal && allStopped s n && k.fast.isEmpty && k.slow.isEmpty

/-- Every strand has halted and every token is settled: the task retires; or its task-fatal fault is delivered: it ends FAULTED (R332,
R333, R343). -/
def execTaskRetire (task : Nat) (s : State) : Host.Outcome State Fault Refusal :=
  match s.task task with
  | none => .next s
  | some k =>
    .next (match k.st with
      | .running | .draining =>
        if k.halt.isNone ∧ retireReady s task = true then (leave s task 1 0).1
        else if faultedReady s task k then (leave s task 5 (k.firstCls.getD 0)).1
        else s
      | .saving => if faultedReady s task k then (leave s task 5 (k.firstCls.getD 0)).1 else s
      | .saved | .killing | .killed | .retired | .faulted => s)

/-- PCTL KILL: a halted task ends FAULTED once its agents have stopped (R343). -/
def pctlKill (n : Nat) (s : State) (_u : Agent) : Res :=
  match s.task n with
  | none => .ok s
  | some k =>
    match k.st with
    | .running | .draining | .saving =>
      if k.halt.isNone then .ok s
      else if k.resuming || !allStopped s n then .wait s
      else
        match leave s n 5 (k.firstCls.getD 0) with
        | (s1, true) => .ok s1
        | (s1, false) => .wait s1
    | .saved | .killing | .killed | .retired | .faulted => .ok s

/-! ## Saves and kills (R332, R335) -/

/-- The ticks after which a save is abandoned (R335). -/
def saveTicks : Nat := 180000

/-- CTXHDR of a task in SAVING: STATE 10 (R345). A task halted before keeps its FDROP and its tick at the halt. While a page of the context area is
held, the save's own write of the header follows. -/
def noteSaving (s : State) (n : Nat) : State :=
  match s.task n with
  | none => s
  | some k => (ctxTry s k 6 (haltHeader k 2)).getD s

/-- A task enters SAVING: its halt line is raised (R332). -/
def startSave (s : State) (n : Nat) (rcl : Bool) (charge : Option Nat) : State :=
  match s.task n with
  | none => s
  | some k =>
    noteSaving (haltTask (s.setTask n { k with
      st := .saving, recalled := rcl, chargeTo := charge, deadline := (s.die k.die).tick.toNat + saveTicks }) n .save) n

/-- A task enters KILLING: its halt line is raised, and its end is decided (R332). -/
def startKill (s : State) (n : Nat) (end_ : Nat × Nat) (charge : Option Nat) : State :=
  haltTask (s.modTask n (fun k => { k with st := .killing, finish := some end_, chargeTo := charge })) n .kill

/-- STATUS and DETAIL of a kill after a save that was not completed (R333). -/
def saveFailed (k : Task) : Nat × Nat := if k.recalled then (4, 2) else (3, 0)

/-- The save of a task is not complete at its deadline: it is abandoned (R332, R335). A task that has met a task-fatal fault ends FAULTED. -/
def execSaveDeadlineExpiry (task : Nat) (s : State) : Host.Outcome State Fault Refusal :=
  match s.task task with
  | none => .next s
  | some k =>
    .next (if k.st = .saving ∧ doomed s task k = false ∧ k.deadline ≤ (s.die k.die).tick.toNat then startKill s task (saveFailed k) k.chargeTo else s)

/-- A SAVED task holds nothing: its kill only takes it from its queue and leaves the completion to come (R357). -/
def killSaved (s : State) (n : Nat) (k : Task) (end_ : Nat × Nat) : State :=
  let q := s.queue k.die k.queue
  (s.setQueue k.die k.queue { q with saved := q.saved.filter (· != n) }).setTask n
    { k with st := .killing, tiles := [], slices := [], saved := none, finish := some end_ }

/-- A killed task leaves once its agents have stopped (R332). -/
def execKillComplete (task : Nat) (s : State) : Host.Outcome State Fault Refusal :=
  match s.task task with
  | none => .next s
  | some k =>
    .next (if k.st = .killing ∧ k.resuming = false ∧ allStopped s task = true then
      let f := k.finish.getD (3, 0)
      (leave s task f.1 f.2).1
    else s)

/-- Whether a task's tiles have completed their gear and spine changes, which a halt lets complete (R296). -/
def gearsSettled (s : State) (k : Task) : Bool := k.tiles.all (fun x => (s.tile x.1 x.2).st == .run)

/-- Whether the context of a task can be saved now: every agent has stopped, no access is on its way, no gear change runs, and no
task-fatal fault has come up (R332, R340). -/
def saveReady (s : State) (n : Nat) (k : Task) : Bool :=
  decide (k.st = .saving) && !k.resuming && !doomed s n k && allStopped s n && accessesDone s n && gearsSettled s k

/-- The context area is written before the deadline: the task is SAVED, its tiles are released, and it stands at the head of its queue again. A write that
faults replayably stalls the save; another fault ends it (R332, R345). -/
def execContextSaveComplete (task : Nat) (s : State) : Host.Outcome State Fault Refusal :=
  match s.task task with
  | none => .next s
  | some k =>
    if !saveReady s task k then .next s
    else if k.deadline ≤ (s.die k.die).tick.toNat then .next (startKill s task (saveFailed k) k.chargeTo)
    else
      let vis := visiblesOf s k
      match saveWrites s task k vis with
      | (s1, .ok _) =>
        let v := savedCtx s1 task k vis
        let s2 := releaseHolds s1 task k
        let q := s2.queue k.die k.queue
        let s3 := s2.setQueue k.die k.queue { q with saved := task :: q.saved }
        .next (endStops (s3.modTask task (fun k => { k with
          st := .saved, slices := k.slices, halt := none, firstCls := none, fastSeen := false, chargeTo := none, saved := some v })))
      | (s1, .fault f) =>
        if fstatus f.cls f.detail = .replay then .next s else .next (startKill s1 task (saveFailed k) k.chargeTo)
      | (s1, .later) => .next (s.waiting s1)

/-! ## The end of a readmission (R291, R347) -/

/-- A save or a kill that came during a resume takes effect now: the halt line is raised again (R347). -/
def lateHalt (s : State) (n : Nat) (st : TaskSt) : State :=
  match st with
  | .saving => noteSaving (haltTask s n .save) n
  | .killing => haltTask s n .kill
  | .running | .draining | .saved | .killed | .retired | .faulted => s

/-- Once the gears and spines of a readmitted task are restored, its operations and its strands go on (R347). -/
def endReadmit (s : State) (n : Nat) : State :=
  match s.task n with
  | none => s
  | some k => if k.resuming && gearsSettled s k then lateHalt (resumeParts s n) n k.st else s

/-- The clock of a tile in SETTLE is stable: GEARCTL takes the target and the instruction retires (R295); the last tile of a readmitted task
lets it go on (R347). -/
def execSpineClockStable (die tile : Nat) (s : State) : Host.Outcome State Fault Refusal :=
  let x := s.tile die (gearLead s die tile)
  match x.st, x.change with
  | .settle, c :: cs =>
    let s1 := settleGroup die tile s c cs
    .next (((s.holder die tile).map (endReadmit s1)).getD s1)
  | _, _ => .next s

end Sys2Proof.Machine
end

