-- ==== Sys2Proof/Machine/Sched.lean ====
section
/-! DEFINITION. The scheduler: the reference tick and what it counts (R172, R173, R303, R326, R338), admission (R327-R331, R347),
pre-emption (R334) and recall (R335). -/

namespace Sys2Proof.Machine

/-! ## Queues -/

/-- The owner of a queue in service (R352). -/
def queueOwner (s : State) (d q : Nat) : Option Nat :=
  let m := s.qmapEntry (64 * d + q)
  if m.v then some m.owner else none

/-- The head of a queue: a SAVED task, or a record (R327). -/
inductive Head where
  | saved (n : Nat)
  | fresh (r : BitVec 2048)
  deriving DecidableEq, Repr

/-- The head of a queue. -/
def queueHead (s : State) (d q : Nat) : Option Head :=
  let x := s.queue d q
  match x.saved, x.recs with
  | n :: _, _ => some (.saved n)
  | [], r :: _ => some (.fresh r)
  | [], [] => none

/-- The lowest-numbered non-empty queue of an owner (R327). -/
def firstQueue (s : State) (d o : Nat) : Option Nat :=
  (List.range 64).find? (fun q => queueOwner s d q == some o && (queueHead s d q).isSome)

/-- The queues whose heads admission considers, with their owners (R327). -/
def contenders (s : State) (d : Nat) : List (Nat × Nat) :=
  (List.range 64).filterMap (fun q =>
    match queueOwner s d q with
    | some o => if firstQueue s d o = some q then some (q, o) else none
    | none => none)

/-- DEF of an owner on a die, in units of 1/65,536 tile-tick (R326). -/
def deficit (s : State) (d o : Nat) : Int := tget (s.die d).defs o 0

/-- Whether the head of a queue fits (R327). -/
def queueFits (s : State) (d q o : Nat) : Bool :=
  match queueHead s d q with
  | none => false
  | some (.saved n) => ((s.task n).map (savedFits s d q o)).getD false
  | some (.fresh r) => (rejectDetail s d (s.qmapEntry (64 * d + q)) r).isNone && headFits s d q o r

/-- The queue of the largest DEF among some contenders, ties to the lower number (R327). -/
def largestDef (s : State) (d : Nat) (l : List (Nat × Nat)) : Option (Nat × Nat) :=
  l.foldl (fun b x =>
    match b with
    | none => some x
    | some y => if deficit s d y.2 < deficit s d x.2 then some x else some y) none

/-! ## The reference tick -/

/-- Whether an owner has ready work on a die (R326). -/
def readyWork (s : State) (d o : Nat) : Bool :=
  (firstQueue s d o).isSome ||
  (liveTasks s).any (fun e => e.2.owner == o && (e.2.die == d || e.2.tiles.any (fun x => x.1 == d)))

/-- The tiles of a die that an owner's tasks hold (R326). -/
def tilesHeld (s : State) (d o : Nat) : Nat :=
  ((holdingTasks s).filter (fun e => e.2.owner == o)).foldl (fun n e => n + (e.2.tiles.filter (fun x => x.1 == d)).length) 0

/-- The owners that a die's deficits concern. -/
def defOwners (s : State) (d : Nat) : List Nat :=
  (List.range 512).filter (fun o => readyWork s d o || (tfind (s.die d).defs o).isSome)

/-- A value kept within a bound on either side. -/
def clampDef (b : Int) (x : Int) : Int := max (-b) (min b x)

/-- The deficits of a die after a tick (R326). -/
def tickDefs (s : State) (d : Nat) : Tab Int :=
  let e := admitTiles s d
  let os := defOwners s d
  let ready := os.filter (readyWork s d)
  let w := ready.foldl (fun n o => n + (s.owner o).wgt.toNat) 0
  os.map (fun o =>
    let x := deficit s d o
    let y : Int :=
      if ready.any (· == o) then x + ((e * 65536 * (s.owner o).wgt.toNat / w : Nat) : Int) - ((tilesHeld s d o * 65536 : Nat) : Int)
      else min x 0
    (o, clampDef ((e * 2000000 * 65536 : Nat) : Int) y))

/-- A counter of 64 bits after an addition, saturating (R338). -/
def addSat64 (x n : Nat) : Nat := min (2 ^ 64 - 1) (x + n)

/-- Tile-ticks added to an owner's TTICK, but for those that R305 excludes. -/
def addTicks (x : Toll) (n : Nat) : Toll :=
  let m := min x.credit n
  { x with credit := x.credit - m, tt := addSat64 x.tt (n - m) }

/-- The owner that a task's ticks are charged to (R338). -/
def chargedOwner (k : Task) : Nat :=
  match k.st with
  | .saving | .killing => k.chargeTo.getD k.owner
  | _ => k.owner

/-- The gear-weighted tiles of a task (R338). -/
def weightedTiles (s : State) (ts : List (Nat × Nat)) : Nat := ts.foldl (fun n x => n + (if (s.tile x.1 x.2).gear then 4 else 1)) 0

/-- TTICK of the owner of a task for one tick (R338). -/
def tickToll (s : State) (k : Task) : State :=
  let o := chargedOwner k
  s.setToll o (addTicks (s.toll o) (weightedTiles s k.tiles))

/-- Energy in parts of 2^-32 µJ added to an owner's ENUJ (R338). -/
def addEnergy (x : Toll) (n : Nat) : Toll :=
  { x with uj := addSat64 x.uj ((x.ujFrac + n) / 2 ^ 32), ujFrac := (x.ujFrac + n) % 2 ^ 32 }

/-- The islands on which tasks hold tiles. -/
def heldIslands (ks : List Task) : List (Nat × Nat) :=
  (ks.flatMap (fun k => k.tiles.map (fun x => (x.1, clusterOf x.2)))).foldl (fun l c => if l.any (· == c) then l else l ++ [c]) []

/-- The energy that an island meters in one tick, a free value, is shared among the tasks that hold tiles of it by the tile-ticks that they add to
TTICK (R338). -/
def tickEnergy (ks : List Task) (s : State) (c : Nat × Nat) : State :=
  let part (k : Task) : Nat := weightedTiles s (k.tiles.filter (fun x => (x.1, clusterOf x.2) == c))
  let all := ks.foldl (fun n k => n + part k) 0
  let e := s.fresh.1.toNat % 2 ^ 48
  ks.foldl (fun s k =>
    let n := part k
    if n = 0 then s else s.setToll (chargedOwner k) (addEnergy (s.toll (chargedOwner k)) (e * n / all))) s.fresh.2

/-- A task for one tick: EST, the drain budget and the halt (R266, R332, R340). -/
def tickTask (k : Task) : Task :=
  let runs := match k.st with
    | .running | .draining => true
    | _ => false
  { k with
    est := if runs then k.est - 1 else k.est
    drainBudget := k.drainBudget - 1
    haltTicks := if k.halt.isSome then k.haltTicks + 1 else k.haltTicks }

/-- Whether a masked BUSY token of a WAIT stands for a held timed send or a collective that waits for other ranks: the WAIT does not
count (R173). -/
def waitExempt (s : State) (u : Agent) (m : BitVec 8) : Bool :=
  (List.range 8).any (fun t => m.getLsbD t && (match s.op u t with
    | some o => (decide (o.kind = .tsend) && decide (o.st = .arrived)) || (decide (o.kind = .coll) && decide (o.st ≠ .written))
    | none => false))

/-- Whether the tile of an agent is in a gear or spine change. -/
def tileChanging (s : State) (u : Agent) : Bool := !u.isHub && (s.tile u.die u.tile).st != .run

/-- Whether the watchdog of a strand's stall counts in this tick (R173, R288, R297). -/
def stallCounts (s : State) (u : Agent) : Bool :=
  let c := s.ctx u
  !s.halted u && (match c.stall with
    | .wait _ _ m => !tileChanging s u && !waitExempt s u m
    | .meet .. | .reform .. | .gear => true
    | _ => false)

/-- Whether the watchdog of a DRAIN stream counts in this tick (R173). -/
def drainCounts (s : State) (u : Agent) (x : Stream) : Bool :=
  decide (x.mode = .drain) && !s.halted u && !tileChanging s u && decide ((s.getTok u x.tok.toNat).st = .busy) &&
  (agentFifo s u x.fifo.toNat).readable.isEmpty

/-- The watchdogs of a strand for one tick. -/
def tickCtx (s : State) (i : Nat) (c : Ctx) : Ctx :=
  let u := agentOfKey i
  { c with
    ticks := if stallCounts s u then c.ticks + 1 else c.ticks
    q := c.q.map (fun (e : Nat × Stream) => (e.1, if drainCounts s u e.2 then { e.2 with ticks := e.2.ticks + 1 } else e.2)) }

/-- A region for one tick: the hold watchdog, the tile-ticks of its run, and the mapping it waits for (R172, R240, R305). -/
def tickRegion (s : State) (i : Nat) (x : Region) : Region :=
  let r := regionOfKey i
  let ts := (x.quads.map (·.1)).foldl (fun l t => if l.any (· == t) then l else l ++ [t]) []
  let going := (x.run.map (·.started)).getD false && !s.halted r.strand
  { x with
    holdTicks := if x.heldNow then x.holdTicks + 1 else x.holdTicks
    heldNow := false
    sinceWp := if going then x.sinceWp + weightedTiles s (ts.map (fun t => (r.die, t))) else x.sinceWp
    mapping := x.mapping.map (fun (m : Mapping) => { m with ticks := m.ticks + 1 }) }

/-- A memory access for one tick: one that a migration holds counts toward HOLDTO, a remote one toward its acknowledgement, one of the
host toward its completion (R173, R321, R355). -/
def tickPend (s : State) (p : Pending) : Pending :=
  { p with
    ticks := p.ticks + 1
    heldTicks := if isHeld s p && !s.halted p.agent && !tileChanging s p.agent then p.heldTicks + 1 else p.heldTicks }

/-- An operation for one tick: a collective that waits for other ranks (R107). -/
def tickOp (s : State) (o : EngOp) : EngOp :=
  if o.kind = .coll ∧ o.st ≠ .written ∧ opRuns s o = true then { o with ticks := o.ticks + 1 } else o

/-- A die for one tick: the tick count (R303), the hold-offs and trim freezes of its islands, its periods and its deficits. -/
def tickDie (s : State) (d : Nat) : State :=
  s.modDie d (fun y => { y with
    tick := if y.tickLag = 0 then y.tick + 1 else y.tick
    tickLag := y.tickLag - 1
    islands := y.islands.map (fun (e : Nat × Island) => (e.1, { e.2 with hold := e.2.hold - 1 }))
    trims := y.trims.map (fun (e : Nat × Trim) => (e.1, { e.2 with frzleft := e.2.frzleft - 1 }))
    defs := tickDefs s d
    sweepTicks := y.sweepTicks + 1
    halveTicks := y.halveTicks + 1 })

/-- One reference tick of the package. -/
def tickAll (s : State) : State :=
  let s1 := { s with
    ctxs := s.ctxs.map (fun (e : Nat × Ctx) => (e.1, tickCtx s e.1 e.2))
    regions := s.regions.map (fun (e : Nat × Region) => (e.1, tickRegion s e.1 e.2))
    ops := s.ops.map (fun (e : Nat × EngOp) => (e.1, tickOp s e.2))
    pend := s.pend.map (tickPend s)
    migs := s.migs.map (fun (m : Migration) => { m with ticks := m.ticks + 1 })
    tasks := s.tasks.map (fun (e : Nat × Task) => (e.1, tickTask e.2)) }
  let ks := (holdingTasks s).map (·.2)
  let s2 := (heldIslands ks).foldl (tickEnergy ks) (ks.foldl tickToll s1)
  (List.range Config.dies).foldl tickDie s2

/-- A die for one package beat: its raw milepost rises by 1, once it has begun (R310). -/
def beatDie (s : State) (d : Nat) : State :=
  s.modDie d (fun y => { y with raw := if y.rawLag = 0 then y.raw + 1 else y.raw, rawLag := y.rawLag - 1 })

/-- One package beat: the timed sends due at the mileposts as they stand are written and the alignments due applied, then the raw mileposts rise
(R310, R314, R316). -/
def beatAll (s : State) : State := (List.range Config.dies).foldl beatDie (flushSends (alignDue (flushSends s)))

/-- The scheduler's clock: a package beat; every eighth is a reference tick (R303, R310, R326, R338). -/
def execSchedulerTick (s : State) : Host.Outcome State Fault Refusal :=
  .next (if s.power = .off then s
    else
      let t := beatAll s
      if t.beat + 1 < Config.beatsPerTick then { t with beat := t.beat + 1 } else tickAll { t with beat := 0 })

/-! ## Starting a task (R329, R330) -/

/-- The level indices of a rank, packed from bit 0, level 0 first (R328, R329). -/
def packLevels : List Nat → Nat → Nat
  | [], _ => 0
  | e :: l, rank => rank % lvCount e + 2 ^ lvWidth e * packLevels l (rank / lvCount e)

/-- The quads of the strand slots of a tile, by strands per tile (Table: Regions at admission). -/
def slotQuads (spt slot : Nat) : List Nat :=
  match spt, slot with
  | 1, 0 => [0, 1, 2, 3]
  | 2, 0 => [0, 1]
  | 2, 1 => [2, 3]
  | 3, 0 => [0, 1]
  | 3, 1 => [2]
  | 3, 2 => [3]
  | 4, k => if k < 4 then [k] else []
  | _, _ => []

/-- A region over some quads. -/
def newRegion (quads : List (Nat × Nat)) (rows cols : Nat) : Region := { quads := quads, qrows := rows, qcols := cols }

/-- The sixteen quads of a cluster, row by row in physical coordinates (R330). Which corner comes first on a rotated die, and so which tile leads and
which rank controls the region, the spec does not say (R14; DESIGN CHOICE, log entry 89). -/
def clusterQuads (c : Nat) : List (Nat × Nat) :=
  (List.range 16).map (fun i => (((clusterTiles c)[i / 8 * 2 + i % 4 / 2]?).getD 0, i / 4 % 2 * 2 + i % 2))

/-- The regions that admission forms on a tile (R330). -/
def tileRegions (r : BitVec 2048) (ts : List (Nat × Nat)) (s : State) (x : Nat × Nat) : State :=
  if lrCreg r ∧ holdsCluster ts x.1 x.2 = true then
    if (clusterTiles (clusterOf x.2)).head? = some x.2 then
      s.setRegion ⟨x.1, x.2, 0⟩ (newRegion (clusterQuads (clusterOf x.2)) 4 4)
    else s
  else
    (List.range (lrSpt r)).foldl (fun s k =>
      let qs := slotQuads (lrSpt r) k
      if qs.isEmpty then s
      else s.setRegion ⟨x.1, x.2, k⟩ (newRegion (qs.map (fun q => (x.2, q))) (if qs.length = 4 then 2 else 1) (if qs.length = 1 then 1 else 2))) s

/-- A strand at admission (R329): rank `i` of its tile's ranks. -/
def startCtx (r : BitVec 2048) (n : Nat) (ts : List (Nat × Nat)) (k : Task) (s : State) (i : Nat) (x : Nat × Nat) (slot : Nat) : State :=
  let sp : Word := BitVec.ofNat 64 (recBits r 831 768) + BitVec.ofNat 64 (0xF0000 + 0x4000 * (slot + 1))
  let c : Ctx :=
    { run := .running
      pc := BitVec.ofNat 64 (recBits r 63 0)
      apTile := BitVec.ofNat 64 (recBits r 831 768 + 1)
      apClus := BitVec.ofNat 64 (recBits r 895 832 + (if holdsCluster ts x.1 x.2 then 1 else 0))
      apDie := BitVec.ofNat 64 (recBits r 959 896 + 1)
      task := some n
      ltile := logTile k x.1 x.2 }
  s.setCtx (.strand x.1 x.2 slot) (((c.putS 1 (BitVec.ofNat 64 (recBits r 127 64))).putS 2
    (BitVec.ofNat 64 (packLevels (lrLevels r) (i * lrSpt r + slot)))).putS 29 sp)

/-- A tile at admission: its holder, gear and spine, and its itinerary (R329). -/
def startTile (r : BitVec 2048) (n it : Nat) (x : Tile) : Tile :=
  { freeTile x with
    holder := some n
    gear := lrGear r == 1
    g1ok := lrGear r != 0
    spine := BitVec.ofNat 3 (lrSpine r)
    rail := lrGear r == 1
    mux := BitVec.ofNat 3 (lrSpine r)
    itbase := BitVec.ofNat 64 (if it = 0 then 0 else it / 8 * 8 + 1) }

/-- The lending owners of the tiles that a placement takes on a die: as many as stand beyond the unreserved ones, the last in placement
order, owners ascending (R335). -/
def lentOwners (s : State) (d o : Nat) (free n : Nat) : List Nat :=
  let lenders := (otherReserves s d o).filter (fun e => (s.owner e.1).lend)
  (lenders.flatMap (fun e => List.replicate e.2 e.1)).take (n + heldBack s d o false - free)

/-- Mark the lent tiles of a placement. -/
def markLent (s0 : State) (d q o : Nat) (r : BitVec 2048) (ts : List (Nat × Nat)) (s : State) : State :=
  (List.range Config.dies).foldl (fun s e =>
    let l := (ts.filter (fun x => x.1 == e)).map (·.2)
    let os := lentOwners s0 e o (candidates s0 d q r e).length l.length
    ((l.drop (l.length - os.length)).zip os).foldl (fun s x => s.modTile e x.1 (fun y => { y with lent := some x.2 })) s) s

/-- The task number for a new task: the first that no task with the scheduler or with undelivered records has. -/
def newTask (s : State) : Nat :=
  ((List.range (s.tasks.length + 1)).find? (fun n =>
    match s.task n with
    | none => true
    | some k => !taskLives k && k.fast.isEmpty && k.slow.isEmpty)).getD s.tasks.length

/-- Zero the buffers that a placement gives (R75). -/
def clearBuffers (ts slices : List (Nat × Nat)) (s : State) : State :=
  let rs := bufferRanges ts slices
  { s with
    mem := rs.foldl (fun m r => mclear m r.1 (r.1 + r.2)) s.mem
    poison := s.poison.filter (fun w => !rs.any (fun r => decide (r.1 ≤ w) && decide (w < r.1 + r.2)))
    gens := tsub s.gens (fun i => !keyIn ts 4 i)
    trks := tsub s.trks (fun i => !keyIn ts 16 i)
    elems := tsub s.elems (fun i => !keyIn ts 256 i) }

/-- The islands of a placement ramp to what their tiles need (R299, R327). -/
def rampFor (s0 s : State) (ts : List (Nat × Nat)) : State :=
  ts.foldl (fun s x =>
    let c := clusterOf x.2
    rampIsland (s.setIsland x.1 c (noteDemand (islandDemand s0 x.1 c) (islandDemand s x.1 c) (s.island x.1 c))) x.1 c) s

/-- The schedules that a record starts, in the strands it names (R329). -/
def startScheds (r : BitVec 2048) (k : Task) (s : State) : State :=
  (List.range 4).foldl (fun s n =>
    let c := recBits r (704 + 16 * n + 15) (704 + 16 * n)
    match physTile k (bitsOf c 14 13) (bitsOf c 7 0) with
    | none => s
    | some t =>
      let u := Agent.strand (bitsOf c 14 13) t (bitsOf c 9 8)
      if c.testBit 15 ∧ (s.ctx u).run = .running then startSched s u (bitsOf c 12 10) (BitVec.ofNat 64 (recBits r (448 + 64 * n + 63) (448 + 64 * n)))
      else s) s

/-- Start a fresh task on a placement (R329, R330); `its` are its tiles' itineraries. -/
def startTask (s0 s : State) (d q o : Nat) (r : BitVec 2048) (p : Placement) (its : List Nat) : State :=
  let n := newTask s
  let f := (s.qmapEntry (64 * d + q)).func
  let k : Task :=
    { st := .running, lrec := r, owner := o, die := d, queue := q, tiles := p.tiles, slices := p.slices
      est := recBits r 1055 1024, admitted := (s.die d).tick, vf := if 1 ≤ f ∧ f ≤ 256 then f else 0x1FF }
  let s := (clearBuffers p.tiles p.slices s).setTask n k
  let s := (List.range p.tiles.length).foldl (fun s i =>
    let x := (p.tiles[i]?).getD (0, 0)
    let s := s.modTile x.1 x.2 (startTile r n ((its[i]?).getD 0))
    let s := (List.range (lrSpt r)).foldl (fun s slot => startCtx r n p.tiles k s i x slot) s
    tileRegions r p.tiles s x) s
  startScheds r k (rampFor s0 (markLent s0 d q o r p.tiles s) p.tiles)

/-- Read the itineraries of a placement's tiles, as loads of the owner (R329). -/
def readItins (x : Req) (v : Nat) (r : BitVec 2048) (k : List (Nat × Nat)) : List (Nat × Nat) → State → State × Try (List Nat)
  | [], s => (s, .ok [])
  | y :: ys, s =>
    let l := (((k.filter (fun z => z.1 == y.1)).map (·.2)).idxOf? y.2).getD 0
    let a := BitVec.ofNat 64 (recBits r 255 192 + 8 * l)
    match (if deviceBarred s x .load v a 8 then (s, .fault (flt clsHost 4 a)) else readGen s x a 8) with
    | (s1, .ok bs) =>
      (match readItins x v r k ys s1 with
      | (s2, .ok l) => (s2, .ok (leNat bs :: l))
      | e => e)
    | (s1, .fault f) => (s1, .fault f)
    | (s1, .later) => (s1, .later)

/-- Readmit a SAVED task on a placement (R291, R347): its context is restored from its area, its tiles begin the changes that restore their gears and spines,
and its operations and strands stay halted until those are over. -/
def readmit (s0 s : State) (d n : Nat) (k : Task) (v0 : SavedCtx) (p : Placement) : State :=
  let v := ctxOfArea s k v0
  let m : Moves := ⟨k.tiles.zip p.tiles, (byDie k.slices).zip (byDie p.slices)⟩
  let low := v.visible.foldl (fun a e => if a.toNat ≤ e.2.toNat then e.2 else a) 0
  let k1 := { k with
    st := .running, tiles := p.tiles, slices := byDie p.slices, saved := none, admitted := (s.die d).tick, recalled := false, chargeTo := none
    bars := barsOfArea s k, deadline := 0, halt := some .save, haltTicks := 0, resuming := true }
  let s := (clearBuffers p.tiles p.slices s).setTask n k1
  let s := p.tiles.foldl (fun s x => s.modTile x.1 x.2 (fun y => { freeTile y with holder := some n })) s
  let q := k.queue
  let s := rampFor s0 (markLent s0 d q k.owner (anyGear k.lrec) p.tiles (restoreCtx s v m)) p.tiles
  if p.tiles.all (fun x => x.1 == k.die) then s else agreeMileposts s n k1 low

/-! ## Admission (R327, R331) -/

/-- The dies that the head of a queue could use: those of its record; a SAVED head only its own positions (R334, R347). -/
def headDies (s : State) (d q : Nat) : List Nat :=
  match queueHead s d q with
  | none => []
  | some (.saved n) => ((s.task n).map (fun k => k.tiles.map (·.1))).getD []
  | some (.fresh r) => lrDies r

/-- The tiles of some dies that an owner has recalled are its head's no longer (R335). -/
def dropWanted (s : State) (ds : List Nat) (o : Nat) : State :=
  ds.foldl (fun s d => (List.range Config.tilesPerDie).foldl (fun s t =>
    if (s.tile d t).wanted = some o then s.modTile d t (fun x => { x with wanted := none }) else s) s) s

/-- Take the head off a queue; the tiles recalled for it are taken or free. -/
def popHead (s : State) (d q : Nat) : State :=
  let x := s.queue d q
  dropWanted (s.setQueue d q (match x.saved with
    | _ :: l => { x with saved := l }
    | [] => { x with recs := x.recs.drop 1 })) (headDies s d q) (s.qmapEntry (64 * d + q)).owner

/-- Whether a queue's head stands in contention on a die and does not fit. -/
def waitsToFit (s : State) (d q : Nat) : Bool := (contenders s d).any (fun x => x.1 == q && !queueFits s d x.1 x.2)

/-- Freed tiles are reserved for the head of the owner with the largest DEF, from when it does not fit until it does, whatever the DEFs do
meanwhile (R327). -/
def noteReserve (s : State) (d : Nat) : State :=
  let top := (largestDef s d (contenders s d)).filter (fun x => !queueFits s d x.1 x.2)
  s.modDie d (fun y =>
    match y.reserve.filter (waitsToFit s d), top with
    | some _, _ => y
    | none, none => { y with reserve := none, kept := [] }
    | none, some (q, _) => { y with reserve := some q, kept := [] })

/-- A pre-emption for the head of another queue takes the reservation over: the tiles that its victims leave are that head's (R327, R334). -/
def moveReserve (s : State) (d q : Nat) : State := s.modDie d (fun y => if y.reserve = some q then y else { y with reserve := some q, kept := [] })

/-- Reject the head of a queue: its completion record carries REJECTED (R331, R333). -/
def rejectHead (s : State) (d q o : Nat) (r : BitVec 2048) (det : Nat) : State :=
  match completion s (headRecordNo d q) (s.qmapEntry (64 * d + q)).func d q o r 2 det 0 with
  | (s1, true) => popHead (dropProbes s1 (deviceReq d o (itinRecord d q))) d q
  | (s1, false) => s1

/-- Whether admission may admit the head of a queue: it fits, and no head that fits has a larger DEF, or an equal one in a lower queue. -/
def admits (s : State) (d q o : Nat) : Bool :=
  queueFits s d q o && ((largestDef s d ((contenders s d).filter (fun x => queueFits s d x.1 x.2))).map (·.1) == some q)

/-- Admit the head of a queue on a placement. A readmission restores its tiles by changes, which no package stall handshake lets begin (R290, R291). -/
def admitHead (s : State) (d q o : Nat) (p : Placement) : State :=
  match queueHead s d q with
  | none => s
  | some (.saved n) =>
    (match s.task n with
    | none => s
    | some k =>
      match k.saved with
      | none => s
      | some v =>
        if !s.shake && placementOk s d q o (anyGear k.lrec) p && keepsSaved s k v p.tiles && (lrFixed k.lrec || preferredSaved s d q k v p) then
          match ctxTry s k 6 (leBytes 1 0) with  -- CTXHDR.STATE 00 before the partition goes on (DEDUCED from R345, log entry 72)
          | none => s
          | some s1 => noteReserve (readmit s1 (popHead s1 d q) d n k v p) d
        else s)
  | some (.fresh r) =>
    if !placementOk s d q o r p || (!lrFixed r && !preferred s d q o r p) then s
    else if recBits r 255 192 = 0 then noteReserve (startTask s (popHead s d q) d q o r p []) d
    else
      let x := deviceReq d o (itinRecord d q)
      match readItins x (s.qmapEntry (64 * d + q)).func r p.tiles p.tiles s with
      | (s1, .ok its) => noteReserve (startTask s (popHead (dropProbes s1 x) d q) d q o r p its) d
      | (s1, .fault _) => rejectHead s1 d q o r 8
      | (s1, .later) => s.waiting s1

/-- Admission of the head of a queue: rejection of a record that breaks a rule, else the start of its task on a placement that the placer
may choose (R327-R331). -/
def execAdmission (die queue : Nat) (place : Placement) (s : State) : Host.Outcome State Fault Refusal :=
  .next (if die < Config.dies ∧ s.power = .ready then
    match queueOwner s die queue with
    | none => s
    | some o =>
      if firstQueue s die o ≠ some queue then s
      else
        match queueHead s die queue with
        | some (.fresh r) =>
          (match rejectDetail s die (s.qmapEntry (64 * die + queue)) r with
          | some det => rejectHead s die queue o r det
          | none =>
            let s1 := noteReserve s die
            if admits s1 die queue o then admitHead s1 die queue o place else s1)
        | _ =>
          let s1 := noteReserve s die
          if admits s1 die queue o then admitHead s1 die queue o place else s1
  else s)

/-! ## Pre-emption (R334) -/

/-- The record of the head of a queue. -/
def headRecord (s : State) (d q : Nat) : Option (BitVec 2048) :=
  match queueHead s d q with
  | none => none
  | some (.saved n) => (s.task n).map (·.lrec)
  | some (.fresh r) => some r

/-- A state in which some tasks have left, as far as placement can see. -/
def without (s : State) (ns : List Nat) : State :=
  ns.foldl (fun s n =>
    match s.task n with
    | none => s
    | some k =>
      (k.tiles.foldl (fun s x => s.modTile x.1 x.2 freeTile) s).setTask n { k with st := .killed, tiles := [], slices := [] }) s

/-- What a pre-emption does to a victim (R334). -/
inductive Outcome3 where
  | drain | checkpoint | kill
  deriving DecidableEq, Repr

/-- The outcome that the scheduler chooses for a victim, if it may be one (R334). -/
def victimOutcome (s : State) (k : Task) : Option Outcome3 :=
  if lrPerm k.lrec 0 && decide (k.est < s.budget) && !k.noDrain then some .drain
  else if lrPerm k.lrec 1 then some .checkpoint
  else if lrPerm k.lrec 2 then some .kill
  else none

/-- Whether a DRAINING task drains on: its drain is what the scheduler would still choose. -/
def drainsOn (s : State) (k : Task) : Bool :=
  match victimOutcome s k with
  | some .drain | none => true
  | some .checkpoint | some .kill => false

/-- The tasks that are about to leave (R332). -/
def leaving (s : State) : List Nat :=
  (s.tasks.filter (fun e => match e.2.st with
    | .draining => drainsOn s e.2
    | .saving | .killing => true
    | _ => false)).map (·.1)

/-- Whether a task may be a victim of a head: it runs on a die that the head could use, or drains there where DRAIN is no longer its outcome; it
permits an outcome, was not newly admitted, is not in the middle of a resume, and has met no task-fatal fault, which ends it FAULTED (R332, R334,
R347). -/
def mayBeVictim (s : State) (ds : List Nat) (n : Nat) (k : Task) : Bool :=
  !doomed s n k && (decide (k.st = .running) || (decide (k.st = .draining) && !drainsOn s k)) && !k.resuming &&
  k.tiles.any (fun x => ds.any (· == x.1)) && (victimOutcome s k).isSome && decide (k.admitted.toNat + 200000 ≤ (s.die k.die).tick.toNat)

/-- Whether a victim comes before another: lowest PRIO first, then latest admitted (R334). -/
def prioBefore (x y : Nat × Task) : Bool :=
  decide (lrPrio x.2.lrec < lrPrio y.2.lrec) || (lrPrio x.2.lrec == lrPrio y.2.lrec && decide (y.2.admitted.toNat ≤ x.2.admitted.toNat))

/-- Whether a victim of fair-share pre-emption comes before another: lowest DEF first, then as above. -/
def defBefore (s : State) (d : Nat) (x y : Nat × Task) : Bool :=
  decide (deficit s d x.2.owner < deficit s d y.2.owner) || (deficit s d x.2.owner == deficit s d y.2.owner && prioBefore x y)

/-- Put a victim in its place among others. -/
def insertVictim (before : Nat × Task → Nat × Task → Bool) (x : Nat × Task) : List (Nat × Task) → List (Nat × Task)
  | [] => [x]
  | y :: ys => if before x y then x :: y :: ys else y :: insertVictim before x ys

/-- The shortest leading part of a list of victims whose leaving lets the head fit, on top of the tasks that leave anyway. -/
def enoughVictims (fits : List Nat → Bool) (gone : List Nat) : List (Nat × Task) → List (Nat × Task) → Option (List (Nat × Task))
  | taken, rest =>
    if fits (gone ++ taken.map (·.1)) then some taken
    else
      match rest with
      | [] => none
      | x :: xs => enoughVictims fits gone (taken ++ [x]) xs

/-- Pre-empt a victim on behalf of an owner (R332, R334). -/
def preempt (charge : Nat) (s : State) (x : Nat × Task) : State :=
  match victimOutcome s x.2 with
  | none => s
  | some .drain => s.modTask x.1 (fun k => { k with st := .draining, drainBudget := s.budget })
  | some .checkpoint => startSave s x.1 false (some charge)
  | some .kill => startKill s x.1 (3, 0) (some charge)

/-- The victims of a head: by priority, else by fair share (R334). -/
def victims (s : State) (d q o : Nat) (r : BitVec 2048) : Option (List (Nat × Task)) :=
  let fits (ns : List Nat) : Bool := queueFits (without s ns) d q o
  let pick (ok : Nat × Task → Bool) (before : Nat × Task → Nat × Task → Bool) : Option (List (Nat × Task)) :=
    enoughVictims fits (leaving s) [] ((s.tasks.filter (fun e => mayBeVictim s (headDies s d q) e.1 e.2 && ok e)).foldl (fun l x => insertVictim before x l) [])
  match pick (fun e => decide (lrPrio e.2.lrec < lrPrio r)) prioBefore with
  | some l => some l
  | none =>
    if (((admitTiles s d * 200000 * 65536 : Nat) : Int) < deficit s d o) then
      pick (fun e => decide (deficit s d e.2.owner < 0)) (defBefore s d)
    else none

/-- The decision of pre-emption for the head of a queue that does not fit (R334). -/
def execPreemptionDecision (die queue : Nat) (s : State) : Host.Outcome State Fault Refusal :=
  .next (match queueOwner s die queue, headRecord s die queue with
    | some o, some r =>
      if firstQueue s die o ≠ some queue ∨ queueFits s die queue o = true then s
      else
        match victims s die queue o r with
        | none | some [] => s
        | some l => l.foldl (preempt o) (moveReserve s die queue)
    | _, _ => s)

/-- EST and the drain budget have both expired: the task runs on, and DRAIN is not chosen for it again until its next EST (R332). -/
def execDrainExpiry (task : Nat) (s : State) : Host.Outcome State Fault Refusal :=
  match s.task task with
  | none => .next s
  | some k =>
    .next (if k.st = .draining ∧ k.est = 0 ∧ k.drainBudget = 0 then s.setTask task { k with st := .running, noDrain := true } else s)

/-! ## Recall (R335) -/

/-- The borrowers of an owner's tiles on some dies, in task order; one that has met a task-fatal fault ends FAULTED (R332). -/
def borrowers (s : State) (ds : List Nat) (o : Nat) : List (Nat × Task) :=
  s.tasks.filter (fun e => (match e.2.st with
    | .running | .draining => !e.2.resuming
    | _ => false) && !doomed s e.1 e.2 && e.2.tiles.any (fun x => ds.any (· == x.1) && (s.tile x.1 x.2).lent == some o))

/-- The borrowers without those whose tiles the head does not need: it fits when the others leave (R335). -/
def needed (fits : List Nat → Bool) (gone : List Nat) : List (Nat × Task) → List (Nat × Task) → List (Nat × Task)
  | kept, [] => kept
  | kept, x :: xs => needed fits gone (if fits (gone ++ (kept ++ xs).map (·.1)) then kept else kept ++ [x]) xs

/-- A recalled borrower's lent tiles on some dies are held for the owner that recalls them (R335). -/
def holdRecalled (ds : List Nat) (o : Nat) (s : State) (k : Task) : State :=
  (k.tiles.filter (fun x => ds.any (· == x.1) && (s.tile x.1 x.2).lent == some o)).foldl (fun s x =>
    s.modTile x.1 x.2 (fun y => { y with wanted := some o })) s

/-- Recall a borrower: it is saved if it permits CHECKPOINT, and killed otherwise (R335). -/
def recallTask (ds : List Nat) (o : Nat) (s : State) (x : Nat × Task) : State :=
  let s := holdRecalled ds o s x.2
  if lrPerm x.2.lrec 1 then startSave s x.1 true (some o) else startKill s x.1 (4, 1) (some o)

/-- An owner's head needs lent tiles, on any die that it could use: their borrowers are recalled (R335). -/
def execRecallStart (die owner : Nat) (s : State) : Host.Outcome State Fault Refusal :=
  .next (match firstQueue s die owner with
    | none => s
    | some q =>
      let ds := headDies s die q
      let fits (ns : List Nat) : Bool := queueFits (without s ns) die q owner
      if queueFits s die q owner then s
      else
        let l := (enoughVictims fits (leaving s) [] (borrowers s ds owner)).getD []
        (needed fits (leaving s) [] l).foldl (recallTask ds owner) s)

end Sys2Proof.Machine
end

