-- ==== Sys2Proof/Machine/Trust.lean ====
section
/-! DEFINITION. The management registers (R353, R354), the owner table and the queue map (R352), trusted interfaces and their command
register (R356-R358, R385, R386), and the DOE mailbox (R383, R384). -/

namespace Sys2Proof.Machine

/-! ## Interfaces (R356, R357) -/

/-- The queues of a function, by queue-map entry 64 × die + queue, in ascending order (R350). -/
def funcQueues (s : State) (f : Nat) : List Nat :=
  (List.range 256).filter (fun i => (s.qmapEntry i).v && (s.qmapEntry i).func == f)

/-- The owner whose FUNC names a function. -/
def funcOwner (s : State) (f : Nat) : Option Nat := ((s.owners.filter (fun e => e.2.v && e.2.func == f)).head?).map (·.1)

/-- Whether an interface is in CONFIG_LOCKED or RUN. -/
def vfLocked (x : Vf) : Bool :=
  match x.st with
  | .locked | .run => true
  | .unlocked | .error => false

/-- Whether an interface answers nothing: it is in ERROR, or a STOP is under way (R357). -/
def vfDead (x : Vf) : Bool := x.st == .error || x.stopping

/-- Discard the records queued through a function's queues (R357). -/
def dropRecords (s : State) (f : Nat) : State :=
  (funcQueues s f).foldl (fun s i => s.setQueue (i / 64) (i % 64) { s.queue (i / 64) (i % 64) with recs := [] }) s

/-- Kill every task posted through a function's queues, with STATUS 0x05 and DETAIL 0x17 (R357). -/
def killTasks (s : State) (f : Nat) : State :=
  ((liveTasks s).filter (fun e => e.2.vf == f)).foldl (fun s e =>
    if e.2.st = .saved then killSaved s e.1 e.2 (5, 0x17) else startKill s e.1 (5, 0x17) e.2.chargeTo) s

/-- An interface in CONFIG_LOCKED or RUN enters ERROR with a cause (R356, R357, R385). -/
def tdiError (s : State) (f cause : Nat) : State :=
  let x := s.vf f
  if 1 ≤ f ∧ f ≤ 256 ∧ vfLocked x = true ∧ !x.stopping then
    killTasks (dropRecords (s.setVf f { x with st := .error, cause := cause }) f) f
  else s

/-! ## The owner table and the queue map (R352) -/

/-- The bytes of main memory at a physical address, unless they are not there or poisoned. -/
def tableBytes? (s : State) (pa n : Nat) : Option (List Byte) :=
  if populated s 0 pa n && !poisonedAt s pa n then some (mread s.mem pa n) else none

/-- An owner-table entry with its GRANT bytes. -/
def ownerOf32 (e : Nat) (grant : List Byte) : Owner :=
  { v := e.testBit 140, troot := BitVec.ofNat 64 (bitsOf e 63 0), grantAt := BitVec.ofNat 64 (bitsOf e 127 64)
    grant := BitVec.ofNat 5120 (leNat grant), policy := BitVec.ofNat 2 (bitsOf e 142 141), lend := e.testBit 143
    wgt := BitVec.ofNat 8 (bitsOf e 151 144), priomax := BitVec.ofNat 8 (bitsOf e 159 152), func := bitsOf e 223 215
    rsv := BitVec.ofNat 32 (bitsOf e 255 224), raw := BitVec.ofNat 256 e }

/-- Whether REFRESH rejects an entry (R352). -/
def ownerBad (s : State) (o e : Nat) : Bool :=
  let f := bitsOf e 223 215
  bitsOf e 214 160 != 0 || bitsOf e 139 128 != 0 || bitsOf e 151 144 == 0 || (decide (256 < f) && f != 0x1FF) ||
  (f != 0x1FF && s.owners.any (fun x => x.1 != o && x.2.v && x.2.func == f))

/-- MSTAT.ERR of a die. -/
def setErr (s : State) (d : Nat) : State := s.modDie d (fun y => { y with err := true })

/-- REFRESH of an owner: the device's copy of its entry and GRANT bytes; a locked interface that it touches goes to ERROR (R352, R356). -/
def refresh (s : State) (o : Nat) : State :=
  if 512 ≤ o then setErr s 0
  else
    match tableBytes? s (s.mgbase.toNat + 32 * o) 32 with
    | none => setErr s 0
    | some bs =>
      let e := leNat bs
      if ownerBad s o e then setErr s 0
      else
        let old := (s.owner o).func
        let s1 := { s with owners := tset s.owners o (ownerOf32 e ((tableBytes? s (bitsOf e 127 64) 640).getD [])) }
        let s2 := tdiError s1 old 2
        tdiError s2 (bitsOf e 223 215) 2

/-- A queue-map entry. -/
def qmapOf (e : Nat) : QMap := ⟨e.testBit 31, bitsOf e 17 9, bitsOf e 8 0⟩

/-- Whether QREFRESH rejects a queue map (R352). -/
def qmapBad (es : List Nat) : Bool :=
  es.any (fun e => bitsOf e 30 18 != 0 || decide (256 < bitsOf e 17 9)) ||
  (List.range 257).any (fun f => decide (64 < (es.filter (fun e => e.testBit 31 && bitsOf e 17 9 == f)).length))

/-- The queue-map entries that name a function, with their numbers. -/
def namesFunc (t : Tab QMap) (f : Nat) : Tab QMap := t.filter (fun e => e.2.v && e.2.func == f)

/-- QREFRESH: the device's copy of the queue map; a locked interface whose entries change goes to ERROR (R352, R356). -/
def qrefresh (s : State) : State :=
  match tableBytes? s (s.mgbase.toNat + 0x4000) 1024 with
  | none => setErr s 0
  | some bs =>
    let es := elemsOf 4 bs
    if qmapBad es then setErr s 0
    else
      let new : Tab QMap := (List.range 256).map (fun i => (i, qmapOf ((es[i]?).getD 0)))
      let touched := (List.range 257).filter (fun f => namesFunc s.qmap f != namesFunc new f)
      let s1 := touched.foldl (fun s f => tdiError s f 2) s
      { s1 with qmap := new }

/-! ## Management commands (R353) -/

/-- Release a frozen master (R344). -/
def release (s : State) (d n : Nat) : State :=
  match tfind (s.die d).frz n with
  | none => s
  | some z =>
    let s := s.modDie d (fun y => { y with frz := tdel y.frz n, frzOvf := y.frzOvf && n != 15 })
    match z.kind with
    | 0 | 4 => s.modCtx z.master (fun c => { c with frozen := false })
    | 1 => s.modDie d (fun y => { y with lost := y.lost - 1 })
    | 3 => s.modTile z.master.die z.master.tile (fun x => { x with dead := x.dead.filter (· != z.eng) })
    | 5 => s.setVf z.id { s.vf z.id with frozen := false }
    | _ => s

/-- RESTART: a hub core, stopped or not, goes on at its HTVEC, out of any handler (R353). What it had issued is performed. -/
def restart (s : State) (d k : Nat) : State :=
  ((abandonPend s (.hub d k)).modDie d (fun y => { y with stop := y.stop &&& ~~~(1#4 <<< k) })).modCtx (.hub d k) (fun c =>
    { c with run := .running, pc := c.htvec &&& ~~~7#64, stall := .none, ticks := 0, hstat := false, met := [] })

/-- Whether the host reaches the BARs and the configuration space: the part is on and its firmware is loaded; in recovery only the DOE mailbox
answers (R362). -/
def barsAnswer (s : State) : Bool := s.power == .bringup || s.power == .ready

/-- The effect of a command's OP and ARG, or a rejection. -/
def command (s : State) (d op arg : Nat) : Option State :=
  match op with
  | 1 => if d = 0 then some (refresh s arg) else none
  | 2 => if d = 0 then some (qrefresh s) else none
  | 3 => some (release s d arg)
  | 4 => some (restart s d (arg % 4))
  | 5 => if d = 0 then some { s with budget := arg } else none
  | _ => none

/-- A write of MGBASE: die 0's set holds it, the others ignore it (R353). -/
def mgbaseWrite (s : State) (d : Nat) (v : Word) : State := if d = 0 then { s with mgbase := v &&& ~~~0xFFF#64 } else s

/-- A write of MSTAT clears the W1C bits that it names (R353). -/
def mstatWrite (s : State) (d : Nat) (v : Word) : State :=
  s.modDie d (fun y => { y with err := y.err && !v.getLsbD 1, dblf := y.dblf &&& ~~~(BitVec.ofNat 4 (bitsOf v.toNat 15 12)) })

/-- A write of MCMD: a command while none is in progress; another write sets ERR (R353). -/
def mcmdWrite (s : State) (d : Nat) (v : Word) : State :=
  if (s.die d).busy then setErr s d
  else
    match command s d (bitsOf v.toNat 7 0) (bitsOf v.toNat 63 32) with
    | none => setErr s d
    | some s1 => s1.modDie d (fun y => { y with busy := true })

/-- The physical function writes MCMD of a die. -/
def hostCommand (d op : Nat) (arg : BitVec 32) (s : State) : Host.Outcome State Fault Refusal :=
  .next (if barsAnswer s ∧ d < Config.dies then mcmdWrite s d (BitVec.ofNat 64 (op % 256 + arg.toNat * 2 ^ 32)) else s)

/-- REFRESH (R352, R353). -/
def execMcmdRefresh (die : Nat) (arg : BitVec 32) (s : State) : Host.Outcome State Fault Refusal := hostCommand die 1 arg s
/-- QREFRESH (R352, R353). -/
def execMcmdQrefresh (die : Nat) (arg : BitVec 32) (s : State) : Host.Outcome State Fault Refusal := hostCommand die 2 arg s
/-- RELEASE (R344, R353). -/
def execMcmdRelease (die : Nat) (arg : BitVec 32) (s : State) : Host.Outcome State Fault Refusal := hostCommand die 3 arg s
/-- RESTART (R353). -/
def execMcmdRestart (die : Nat) (arg : BitVec 32) (s : State) : Host.Outcome State Fault Refusal := hostCommand die 4 arg s
/-- The drain budget (R334, R353). -/
def execMcmdDrainBudget (die : Nat) (arg : BitVec 32) (s : State) : Host.Outcome State Fault Refusal := hostCommand die 5 arg s
/-- An OP that names no command sets ERR (R353). -/
def execMcmdInvalid (die : Nat) (op : BitVec 8) (arg : BitVec 32) (s : State) : Host.Outcome State Fault Refusal :=
  hostCommand die op.toNat arg s

/-- A command in progress ends (R353). -/
def execMgmtCommandComplete (die : Nat) (s : State) : Host.Outcome State Fault Refusal :=
  .next (if die < Config.dies then s.modDie die (fun y => { y with busy := false }) else s)

/-- HDOOR.RING after a write by the physical function (R354). -/
def ringHost (d : Nat) (old new : BitVec 4) : BitVec 4 := if d = 0 then (old &&& 8) ||| (new &&& 7) else new

/-- HDOOR.RING after a KWR by hub core `n` (R354). -/
def ringHub (n : Nat) (old new : BitVec 4) : BitVec 4 := ((old ||| new) &&& ~~~(1#4 <<< n)) ||| (new &&& (1#4 <<< n))

/-- The physical function writes HDOOR of a die (R354). -/
def execHdoorWrite (die : Nat) (ring : BitVec 4) (s : State) : Host.Outcome State Fault Refusal :=
  .next (if barsAnswer s ∧ die < Config.dies then s.modDie die (fun y => { y with hdoor := ringHost die y.hdoor ring }) else s)

/-! ## The DOE mailbox (R383, R384) -/

/-- The location of a DIE-window address of the device on a die: its offset in the window. -/
def devLoc (d : Nat) (a : Word) : Nat := dbLoc d 0 (a.toNat % 2 ^ 29)

/-- Whether `n` bytes at a DIE-window address lie in the slices of a die. -/
def devHolds (a : Word) (n : Nat) : Bool := decide (a.toNat % 2 ^ 29 + n ≤ 0x1E000000)

/-- Read bytes at a DIE-window address; those beyond the slices read as zero. -/
def devRead (s : State) (d : Nat) (a : Word) (n : Nat) : List Byte :=
  if devHolds a n then mread s.mem (devLoc d a) n else List.replicate n 0

/-- Write bytes at a DIE-window address; those beyond the slices are discarded. -/
def devWrite (s : State) (d : Nat) (a : Word) (bs : List Byte) : State :=
  if devHolds a bs.length then writeLoc s (devLoc d a) bs else s

/-- A request arrives in the mailbox; one longer than 2,048 bytes is answered with an error (R383). -/
def execDoeRequestArrive (bytes : List Byte) (s : State) : Host.Outcome State Fault Refusal :=
  .next (if s.power = .off then s
  else if 2048 < bytes.length then { s with doe := { s.doe with errs := s.doe.errs + 1 } }
  else { s with doe := { s.doe with queue := s.doe.queue ++ [bytes] } })

/-- The next request is presented: its bytes at DOEBUF.BASE, REQ, and the doorbell of the security hub core (R383). -/
def execDoeRequestPresent (s : State) : Host.Outcome State Fault Refusal :=
  .next (match s.doe.queue with
    | [] => s
    | bs :: l =>
      if s.doe.present ∨ s.power = .off then s
      else
        { (devWrite s 0 s.doe.base bs).modDie 0 (fun y => { y with hdoor := y.hdoor ||| 8 }) with
          doe := { s.doe with queue := l, present := true, reqLen := bs.length } })

/-- A write of DOESTAT: RSP with a length from 16 to 2,048 sends the response once the earlier stores of the core are performed (R384). -/
def doestatWrite (v : Word) (s : State) (u : Agent) : Res :=
  let n := bitsOf v.toNat 43 32
  if !v.getLsbD 63 ∨ n < 16 ∨ 2048 < n then .ok s
  else if s.pend.any (fun p => p.agent == u && accWrites p.kind) then .wait s
  else .ok { s with doe := { s.doe with present := false, out := s.doe.out ++ [devRead s 0 (s.doe.base + 0x800) n] } }

/-! ## Interface commands (R385, R386) -/

/-- The end of a command: RES and LEN, and bytes at BASE + 0x810. -/
def tdiEnd (s : State) (res : Nat) (bs : List Byte) : State :=
  let s := if bs.isEmpty then s else devWrite s 0 (s.doe.base + 0x810) bs
  { s with doe := { s.doe with res := res, len := bs.length } }

/-- Byte `i` of the request. -/
def reqBytes (s : State) (i n : Nat) : List Byte := devRead s 0 (s.doe.base + BitVec.ofNat 64 i) n

/-- Whether a task or a queued record of a function's queues is present (R386). -/
def vfHasWork (s : State) (f : Nat) : Bool :=
  vfBusy s f || (funcQueues s f).any (fun i => !(s.queue (i / 64) (i % 64)).recs.isEmpty)

/-- LOCK (R356, R386): the START nonce is a free value. -/
def tdiLock (s : State) (f : Nat) : State :=
  let x := s.vf f
  let k := leNat (reqBytes s 18 1)
  if x.st ≠ .unlocked then tdiEnd s 3 []
  else if !(s.ide.any (· == (k, f))) ∨ leNat (reqBytes s 20 16) ≠ 0 then tdiEnd s 1 []
  else if vfHasWork s f then tdiEnd s 2 []
  else
    let s1 := s.fresh.2
    tdiEnd (s1.setVf f { x with st := .locked, nonce := s.fresh.1, stream := k }) 0 (leBytes 32 s.fresh.1.toNat)

/-- The size of a VF's BAR0 and BAR2 (R349). -/
def vfBar0Size : Nat := 2 ^ 18
/-- 64 GiB. -/
def vfBar2Size : Nat := 2 ^ 36

/-- An MMIO range of the report: first page, pages, attributes with RANGE_ID in the upper half. -/
def reportRange (base pages id : Nat) : List Byte := leBytes 8 (base / 4096) ++ leBytes 4 pages ++ leBytes 4 (id * 2 ^ 16)

/-- The device part of the interface report (R358, R386). -/
def reportPart (s : State) (f : Nat) : List Byte :=
  let o := (funcOwner s f).getD 0
  let w := s.owner o
  let qs := funcQueues s f
  leBytes 2 o ++ [BitVec.ofNat 8 qs.length] ++ (qs.map (BitVec.ofNat 8) ++ List.replicate (65 - qs.length) 0) ++
  sha256 (leBytes 32 w.raw.toNat ++ leBytes 640 w.grant.toNat)

/-- The interface report: 152 bytes (R358, R386; the standard's fields are PRESUMED, log entry 47). -/
def report (s : State) (f : Nat) : List Byte :=
  let b0 := (tget s.sriov 0x24 0).toNat + (f - 1) * vfBar0Size
  let b2 := (tget s.sriov 0x2C 0).toNat + (f - 1) * vfBar2Size
  let part := reportPart s f
  leBytes 2 2 ++ leBytes 2 0 ++ leBytes 2 0 ++ leBytes 2 0 ++ leBytes 4 0 ++ leBytes 4 2 ++
  reportRange b0 (funcQueues s f).length 0 ++ reportRange b2 (vfBar2Size / 4096) 2 ++ leBytes 4 part.length ++ part

/-- REPORT (R386). -/
def tdiReport (s : State) (f : Nat) : State :=
  if !vfLocked (s.vf f) then tdiEnd s 3 []
  else
    let r := report s f
    let o := leNat (reqBytes s 16 2)
    let n := min (min (leNat (reqBytes s 18 2)) 2028) (r.length - o)
    tdiEnd s 0 (leBytes 2 n ++ leBytes 2 (r.length - o - n) ++ (r.drop o).take n)

/-- START (R356, R386). -/
def tdiStart (s : State) (f : Nat) : State :=
  let x := s.vf f
  if x.st ≠ .locked then tdiEnd s 3 []
  else if leNat (reqBytes s 16 32) ≠ x.nonce.toNat then tdiEnd s 4 []
  else tdiEnd (s.setVf f { x with st := .run }) 0 []

/-- STOP (R356, R357, R386): it retires when the last task of the interface has left. -/
def tdiStop (s : State) (u : Agent) (f : Nat) : Res :=
  let s1 := killTasks (dropRecords (s.setVf f { s.vf f with stopping := true }) f) f
  if vfBusy s1 f then .wait (s1.stallOn u (.tdiStop f)) else .ok (stopDone s1 f)

/-- A write of TDICTL: FUNC is selected and CMD is performed (R385, R386). Commands on one interface take effect one at a time. -/
def tdictlWrite (v : Word) (s0 : State) (u : Agent) : Res :=
  let f := bitsOf v.toNat 40 32
  let cmd := bitsOf v.toNat 2 0
  let s := { s0 with doe := { s0.doe with func := f } }
  if cmd = 0 then .ok s
  else if f = 0 ∨ 256 < f then .ok (tdiEnd s 3 [])
  else if (s.vf f).stopping then .wait s0
  else
    match cmd with
    | 1 => .ok (tdiLock s f)
    | 2 => .ok (tdiReport s f)
    | 3 => .ok (tdiEnd s 0 [BitVec.ofNat 8 (tdiCode (s.vf f).st)])
    | 4 => .ok (tdiStart s f)
    | 5 => tdiStop s u f
    | _ => .ok (tdiEnd s 6 [])

end Sys2Proof.Machine
end

