-- ==== Sys2Proof/Machine/Attach.lean ====
section
/-! DEFINITION. What the host does at the PCIe attachment: posting windows and commits (R323, R350), BAR2 (R351), configuration writes
(R356), stream failures (R359), SPDM (R360, R361), and host accesses that do not complete (R355). -/

namespace Sys2Proof.Machine

/-! ## Queue pages (R323, R350) -/

/-- The queue of the k-th queue page of a function, as (die, queue) (R350). -/
def pageQueue (s : State) (f k : Nat) : Option (Nat × Nat) :=
  if k < 64 then ((funcQueues s f)[k]?).map (fun i => (i / 64, i % 64)) else none

/-- QSTAT of a queue (R350). -/
def qstat (x : Queue) : Nat := x.cpldrop.toNat * 2 ^ 48 + x.drop.toNat * 2 ^ 16 + (64 - (x.recs.length + x.saved.length))

/-- Bytes written into a posting window: those beyond its 256 bytes are ignored. -/
def windowWrite (x : Queue) (off : Nat) (bs : List Byte) : Queue :=
  { x with window := (List.range bs.length).foldl (fun w i =>
      if off + i < 256 then tset w (off + i) ((bs[i]?).getD 0) else w) x.window }

/-- The record in a posting window. -/
def windowRecord (x : Queue) : BitVec 2048 := BitVec.ofNat 2048 (leNat ((List.range 256).map (fun i => tget x.window i 0)))

/-- Whether a write covers bytes 248 to 255 of a page, which commits the record (R323). -/
def commits (off n : Nat) : Bool := decide (off ≤ 248) && decide (256 ≤ off + n)

/-- Whether the host's writes to a function's BARs are taken: the part answers, and the interface is not in ERROR (R357, R362). -/
def barOpen (s : State) (f : Nat) : Bool := barsAnswer s && !(decide (1 ≤ f) && vfDead (s.vf f))

/-- A write to a posting window that commits nothing (R323). -/
def execHostPostingWrite (func page off : Nat) (bytes : List Byte) (s : State) : Host.Outcome State Fault Refusal :=
  .next (match pageQueue s func page with
    | none => s
    | some (d, q) => if barOpen s func && !commits off bytes.length then s.setQueue d q (windowWrite (s.queue d q) off bytes) else s)

/-- DROP of a queue rises by 1, saturating (R350). -/
def dropCommit (x : Queue) : Queue := { x with drop := if x.drop = 0xFFFFFFFF then x.drop else x.drop + 1 }

/-- A queue after a commit of its window: the record is queued; it is discarded before bring-up is complete, and discarded and counted
when the queue is full, or its interface is locked and not in RUN, or its function frozen (R323, R344, R356, R363). -/
def commitQueue (ready locked : Bool) (x : Queue) : Queue :=
  if !ready then x
  else if locked || decide (64 ≤ x.recs.length + x.saved.length) then dropCommit x
  else { x with recs := x.recs ++ [windowRecord x] }

/-- A write that covers bytes 248 to 255 of a posting window commits the record as it stands (R323). -/
def execLaunchCommit (func page off : Nat) (bytes : List Byte) (s : State) : Host.Outcome State Fault Refusal :=
  .next (match pageQueue s func page with
    | none => s
    | some (d, q) =>
      if barOpen s func && commits off bytes.length then
        let locked := decide (1 ≤ func) && ((s.vf func).st == .locked || (s.vf func).frozen)
        s.setQueue d q (commitQueue (s.die d).rdy locked (windowWrite (s.queue d q) off bytes))
      else s)

/-- A host write of a register of the PF's management set (R349, R353): MGBASE, taken from die 0's set, and the W1C bits of MSTAT. MCMD
and HDOOR have steps of their own; every other offset ignores writes. -/
def pfWrite (s : State) (d off : Nat) (v : Word) : State :=
  if !barsAnswer s || decide (Config.dies ≤ d) then s
  else if off = 0 then mgbaseWrite s d v
  else if off = 0x10 then mstatWrite s d v
  else s

/-- A write to a VF's BAR0 range outside its queue pages: a locked interface goes to ERROR with cause 3 (R356). -/
def execHostBarWriteOutside (func off : Nat) (s : State) : Host.Outcome State Fault Refusal :=
  .next (if barsAnswer s ∧ off < vfBar0Size ∧ pageQueue s func (off / 4096) = none then tdiError s func 3 else s)

/-! ## BAR2 (R351) -/

/-- Answer a host read. -/
def answer (s : State) (bs : List Byte) : State := { s with hostOut := s.hostOut ++ [bs] }

/-- An access that completes with Unsupported Request: a read or an AtomicOp answers no byte, a write is discarded. -/
def unsupported (s : State) : HostAccess → State
  | .read _ => answer s []
  | .write _ => s
  | .atomic _ => answer s []

/-- An access that crosses a function's grant freezes the function (R344, R351). -/
def freezeFunc (s : State) (f : Nat) : State :=
  logFreeze (s.setVf f { s.vf f with frozen := true }) 0 ⟨5, f, 0, 2, false, .hub 0 0, none, 0⟩

/-- A BAR2 access as an access of the owner; none while its page is held. The device completes no AtomicOp that comes to it: one is
answered with Unsupported Request (R349). -/
def bar2Owner (s : State) (f o : Nat) (off : Word) (acc : HostAccess) : State :=
  match acc with
  | .read n =>
    (match readGen s (ownerReq 0 o) off n with
    | (s1, .ok bs) => answer s1 bs
    | (s1, .fault x) => unsupported (if x.cls = clsIsol then freezeFunc s1 f else s1) acc
    | (s1, .later) => s.waiting s1)
  | .write bs =>
    (match writeGen s (ownerReq 0 o) off bs with
    | (s1, .ok _) => s1
    | (s1, .fault x) => if x.cls = clsIsol then freezeFunc s1 f else s1
    | (s1, .later) => s.waiting s1)
  | .atomic _ => unsupported s acc

/-- A host access through BAR2 (R351, R357). -/
def execHostBar2Access (func : Nat) (off : Word) (acc : HostAccess) (s : State) : Host.Outcome State Fault Refusal :=
  .next (if !barsAnswer s ∨ 256 < func ∨ vfBar2Size ≤ off.toNat then s
  else if 1 ≤ func ∧ vfDead (s.vf func) = true then
    (match acc with
    | .read n => answer s (List.replicate n 0xFF)
    | .write _ => s
    | .atomic _ => unsupported s acc)
  else if 1 ≤ func ∧ ((s.vf func).frozen ∨ (s.vf func).st = .locked) then unsupported s acc
  else
    match funcOwner s func with
    | none => unsupported s acc
    | some o => bar2Owner s func o off acc)

/-! ## BAR0 (R349, R350, R353) -/

/-- A byte of an 8-byte register at an offset. -/
def regByte (v off : Nat) : Byte := BitVec.ofNat 8 (v / 2 ^ (8 * (off % 8)))

/-- A management register of a die's set as the physical function reads it: MGBASE, MSTAT and HDOOR; MCMD is write-only (R353). -/
def mgmtValue (s : State) (d idx : Nat) : Nat :=
  match idx with
  | 0 => s.mgbase.toNat
  | 2 => mstat (s.die d)
  | 3 => (s.die d).hdoor.toNat
  | _ => 0

/-- A byte of the k-th queue page of a function: QSTAT at offset 0x100, else zero (R350). -/
def pageByte (s : State) (f k o : Nat) : Byte :=
  match pageQueue s f k with
  | some (d, q) => if o / 8 = 0x20 then regByte (qstat (s.queue d q)) o else 0
  | none => 0

/-- A byte of a function's BAR0 as the host reads it: the queue pages, and below them the physical function's management registers (R349, R350,
R353). -/
def bar0Byte (s : State) (f off : Nat) : Byte :=
  if f = 0 then
    (if 0x10000 ≤ off then pageByte s 0 ((off - 0x10000) / 4096) (off % 4096)
    else if off / 0x2000 < Config.dies then regByte (mgmtValue s (off / 0x2000) (off % 0x2000 / 8)) off
    else 0)
  else pageByte s f (off / 4096) (off % 4096)

/-- The size of a function's BAR0 (R349). -/
def bar0Size (f : Nat) : Nat := if f = 0 then 2 ^ 20 else vfBar0Size

/-- A host access to BAR0: a read answers; an AtomicOp completes with Unsupported Request; the writes that do anything have steps of their own
(R349, R350, R353, R357). -/
def bar0Access (s : State) (f off : Nat) (acc : HostAccess) : State :=
  if 256 < f ∨ bar0Size f ≤ off then s
  else
    match acc with
    | .read n => answer s (if 1 ≤ f ∧ vfDead (s.vf f) = true then List.replicate n 0xFF else (List.range n).map (fun i => bar0Byte s f (off + i)))
    | .write _ => s
    | .atomic _ => unsupported s acc

/-! ## Configuration space and streams (R356, R359) -/

/-- Frames that system software hands to the pool of a tier of a die: those of this package that lie there, are populated and are not in it
(R45; the interface is DESIGN CHOICE, log entry 34). -/
def handFrames (s : State) (d : Nat) (lpd : Bool) (fs : List Nat) : State :=
  let key := d * 2 + (if lpd then 1 else 0)
  let old := tget s.pools key []
  let new := fs.filter (fun f =>
    let pa := f * 65536
    locPkg pa == s.pkg.toNat && locDie pa == d && locLpd pa == lpd && !pa.testBit 52 && inCapacity pa 65536)
  { s with pools := tset s.pools key (new.foldl (fun l f => if l.any (· == f) then l else l ++ [f]) old) }

/-- A host configuration write: a register of the physical function's SR-IOV capability is in every locked interface's frozen set, a
register of a function's header in its own (R356); a management register of the PF takes its write (R353); free frames reach their pool (R45); an access to BAR0 is answered (R349, R350). In
recovery nothing but the DOE mailbox answers (R362). -/
def execHostConfigWrite (reg : ConfigReg) (value : Word) (s : State) : Host.Outcome State Fault Refusal :=
  .next (if !barsAnswer s then s else match reg with
    | .freeFrames d lpd fs => if d < Config.dies then handFrames s d lpd fs else s
    | .sriov r => (List.range 257).foldl (fun s f => tdiError s f 1) { s with sriov := tset s.sriov r value }
    | .header f r => tdiError { s with vfcfg := tset s.vfcfg (f * 4096 + r % 4096) value } f 1
    | .management d off => pfWrite s d off value
    | .bar0 f off acc => bar0Access s f off acc)

/-- A selective IDE stream fails integrity: its interface goes to ERROR with cause 4 (R356, R359). -/
def execIdeStreamFailure (stream : Nat) (s : State) : Host.Outcome State Fault Refusal :=
  .next ((s.ide.filter (fun e => e.1 == stream)).foldl (fun s e => tdiError s e.2 4) s)

/-! ## SPDM (R360, R361) -/

/-- The measured items of Table: Measurements, indices 1 to 5 in order: boot ROM, hub-core firmware, security hub firmware, fused configuration
(orientation registers, latency table, key hashes), defect-map version and enabled tiles of each die (R360). -/
def measurements (s : State) : List (List Byte) :=
  let ds := List.range Config.dies
  [Config.bootRom, Config.fwImage 1, Config.fwImage 0,
    ds.flatMap (fun d => [BitVec.ofNat 8 (Config.rot d)] ++ leBytes 8 (Config.cwmap d).toNat ++ leBytes 8 (Config.portmap d).toNat ++
      leBytes 8 (Config.chmap d).toNat) ++
      ds.flatMap (fun a => ds.map (Config.latency a)) ++ (List.range 5).flatMap Config.keyHash,
    ds.flatMap (fun d => leBytes 8 (s.die d).dmver.toNat ++ leBytes 1 (enabledTiles s d))]

/-- What the SPDM responder reports: versions 1.2 and 1.3, BaseAsymAlgo RSASSA-PSS 3072 and BaseHashAlgo SHA-256 (their codes PRESUMED, log entry
119), the chain of certificate slot 0, and the measurements, each by its SHA-256 digest (R360). -/
def spdmFacts (s : State) : List (List Byte) :=
  [[0x12, 0x13], leBytes 4 8, leBytes 4 1, Config.identityChain] ++ (measurements s).map sha256

/-- The security hub answers an SPDM request; an exchange of IDE_KM may key a selective stream (R359, R360). -/
def execSpdmRequest (bytes : List Byte) (s : State) : Host.Outcome State Fault Refusal :=
  .next (if s.power = .off then s
  else
    { s with
      free := s.free + 1
      doe := { s.doe with out := s.doe.out ++ [Config.spdmResponse s.free (spdmFacts s) bytes] }
      ide := match Config.ideKeyed bytes with
        | some e => if e.1 < 64 ∧ 1 ≤ e.2 ∧ e.2 ≤ 256 then s.ide.filter (fun x => x.1 != e.1) ++ [e] else s.ide
        | none => s.ide })

/-- What SNAPSHOT reports: an owner's counters, the ticks of the dies, the nonce (R361). -/
def snapshotBytes (s : State) (o : Nat) (nonce : Word) : List Byte :=
  let x := s.toll o
  leBytes 8 x.tt ++ leBytes 8 x.hbm ++ leBytes 8 x.lpd ++ leBytes 8 x.uj ++
  (List.range Config.dies).flatMap (fun d => leBytes 8 (s.die d).tick.toNat) ++ leBytes 8 nonce.toNat

/-- SNAPSHOT: the report, signed with the identity key (R361). -/
def execSpdmSnapshot (owner : Nat) (nonce : Word) (s : State) : Host.Outcome State Fault Refusal :=
  let bs := snapshotBytes s owner nonce
  .next (if s.power = .off then s else { s with doe := { s.doe with out := s.doe.out ++ [bs ++ Config.identitySign bs] } })

/-- The message that a RESET's signature covers: owner, nonce, digest of the current SNAPSHOT (R361). -/
def resetMessage (s : State) (o : Nat) (nonce : Word) : List Byte :=
  leBytes 2 o ++ leBytes 8 nonce.toNat ++ sha256 (snapshotBytes s o nonce)

/-- Whether a RESET's signature, followed by its modulus, verifies against the operator key (R361). -/
def resetObeyed (s : State) (o : Nat) (nonce : Word) (sig : List Byte) : Bool :=
  sha256 (sig.drop 384) == Config.keyHash 4 && Config.rsaVerify (sig.take 384) (resetMessage s o nonce) (sig.drop 384)

/-- RESET zeroes an owner's counters; one that fails changes nothing (R361). -/
def execSpdmReset (owner : Nat) (nonce : Word) (sig : List Byte) (s : State) : Host.Outcome State Fault Refusal :=
  .next (if s.power ≠ .off ∧ resetObeyed s owner nonce sig = true then
    s.setToll owner { s.toll owner with tt := 0, hbm := 0, lpd := 0, uj := 0 } else s)

end Sys2Proof.Machine
end

