-- ==== Sys2Proof/Machine/Paging.lean ====
section
/-! DEFINITION. Shootdown (R43, R44), the access counters (R46) and page migration (R45, R47). -/

namespace Sys2Proof.Machine

/-! ## Shootdown (R43, R44) -/

/-- The units of some dies that acknowledge a shootdown: the cluster buffers 0 to 35 and the die buffer 36 of each, with its walkers. -/
def shootUnits (ds : List Nat) : List (Nat × Nat) := ds.flatMap (fun d => (List.range 37).map (fun k => (d, k)))

/-- A unit of a die drops the translations that satisfy a test. -/
def dropHeld (s : State) (d k : Nat) (hit : TlbEntry → Bool) : State :=
  s.modDie d (fun y =>
    if k < 36 then { y with ctlb := tset y.ctlb k ((tget y.ctlb k []).filter (fun e => !hit e)) }
    else { y with dtlb := y.dtlb.filter (fun e => !hit e) })

/-- Whether a page that an access touches meets a test of held translations. -/
def touches (p : Pending) (hit : TlbEntry → Bool) : Bool :=
  (splitPages (p.len / 65536 + 2) p.addr p.len).any (fun x => hit ⟨p.owner, 0, bitsOf x.1.toNat 47 0 / 2 ^ 16, 0⟩)

/-- Whether a unit still waits for an access that used a removed entry and that its home has not performed (R44). A migration's own
shootdown does not wait for the accesses that it holds: they are returned afterwards (R47). -/
def unitWaits (s : State) (d k : Nat) (forHeld : Bool) (hit : TlbEntry → Bool) : Bool :=
  s.pend.any (fun p => (forHeld || !isHeld s p) && !p.answered && !p.parts.isEmpty && p.agent.die == d && !p.agent.isHub &&
    (k == 36 || clusterOf p.agent.tile == k) && touches p hit)

/-- The translations that a migration's shootdown removes (R47 step 4). -/
def migHits (m : Migration) : TlbEntry → Bool := shootHits 0 m.owner m.size m.va

/-- The translations that a hub core's shootdown removes. -/
def Shoot.hits (x : Shoot) : TlbEntry → Bool := shootHits x.kind x.owner x.size x.va

/-- A unit acknowledges one shootdown. -/
def ackShoot (d k : Nat) (s : State) (n : Nat) : State :=
  match (s.die n).shoot with
  | none => s
  | some x =>
    if x.left.any (· == (d, k)) then
      let s := dropHeld s d k x.hits
      if unitWaits s d k true x.hits then s
      else
        let left := x.left.filter (· != (d, k))
        if left.isEmpty then
          let s := s.modDie n (fun y => { y with shoot := none })
          let u := Agent.hub n x.core
          if (s.ctx u).stall = .xinv then s.endStall u else s
        else s.modDie n (fun y => { y with shoot := some { x with left := left } })
    else s

/-- A unit acknowledges the shootdown of one migration. -/
def ackMigration (d k : Nat) (s : State) (i : Nat) : State :=
  match s.migs[i]? with
  | none => s
  | some m =>
    if m.left.any (· == (d, k)) then
      let s := dropHeld s d k (migHits m)
      if unitWaits s d k false (migHits m) then s
      else { s with migs := s.migs.set i { m with left := m.left.filter (· != (d, k)) } }
    else s

/-- A translation unit drops what the shootdowns in progress name, and acknowledges each of which every access that used a removed
entry is performed; the last acknowledgement retires the KWR (R44). -/
def execShootdownAck (die unit : Nat) (s : State) : Host.Outcome State Fault Refusal :=
  let s1 := (List.range Config.dies).foldl (ackShoot die unit) s
  .next ((List.range s1.migs.length).foldl (ackMigration die unit) s1)

/-- A hub core starts a shootdown and stalls (R43, R44); a die performs its shootdowns one at a time. -/
def shootStart (v : Word) (s : State) (u : Agent) : Res :=
  let n := v.toNat
  let kind := bitsOf n 1 0
  let scope := bitsOf n 3 2
  let size := bitsOf n 5 4
  if kind = 3 ∨ 2 ≤ scope ∨ size = 3 then .fault s (flt clsIllegal 3)
  else if (s.die u.die).shoot.isSome then .wait s
  else
    let ds := if scope = 0 then [u.die] else List.range Config.dies
    .wait ((s.modDie u.die (fun y => { y with
      shoot := some ⟨u.slot, kind, bitsOf n 40 32, size, (s.ctx u).xinvVa, shootUnits ds⟩ })).stallOn u .xinv)

/-! ## Access counters (R46) -/

/-- Every 2,000,000 ticks the access counters of a home are halved (R46). -/
def execAccessCounterHalving (die : Nat) (s : State) : Host.Outcome State Fault Refusal :=
  if 2000000 ≤ (s.die die).halveTicks then
    .next ({ s with access := s.access.map (fun (e : Nat × Nat) => if locDie (e.1 / 4096 * 65536) = die then (e.1, e.2 / 2) else e) }.modDie die
      (fun y => { y with halveTicks := 0 }))
  else .next s

/-! ## Migration (R45, R47) -/

/-- The pool of free frames of a tier of a die: 64 KiB frames by number (R45). -/
def poolKey (pa : Nat) : Nat := locDie pa * 2 + (if locLpd pa then 1 else 0)

/-- The 64 KiB frames of a page. -/
def frameNums (pa n : Nat) : List Nat := (List.range (n / 65536)).map (fun i => pa / 65536 + i)

/-- Take a page's frames from their pool. -/
def takeFrames (s : State) (pa n : Nat) : State :=
  { s with pools := tset s.pools (poolKey pa) ((tget s.pools (poolKey pa) []).filter (fun f => !(frameNums pa n).any (· == f))) }

/-- Give a page's frames to their pool. -/
def giveFrames (s : State) (pa n : Nat) : State :=
  { s with pools := tset s.pools (poolKey pa) (tget s.pools (poolKey pa) [] ++ frameNums pa n) }

/-- Whether a table of a translation tree lies in some bytes. -/
def tableIn (s : State) (lo n : Nat) : Nat → Nat → Bool
  | 0, tab => decide (lo < tab + 4096) && decide (tab < lo + n)
  | k + 1, tab =>
    (decide (lo < tab + 4096) && decide (tab < lo + n)) ||
    (List.range 512).any (fun i =>
      let e := mnat s.mem (tab + 8 * i) 8
      e.testBit 0 && !e.testBit 1 && tableIn s lo n k (bitsOf e 52 12 * 4096))

/-- Whether a page holds a page-table frame of some owner (R45). -/
def holdsTable (s : State) (pa n : Nat) : Bool := s.owners.any (fun o => o.2.v && tableIn s pa n 3 (o.2.troot.toNat / 4096 * 4096))

/-- The accesses of a die to the frames of a page, by the counters (R46). -/
def pageCount (s : State) (pa n d : Nat) : Nat := ((frameNums pa n).map (fun f => tget s.access (accessKey (f * 65536) s.pkg.toNat d) 0)).foldl (· + ·) 0

/-- Whether a die has the most accesses to a page (R45). -/
def mostAccesses (s : State) (pa n d : Nat) : Bool := (List.range Config.dies).all (fun e => decide (pageCount s pa n e ≤ pageCount s pa n d))

/-- Whether a placement policy lets a page of `n` bytes move to a frame: under AUTO to the other tier, or to the die with the most
accesses, never to a third die (R45). -/
def policyAllows (s : State) (policy : BitVec 2) (old new n : Nat) : Bool :=
  match policy with
  | 0 => (locDie new == locDie old || mostAccesses s old n (locDie new)) && (locDie new != locDie old || locLpd new != locLpd old)
  | 1 => locLpd old && !locLpd new
  | 2 => !locLpd old && locLpd new
  | _ => false

/-- Whether the placement engine may move a page to a frame (R45). -/
def mayMigrate (s : State) (o : Nat) (l : Leaf) (old new n : Nat) : Bool :=
  decide (l.size < 2) && !l.e.getLsbD 10 && !old.testBit 52 && !new.testBit 52 && locPkg old == s.pkg.toNat && locPkg new == s.pkg.toNat &&
  new % n == 0 && policyAllows s (s.owner o).policy old new n && (frameNums new n).all (fun f => (tget s.pools (poolKey new) []).any (· == f)) &&
  !holdsTable s old n && !s.locks.any (fun k => decide (k.1 < old + n) && decide (old < k.1 + k.2))

/-- The placement engine reads a leaf, locks its frame and starts to copy it to a frame of a pool; an access that has not been performed
there is held (R45, R47 step 1). -/
def execMigrationStart (owner : Nat) (va : Word) (frame : Nat) (s : State) : Host.Outcome State Fault Refusal :=
  match walkOwner s 0 owner va with
  | .ok l =>
    let n := 2 ^ pageBits l.size
    let old := leafPa l va / n * n
    if mayMigrate s owner l old frame n then
      let s := takeFrames s frame n
      .next { s with
        locks := s.locks ++ [(old, n)]
        migs := s.migs ++ [⟨owner, va, l.at_, l.e, l.size, old, frame, locDie old, .copying, 0, []⟩] }
    else .next s
  | _ => .next s

/-- A page's bytes and poison in another frame. -/
def copyFrame (s : State) (old new n : Nat) : State :=
  let m := mclear s.mem new (new + n)
  { s with
    mem := (s.mem.filter (fun c => decide (old ≤ c.1) && decide (c.1 < old + n))).foldl (fun m c => mset m (new + (c.1 - old)) c.2) m
    poison := s.poison.filter (fun w => !(decide (new ≤ w) && decide (w < new + n))) ++
      (s.poison.filter (fun w => decide (old ≤ w) && decide (w < old + n))).map (fun w => new + (w - old)) }

/-- A leaf entry with another frame. -/
def leafMoved (e : Word) (pa : Nat) : Word :=
  BitVec.ofNat 64 (bitsOf e.toNat 63 53 * 2 ^ 53 + bitsOf pa 52 16 * 2 ^ 16 + bitsOf e.toNat 15 0)

/-- The page is copied and the leaf entry compared and swapped; then the shootdown at PACKAGE scope (R47 steps 2 to 4). -/
def execMigrationCas (i : Nat) (s : State) : Host.Outcome State Fault Refusal :=
  match s.migs[i]? with
  | none => .next s
  | some m =>
    match m.step with
    | .shooting _ => .next s
    | .copying =>
      if 40000 ≤ m.ticks then .next s
      else
      let ok := mnat s.mem m.leafAt 8 == m.leaf.toNat
      let s1 := copyFrame s m.old m.new (2 ^ pageBits m.size)
      let s2 := if ok then writeLoc s1 m.leafAt (leBytes 8 (leafMoved m.leaf m.new).toNat) else s1
      .next { s2 with migs := s2.migs.set i { m with step := .shooting ok, left := shootUnits (List.range Config.dies) } }

/-- The lock of a migration goes, and the migration with it. -/
def endMigration (s : State) (i : Nat) (m : Migration) : State :=
  { s with migs := s.migs.eraseIdx i, locks := s.locks.filter (fun k => k != (m.old, 2 ^ pageBits m.size)) }

/-- Whether some bytes meet the frame of a migration. -/
def inOld (m : Migration) (loc n : Nat) : Bool := decide (m.old < loc + n) && decide (loc < m.old + 2 ^ pageBits m.size)

/-- Whether a waiting access is held by a migration's lock. -/
def heldBy (m : Migration) (p : Pending) : Bool := !p.answered && p.parts.any (fun x => inOld m x.1 x.2)

/-- Whether a request of another package is held by a migration's lock. -/
def reqHeldBy (m : Migration) (r : RemoteReq) : Bool := inOld m r.pa (remoteLen r.kind).1

/-- The held accesses go back to their requesters: those of this package translate again, in their order (a probe with its step), and those of other
packages are answered so (R47 step 5). -/
def returnHeld (m : Migration) (s : State) : State :=
  let out := (s.homeHeld.filter (fun e => reqHeldBy m e.2)).map (fun e => (⟨e.2.pkg, e.2.requester, e.2.seq, .returned⟩ : RemoteRec))
  { s with
    pend := (s.pend.filter (fun p => !(isProbe p && heldBy m p))).map (fun p => if heldBy m p then { p with parts := [] } else p)
    homeHeld := s.homeHeld.filter (fun e => !reqHeldBy m e.2)
    homeOut := s.homeOut ++ out }

/-- After the shootdown the frame unlocks and the held accesses are returned to translate again; on success the old frame goes to its
pool, else the new one (R47 step 5). -/
def execMigrationUnlock (i : Nat) (s : State) : Host.Outcome State Fault Refusal :=
  match s.migs[i]? with
  | none => .next s
  | some m =>
    match m.step with
    | .copying => .next s
    | .shooting ok =>
      if !m.left.isEmpty then .next s
      else .next (giveFrames (returnHeld m (endMigration s i m)) (if ok then m.old else m.new) (2 ^ pageBits m.size))

/-- A number in its place in a rising list. -/
def insertNat (n : Nat) : List Nat → List Nat
  | [] => [n]
  | m :: ms => if n ≤ m then n :: m :: ms else m :: insertNat n ms

/-- The places in the order of arrival of the accesses that a migration holds, rising. -/
def heldOrder (m : Migration) (s : State) : List Nat :=
  ((s.pend.filter (heldBy m)).map (·.arr) ++ (s.homeHeld.filter (fun e => reqHeldBy m e.2)).map (·.1)).foldl (fun l n => insertNat n l) []

/-- The access or request at a place in the order of arrival is performed. -/
def performArrival (s : State) (n : Nat) : State :=
  match s.homeHeld.find? (fun e => e.1 == n) with
  | some e => if locked s e.2.pa (remoteLen e.2.kind).1 then s else remoteServe { s with homeHeld := s.homeHeld.filter (fun e => e.1 != n) } e.2
  | none =>
    match s.pend.findIdx? (fun p => p.arr == n) with
    | some i => performPend s i
    | none => s

/-- 40,000 ticks pass before the compare and swap: the frame unlocks, the held accesses are performed at the old home in the order in
which they arrived, and the new frame goes back to its pool (R47). -/
def execMigrationAbortTimeout (i : Nat) (s : State) : Host.Outcome State Fault Refusal :=
  match s.migs[i]? with
  | none => .next s
  | some m =>
    if m.step = .copying ∧ 40000 ≤ m.ticks then
      let s1 := giveFrames (endMigration s i m) m.new (2 ^ pageBits m.size)
      .next ((heldOrder m s1).foldl performArrival s1)
    else .next s

end Sys2Proof.Machine
end

