-- ==== Sys2Proof/Machine/Port.lean ====
section
/-! DEFINITION. The configuration ports of the tiles and their mailboxes (R378, R379), and the verify service of the security hub core
(R381). -/

namespace Sys2Proof.Machine

/-- The location of a byte of a tile's mailbox, in slice 239 of its die (R377). -/
def boxLoc (d t o : Nat) : Nat := dbLoc d 239 (0x1000 + 128 * t + o)

/-- A field of a mailbox. -/
def boxField (s : State) (d t o n : Nat) : Nat := mnat s.mem (boxLoc d t o) n

/-- SRC of a mailbox, bytes 8 to 15 (R378). -/
def boxSrc (s : State) (d t : Nat) : Word := BitVec.ofNat 64 (boxField s d t 8 8)

/-- SLOT of a command word (R378). -/
def cmdSlot (w : Word) : Nat := bitsOf w.toNat 9 8
/-- QMASK of a command word. -/
def cmdMask (w : Word) : BitVec 4 := BitVec.ofNat 4 (bitsOf w.toNat 15 12)
/-- IIM1 of a command word. -/
def cmdIi (w : Word) : Nat := bitsOf w.toNat 20 16

/-- The region of a tile whose quads are a mask, within a task that is not halted (R379). -/
def portTarget (s : State) (d t : Nat) (m : BitVec 4) : Option RegionId :=
  match (s.holder d t).bind s.task with
  | none => none
  | some k =>
    if k.halt.isSome then none
    else
      ((List.range 4).map (fun i => (⟨d, t, i⟩ : RegionId))).find? (fun r =>
        match s.region r with
        | none => false
        | some x => quadMask t x == some m)

/-- The record of a rejection (R379). -/
def portRecord (s : State) (d t : Nat) (w : Word) (tgt : Option RegionId) (cls det : Nat) : StopRec :=
  let own := match tgt with
    | none => 0
    | some r => (s.ctx r.strand).ltile * 2 ^ 24 + d * 2 ^ 32 + (s.holder d t).getD 0 % 65536 * 2 ^ 40
  BitVec.ofNat 512 (cls + det * 2 ^ 8 + 2 ^ 16 + 2 ^ 18 + 2 * 2 ^ 20 + own + bitsOf w.toNat 39 32 * 2 ^ 56 +
    (boxSrc s d t).toNat * 2 ^ 128 + (s.die d).tick.toNat * 2 ^ 192)

/-- A command's outcome: RESULT, CLASS, DETAIL. -/
def portEnd (s : State) (d t : Nat) (r : Nat × Nat × Nat) : State :=
  s.modTile d t (fun x => { x with cfg := { x.cfg with result := some r } })

/-- Reject a command: its record is written, then the outcome is known (R379). -/
def portReject (s : State) (d t : Nat) (w : Word) (tgt : Option RegionId) (cls det : Nat) : State :=
  portEnd (putBytes s (boxLoc d t 64) (leBytes 64 (portRecord s d t w tgt cls det).toNat)) d t (0x80, cls, det)

/-- The command that a port performs next: one in progress whose outcome is not known. -/
def portCommand (s : State) (d t : Nat) : Option Word :=
  let c := (s.tile d t).cfg
  if d < Config.dies ∧ t < Config.tilesPerDie ∧ c.result.isNone = true then c.cmd else none

/-- Whether a command word is not one of the three commands, or sets a reserved bit (R379). -/
def cmdBad (w : Word) : Bool :=
  decide (3 < bitsOf w.toNat 7 0) || bitsOf w.toNat 11 10 != 0 || bitsOf w.toNat 31 21 != 0

/-- Whether a command is rejected for its form: its word, or a reserved bit of the rest of its mailbox (R378, R379). -/
def boxBad (s : State) (d t : Nat) (w : Word) : Bool :=
  cmdBad w || boxField s d t 24 8 != 0 || boxField s d t 35 1 != 0 || boxField s d t 40 24 != 0

/-- Perform a port's command if it is the one that a row names. -/
def portRun (d t : Nat) (mine : Word → Bool) (f : State → Word → State) (s : State) : Host.Outcome State Fault Refusal :=
  .next (match portCommand s d t with
    | none => s
    | some w => if mine w then f s w else s)

/-- Set the staging of a tile. -/
def setStaging (s : State) (d t : Nat) (g : Option Staging) : State :=
  s.modTile d t (fun x => { x with cfg := { x.cfg with staging := g } })

/-- STAGE (R379). -/
def portStageWords (s : State) (d t : Nat) (w : Word) : State :=
  let m := cmdMask w
  let tgt := portTarget s d t m
  let n := boxField s d t 16 4
  let crc := boxField s d t 20 4
  if tileFailed s d t ∨ tgt.isNone = true then portReject s d t w none clsMap 3
  else if n ≠ (maskQuads m).length * 64 * (cmdIi w + 1) then portReject s d t w tgt clsIllegal 0x17
  else
    let bs := devRead s d (boxSrc s d t) (16 * n)
    if (crc32c bs).toNat ≠ crc then portReject s d t w tgt clsMap 4
    else
      portEnd (setStaging s d t (some ⟨cmdSlot w, m, cmdIi w + 1, (elemsOf 16 bs).map (BitVec.ofNat 128)⟩)) d t (2, 0, 0)

/-- COMMIT (R379): the install slot is filled with the staged words, as a BLOAD of an image entry fills it; the map cache and MAPINFO stay. A BLOAD
into the slot that reached the sequencer first takes effect first (R380). The target is that of the staging's quads; a command with no staging
names its own (DESIGN CHOICE, log entry 52). -/
def portCommitWords (s : State) (d t : Nat) (w : Word) : State :=
  match (s.tile d t).cfg.staging with
  | none => portReject s d t w (portTarget s d t (cmdMask w)) clsMap 3
  | some g =>
    match portTarget s d t g.quads with
    | none => portReject s d t w none clsMap 3
    | some r =>
      match s.region r with
      | none => portReject s d t w none clsMap 3
      | some x =>
        if x.mapping.any (fun m => m.slot == g.slot) then s
        else if slotHeld x g.slot then portReject s d t w (some r) clsIllegal 0x38
        else
          let img : MapImage := ⟨g.ii, false, 0, sortWords (imageWords x g.ii (g.words.flatMap (fun v => leBytes 16 v.toNat)))⟩
          let s1 := s.modRegion r (fun x => { x with slots := tset x.slots g.slot ⟨{ ii := g.ii, img := true }, img, boxSrc s d t⟩ })
          portEnd (setStaging s1 d t none) d t (3, 0, 0)

/-- A STAGE command of a configuration port (R379). -/
def execCfgStage (die tile : Nat) (s : State) : Host.Outcome State Fault Refusal :=
  portRun die tile (fun w => !boxBad s die tile w && bitsOf w.toNat 7 0 == 1) (fun s w => portStageWords s die tile w) s

/-- A COMMIT command of a configuration port (R379). -/
def execCfgCommit (die tile : Nat) (s : State) : Host.Outcome State Fault Refusal :=
  portRun die tile (fun w => !boxBad s die tile w && bitsOf w.toNat 7 0 == 2) (fun s w => portCommitWords s die tile w) s

/-- A DISCARD command of a configuration port (R379). -/
def execCfgDiscard (die tile : Nat) (s : State) : Host.Outcome State Fault Refusal :=
  portRun die tile (fun w => !boxBad s die tile w && bitsOf w.toNat 7 0 == 3) (fun s _ => portEnd (setStaging s die tile none) die tile (4, 0, 0)) s

/-- A command above 0x03, or with a reserved bit set, is rejected with ILLEGAL detail 0x03 (R379). -/
def execCfgInvalid (die tile : Nat) (s : State) : Host.Outcome State Fault Refusal :=
  portRun die tile (boxBad s die tile) (fun s w => portReject s die tile w (portTarget s die tile (cmdMask w)) clsIllegal 3) s

/-- A command of a port is done: its status is one 8-byte write, with the command's SEQ (R379). -/
def execConfigPortCommandDone (die tile : Nat) (s : State) : Host.Outcome State Fault Refusal :=
  let c := (s.tile die tile).cfg
  .next (match c.cmd, c.result with
    | some w, some (r, cls, det) =>
      writeLoc (s.modTile die tile (fun x => { x with cfg := { x.cfg with cmd := none, result := none } })) (boxLoc die tile 32)
        (leBytes 8 (r + cls * 2 ^ 8 + det * 2 ^ 16 + bitsOf w.toNat 63 32 * 2 ^ 32))
    | _, _ => s)

/-! ## The verify service (R381) -/

/-- A dword of the verify request, at offset 0 of slice 239 of die 0. -/
def verifyDword (s : State) (k : Nat) : Nat := mnat s.mem (dbLoc 0 239 (8 * k)) 8

/-- Whether a verify request is pending: its CMD is nonzero, and its status does not yet answer its SEQ. -/
def verifyPending (s : State) : Bool :=
  let r := verifyDword s 0
  let t := verifyDword s 4
  bitsOf r 7 0 != 0 && !(bitsOf t 7 0 != 0 && bitsOf t 63 32 == bitsOf r 63 32)

/-- Answer the verify request: RESULT, CLASS, DETAIL and its SEQ. -/
def verifyAnswer (s : State) (r cls det : Nat) : State :=
  writeLoc s (dbLoc 0 239 32) (leBytes 8 (r + cls * 2 ^ 8 + det * 2 ^ 16 + bitsOf (verifyDword s 0) 63 32 * 2 ^ 32))

/-- Verify the signature that a request names, by accesses of the security hub core (R381). -/
def verifyImage (s : State) (keysel : Nat) : State :=
  let u := Agent.hub 0 3
  match readGen s (s.req u) (BitVec.ofNat 64 (verifyDword s 1)) (verifyDword s 2) with
  | (s1, .fault f) => takeFault s1 u f
  | (s1, .later) => s.waiting s1
  | (s1, .ok msg) =>
    match readGen s1 (s1.req u) (BitVec.ofNat 64 (verifyDword s 3)) 768 with
    | (s2, .fault f) => takeFault s2 u f
    | (s2, .later) => s.waiting s2
    | (s2, .ok t) =>
      if sha256 (t.drop 384) = Config.keyHash keysel ∧ Config.rsaVerify (t.take 384) msg (t.drop 384) = true then verifyAnswer s2 2 0 0
      else verifyAnswer s2 0x80 clsMap 5

/-- Serve the verify request, if one is pending (R381). -/
def serveVerify (s : State) : State :=
  let r := verifyDword s 0
  if !verifyPending s then s
  else if bitsOf r 7 0 ≠ 1 ∨ 3 < bitsOf r 15 8 then verifyAnswer s 0x80 clsIllegal 3
  else verifyImage s (bitsOf r 15 8)

/-- ERROR_CODE of a TDISP error response, by the responder's index: the RES of the command, 5 no such function, 6 a request that it does not serve, 7
another version (the table of the responder's program, before R387). -/
def tdispError (i : Nat) : Nat := ([0, 0x104, 0x104, 4, 0x102, 0x101, 7, 0x41][i]?).getD 0

/-- The responder answers a presented request: the request's first dwords with the response code, and the length; `err` is the index of an error. -/
def respond (s : State) (u : Agent) (err len : Nat) : State :=
  let hd := reqBytes s 0 16
  let s1 := if err = 0 then s else devWrite s 0 (s.doe.base + 0x810) (leBytes 8 (tdispError err))
  let code : Byte := if err = 0 then ((hd[1]?).getD 0) - 0x80 else 0x7F
  let s2 := devWrite s1 0 (s.doe.base + 0x800) (hd.set 1 code)
  let n := if err = 0 then len + 16 else 24
  match doestatWrite (BitVec.ofNat 64 (2 ^ 63 + n * 2 ^ 32)) s2 u with
  | .ok s3 => s3
  | _ => s

/-- The doorbell of the security hub core stays set: its wake is not over. -/
def ringHub3 (s : State) : State := s.modDie 0 (fun y => { y with hdoor := y.hdoor ||| 8 })

/-- The responder's loop serves a presented request: version, request code and function are checked, the command is performed, and the response is
sent; a command that waits is answered in a later wake (R383-R386, the responder's program). -/
def serveDoe (s : State) (u : Agent) : State :=
  let hd := leNat (reqBytes s 0 8)
  let f := bitsOf hd 63 32
  let k := bitsOf hd 15 8
  if !s.doe.present then s
  else if s.pend.any (fun p => p.agent == u && accWrites p.kind) then ringHub3 s
  else if bitsOf hd 7 0 ≠ 0x10 then respond s u 7 0
  else if k < 0x83 ∨ 0x87 < k then respond s u 6 0
  else if f < 1 ∨ 256 < f then respond s u 5 0
  else
    match tdictlWrite (BitVec.ofNat 64 (f * 2 ^ 32 + (k - 0x82))) s u with
    | .ok s1 => respond s1 u s1.doe.res s1.doe.len
    | .wait s1 => ringHub3 ({ s1 with doe := s.doe }.setCtx u (s.ctx u))
    | _ => s

/-- A wake of the security hub's service loop, which a ring of its doorbell brings: it clears the bit, serves the verify request, then a presented
request; while a read of the verify request waits for its home, the wake is not over (R354, R381; log entry 50). -/
def execVerify (s : State) : Host.Outcome State Fault Refusal :=
  let u := Agent.hub 0 3
  let c := s.ctx u
  .next (if c.run = .running ∧ !c.frozen ∧ (s.die 0).hdoor.getLsbD 3 = true then
    let s1 := serveVerify (s.modDie 0 (fun y => { y with hdoor := y.hdoor &&& 7 }))
    if probing s1 u then s.waiting s1 else if s1.ctx u = c then serveDoe s1 u else s1
  else s)

end Sys2Proof.Machine
end

