-- ==== Sys2Proof/Machine/Power.lean ====
section
/-! DEFINITION. Bring-up (R362, R363), self-test and repair (R348), and uncorrectable errors (R304, R305, R339). -/

namespace Sys2Proof.Machine

/-! ## Self-test (R348) -/

/-- Whether failing elements, as (row, column) pairs, lie in one column. -/
def oneColumn (l : List (Nat × Nat)) : Bool := allAgree (·.2) l

/-- A die after the test of a tile: failing elements in one column are remapped to an unused spare column; others fail the tile. -/
def testedDie (y : Die) (t : Nat) (fails : List (Nat × Nat)) : Die :=
  match fails with
  | [] => y
  | x :: _ =>
    if oneColumn fails && (tfind y.spare t).isNone then { y with spare := tset y.spare t x.2 }
    else { y with failed := if y.failed.any (· == t) then y.failed else y.failed ++ [t] }

/-- The reset test of a die (R348). -/
def resetTests (d : Nat) (y : Die) : Die := (List.range Config.tilesPerDie).foldl (fun y t => testedDie y t (Config.resetTest d t)) y

/-- An idle sweep: every 100,000,000 ticks a die tests one tile that is neither held nor lent (R348). -/
def execIdleSweep (die tile : Nat) (s : State) : Host.Outcome State Fault Refusal :=
  let x := s.tile die tile
  .next (if die < Config.dies ∧ tile < Config.tilesPerDie ∧ 100000000 ≤ (s.die die).sweepTicks ∧ x.holder = none ∧ x.lent = none ∧
      !x.testing ∧ !tileFailed s die tile then
    (s.modDie die (fun y => { y with sweepTicks := 0 })).modTile die tile (fun x => { x with testing := true })
  else s)

/-- Every staging of a die is discarded: its defect map has changed (R380). -/
def dropStagings (s : State) (d : Nat) : State :=
  (List.range Config.tilesPerDie).foldl (fun s t =>
    if (s.tile d t).cfg.staging.isSome then s.modTile d t (fun x => { x with cfg := { x.cfg with staging := none } }) else s) s

/-- The test of a tile ends. A change of the defect map raises DMVER and invalidates the map cache (R348). -/
def execSelfTestResult (die tile : Nat) (fails : FailMap) (s : State) : Host.Outcome State Fault Refusal :=
  .next (if (s.tile die tile).testing then
    let s1 := s.modTile die tile (fun x => { x with testing := false, suspect := false })
    if fails.isEmpty then s1
    else (dropStagings s1 die).modDie die (fun y => { testedDie y tile fails with dmver := y.dmver + 1, cache := [] })
  else s)

/-! ## Bring-up (R362, R363) -/

/-- Whether the boot ROM loads a firmware image: its signature over its SHA-256 digest and version verifies under a key whose hash is the fused
vendor key hash, and the version is at least the fused rollback counter (R362). -/
def fwLoads (i : Nat) : Bool :=
  let sig := Config.fwSignature i
  sha256 sig.2 == Config.keyHash 0 &&
  Config.rsaVerify sig.1 (sha256 (Config.fwImage i) ++ leBytes 4 (Config.fwVersion i)) sig.2 && decide (Config.rollback ≤ Config.fwVersion i)

/-- A hub core starts from its reset PC. -/
def startHub (s : State) (d k : Nat) : State := s.modCtx (.hub d k) (fun c => { c with run := .running, pc := 0, apDie := 1 })

/-- Power-on: the boot ROM verifies the security hub firmware and starts it, on hub core 3 of the die at position 0; an image that fails leaves the
module in recovery. The mileposts and tick counts of the dies begin from here, each at its own time (R303, R310, R362, R363). -/
def execPowerOn (s : State) : Host.Outcome State Fault Refusal :=
  .next (if s.power = .off then
    let s1 := (List.range Config.dies).foldl (fun s d => s.modDie d (fun y => { y with rawLag := Config.rawLag d, tickLag := Config.tickLag d })) s
    if fwLoads 0 then startHub { s1 with power := .bringup } 0 3 else { s1 with power := .recovery }
  else s)

/-- Start the hub cores of a die; the security hub core runs already. -/
def startHubs (s : State) (d : Nat) : State :=
  (List.range Config.hubsPerDie).foldl (fun s k => if d = 0 ∧ k = 3 then s else startHub s d k) s

/-- Self-test has run, the hub cores start, and RDY is set; hub-core firmware that fails its check leaves the module in recovery (R362, R363). -/
def execBringupComplete (s : State) : Host.Outcome State Fault Refusal :=
  .next (if s.power = .bringup then
    let s1 := (List.range Config.dies).foldl (fun s d => s.modDie d (resetTests d)) s
    if fwLoads 1 then
      (List.range Config.dies).foldl (fun s d => startHubs (s.modDie d (fun y => { y with rdy := true })) d) { s1 with power := .ready }
    else { s1 with power := .recovery }
  else s)

/-! ## Uncorrectable errors -/

/-- The tile of a location in a tile buffer, as (die, tile). -/
def bufTile (loc : Nat) : Nat × Nat := ((loc - 2 ^ 56) / 2 ^ 20 / 144, (loc - 2 ^ 56) / 2 ^ 20 % 144)

/-- Whether the storage that an error strikes is on the fast rail, whose trim it concerns: main memory is on no island, and gear-0 storage
is not trimmed (R304). -/
def siteTrimmed (s : State) : ErrSite → Bool
  | .word loc => if loc < 2 ^ 56 then false else if loc < 2 ^ 57 then (s.tile (bufTile loc).1 (bufTile loc).2).rail else true
  | .element r _ _ => (s.tile r.die r.tile).rail
  | .noShadow d t => (s.tile d t).rail
  | .corrected x => siteTrimmed s x

/-- Whether an error strikes the storage of an island: a tile's or a cluster's is its cluster's. The spec places each die-buffer slice with one of
the die's clusters and does not say which (R73). -/
def siteIn (d c : Nat) : ErrSite → Bool
  | .word loc =>
    if loc < 2 ^ 56 then true
    else if loc < 2 ^ 57 then (bufTile loc).1 == d && clusterOf (bufTile loc).2 == c
    else if loc < 2 ^ 58 then (loc - 2 ^ 57) / 2 ^ 22 == clusterKey d c
    else (loc - 2 ^ 58) / 2 ^ 21 / 240 == d
  | .element r _ _ => r.die == d && clusterOf r.tile == c
  | .noShadow e t => e == d && clusterOf t == c
  | .corrected x => siteIn d c x

/-- Whether the power controller counts the correctable errors of a site: those of buffers and of element storage (R304). -/
def siteCounted : ErrSite → Bool
  | .word loc => decide (2 ^ 56 ≤ loc)
  | .element .. => true
  | .noShadow .. | .corrected _ => false

/-- An uncorrectable error in state that has no shadow: HARDWARE for the first of the tile's strands that runs; the tile is tested at its
release (R339, R348). -/
def shadowless (s : State) (d t : Nat) : State :=
  let s := s.modTile d t (fun x => { x with suspect := x.holder.isSome })
  match ((List.range 4).map (Agent.strand d t)).find? (fun u => (s.ctx u).run == .running && !(s.ctx u).stopped && (s.ctx u).fault.isNone) with
  | some u => takeFault s u (flt clsEcc 2)
  | none => s

/-- What an uncorrectable error does where it strikes: a word is poisoned (R74); an element's run meets poison, and its state is rebuilt from the
shadow (R305). -/
def strike (s : State) : ErrSite → State
  | .word loc =>
    let w := loc / 8 * 8
    let l := s.trimPoison.filter (· != w)
    { s with
      poison := if s.poison.any (· == w) then s.poison else s.poison ++ [w]
      trimPoison := if siteTrimmed s (.word loc) then l ++ [w] else l }
  | .element r row col =>
    if s.halted r.strand || (((s.region r).bind (·.run)).bind (·.fault)).isSome then s
    else runFault s r { flt clsEcc 1 with info0 := 1, trim := siteTrimmed s (.element r row col) }
  | .noShadow d t => shadowless s d t
  | .corrected _ => s

/-- A storage error of an island. A correctable one is corrected, and counted where R304 counts it; an uncorrectable one of a trimmed island sets
its trim back and freezes it, and strikes (R74, R304, R305, R339). -/
def execUncorrectableError (die cluster : Nat) (site : ErrSite) (s : State) : Host.Outcome State Fault Refusal :=
  .next (if die < Config.dies ∧ cluster < Config.clustersPerDie ∧ siteIn die cluster site = true then
    match site with
    | .corrected x => if siteTrimmed s x && siteCounted x then s.setTrim die cluster (s.trim die cluster).correct else s
    | _ => strike (if siteTrimmed s site then s.setTrim die cluster (trimOnError (s.trim die cluster)) else s) site
  else s)

end Sys2Proof.Machine
end

