-- ==== Sys2Proof/Machine/Regs.lean ====
section
/-! DEFINITION. KWR (R272): what a write of each control register does. The rows that name one effect of a KWR are that KWR, when the
value written selects the effect. -/

namespace Sys2Proof.Machine

/-! ## Registers of the strand and its tile -/

/-- The base of a window with its EN bit kept; a base that is not canonical leaves the register (R77). -/
def windowBaseWrite (old v : Word) (bits : Nat) : Word :=
  let b := BitVec.ofNat 64 (v.toNat / 2 ^ bits * 2 ^ bits)
  if canonical b then b ||| (old &&& 1) else old

/-- A write of an APBASE register (R77). -/
def apbaseSet (c : Ctx) (space : Nat) (v : Word) : Ctx :=
  match space with
  | 0 => { c with apTile := windowBaseWrite c.apTile v 20 }
  | 1 => { c with apClus := windowBaseWrite c.apClus v 22 }
  | _ => { c with apDie := windowBaseWrite c.apDie v 29 }

/-- STOP of SCHSTAT: a slot in RUN or WAITTOK stops (R103). -/
def schStop (x : SchSlot) (v : Word) : SchSlot :=
  match x.st with
  | .run | .waittok => if v.getLsbD 34 then { x with st := .stopped } else x
  | .idle | .stopped | .done => x

/-- A write of a region's register; a strand that controls no region writes nothing (R273). -/
def writeRegion (s : State) (u : Agent) (f : Region → Region) : State :=
  match ownRegion s u with
  | none => s
  | some r => s.modRegion r f

/-- Writes below index 0x100. -/
def kwrStrand (i : Nat) (v : Word) (s : State) (u : Agent) : State :=
  let n := v.toNat
  if 0x010 ≤ i ∧ i ≤ 0x012 then s.modCtx u (fun c => apbaseSet c (i - 0x010) v)
  else if 0x028 ≤ i ∧ i ≤ 0x02F then s.modCtx u (fun c => c.putSch (i - 0x028) (schStop (c.getSch (i - 0x028)) v))
  else if i = 0x040 then s.modTile u.die u.tile (fun x => { x with itbase := v &&& ~~~6#64 })
  else if i = 0x041 then s.modTile u.die u.tile (fun x => { x with itcur := v.truncate 32 })
  else if i = 0x0A0 then writeRegion s u (fun x => { x with numflg := x.numflg &&& ~~~(v.truncate 5) })
  else if i = 0x0A1 then writeRegion s u (fun x => { x with zwords := BitVec.ofNat 32 (bitsOf n 63 32), rovf := v.truncate 32 })
  else if i = 0x0A2 then writeRegion s u (fun x => { x with seed := v.truncate 32 })
  else if 0x0C0 ≤ i ∧ i ≤ 0x0CF then s.setTrk u.die u.tile (i - 0x0C0) ((s.trk u.die u.tile (i - 0x0C0)).writeCfg v)
  else if 0x0D0 ≤ i ∧ i ≤ 0x0DF then s.setTrk u.die u.tile (i - 0x0D0) ((s.trk u.die u.tile (i - 0x0D0)).writeStat v)
  else s

/-! ## Registers of the power controller and the links -/

/-- Writes at indices 0x100 to 0x2FF: GEARCTL.MOVED, CETGT, SWPORT.CLR and SWRT (R291, R306, R319, R320). -/
def kwrDie (i : Nat) (v : Word) (s : State) (u : Agent) : State :=
  let d := u.die
  if i = 0x100 then s.modTile d u.tile (fun x => { x with moved := x.moved && !v.getLsbD 27 })
  else if 0x180 ≤ i ∧ i ≤ 0x1A3 then s.setTrim d (i - 0x180) { s.trim d (i - 0x180) with cetgt := BitVec.ofNat 8 (bitsOf v.toNat 47 40) }
  else if 0x240 ≤ i ∧ i ≤ 0x248 then
    (if v.getLsbD 7 then setSwPort s d (i - 0x240) { swPort s d (i - 0x240) with retry := 0, crcerr := 0 } else s)
  else if i = 0x250 then s.modDie d (fun y => { y with swrt := v &&& ~~~15#64 })
  else s

/-! ## Registers of the handlers, the partitions and the host -/

/-- Writes at indices from 0x300 that complete at once. -/
def kwrSystem (i : Nat) (v : Word) (s : State) (u : Agent) : State :=
  let d := u.die
  if i = 0x300 then s.modCtx u (fun c => { c with htvec := v &&& ~~~7#64 })
  else if i = 0x301 then s.modCtx u (fun c => { c with hepc := v })
  else if i = 0x310 then s.modCtx u (fun c => { c with xinvVa := v })
  else if i = 0x500 then s.modDie d (fun y => { y with lanehub := v.truncate 4 })
  else if i = 0x600 then mgbaseWrite s d v
  else if i = 0x602 then mstatWrite s d v
  else if i = 0x603 then s.modDie d (fun y => { y with hdoor := ringHub u.slot y.hdoor (v.truncate 4) })
  else if i = 0x610 then { s with doe := { s.doe with base := v &&& ~~~0xFFF#64 } }
  else s

/-- PCTL (R343): 01 RESUME, 10 KILL; other codes do nothing. -/
def pctlWrite (v : Word) (s : State) (u : Agent) : Res :=
  let n := bitsOf v.toNat 31 16
  match bitsOf v.toNat 1 0 with
  | 1 => pctlResume n s u
  | 2 => pctlKill n s u
  | _ => .ok s

/-- A hub core's write of MCMD; a core that restarts itself goes on at its HTVEC (R353). -/
def mcmdOn (v : Word) (s : State) (u : Agent) : Res :=
  let s1 := mcmdWrite s u.die v
  if (s.die u.die).busy = false ∧ bitsOf v.toNat 7 0 = 4 ∧ bitsOf v.toNat 63 32 % 4 = u.slot then .taken s1 (s1.ctx u).pc
  else .ok s1

/-- The effect of a KWR of a value (R272). -/
def kwrOn (i : Nat) (v : Word) (s : State) (u : Agent) : Res :=
  if i < 0x100 then .ok (kwrStrand i v s u)
  else if i < 0x300 then .ok (kwrDie i v s u)
  else if i = 0x311 then shootStart v s u
  else if i = 0x501 then pctlWrite v s u
  else if i = 0x601 then mcmdOn v s u
  else if i = 0x611 then doestatWrite v s u
  else if i = 0x612 then tdictlWrite v s u
  else .ok (kwrSystem i v s u)

/-- KWR (R272). -/
def execKwr (g : Guard) (idx : BitVec 12) (a : SReg) (s : State) : Host.Outcome State Fault Refusal :=
  runStrand g s (fun s u => kwrOn idx.toNat (s.getS u a) s u)

/-! ## The rows that name an effect of a KWR -/

/-- A KWR row: the current unit issues that KWR if its value selects the row's effect and the register is one that it may write. -/
def kwrRow (g : Guard) (i : Nat) (a : SReg) (sel : Word → Bool) (s : State) : Host.Outcome State Fault Refusal :=
  match s.issuer with
  | none => .next s
  | some u =>
    if sel (s.getS u a) && (match kregPriv i with
      | some .hub => u.isHub
      | some .tile => !u.isHub
      | some .any => true
      | none => false) then .next (issueAs g s u (kwrOn i (s.getS u a)))
    else .next s

/-- A write of an APBASE register (R77). -/
def execApbaseWrite (g : Guard) (space : BitVec 2) (a : SReg) (s : State) : Host.Outcome State Fault Refusal :=
  kwrRow g (0x010 + space.toNat) a (fun _ => true) s
/-- A write of TRKCFG (R68). -/
def execTrkcfgWrite (g : Guard) (n : BitVec 4) (a : SReg) (s : State) : Host.Outcome State Fault Refusal :=
  kwrRow g (0x0C0 + n.toNat) a (fun _ => true) s
/-- A write of TRKSTAT with STEP = 1 closes the current step (R68, R69). -/
def execTrkstatStep (g : Guard) (n : BitVec 4) (a : SReg) (s : State) : Host.Outcome State Fault Refusal :=
  kwrRow g (0x0D0 + n.toNat) a (fun v => v.getLsbD 62) s
/-- A write of TRKSTAT with CLR = 1 resynchronises the tracker (R68, R70). -/
def execTrkstatClr (g : Guard) (n : BitVec 4) (a : SReg) (s : State) : Host.Outcome State Fault Refusal :=
  kwrRow g (0x0D0 + n.toNat) a (fun v => v.getLsbD 61) s
/-- A write of SCHSTAT with STOP = 1 (R103). -/
def execSchstatStop (g : Guard) (slot : BitVec 3) (a : SReg) (s : State) : Host.Outcome State Fault Refusal :=
  kwrRow g (0x028 + slot.toNat) a (fun v => v.getLsbD 34) s
/-- XINV_CMD with KIND 00: one page of an owner (R43, R44). -/
def execXinvOnePage (g : Guard) (a : SReg) (s : State) : Host.Outcome State Fault Refusal :=
  kwrRow g 0x311 a (fun v => bitsOf v.toNat 1 0 == 0) s
/-- XINV_CMD with KIND 01: every entry of an owner (R43, R44). -/
def execXinvOwner (g : Guard) (a : SReg) (s : State) : Host.Outcome State Fault Refusal :=
  kwrRow g 0x311 a (fun v => bitsOf v.toNat 1 0 == 1) s
/-- XINV_CMD with KIND 10: every entry of every owner (R43, R44). -/
def execXinvAll (g : Guard) (a : SReg) (s : State) : Host.Outcome State Fault Refusal :=
  kwrRow g 0x311 a (fun v => bitsOf v.toNat 1 0 == 2) s
/-- A write of SWPORT with CLR = 1 (R319). -/
def execSwportClr (g : Guard) (port : BitVec 4) (a : SReg) (s : State) : Host.Outcome State Fault Refusal :=
  kwrRow g (0x240 + port.toNat) a (fun v => v.getLsbD 7) s
/-- PCTL RESUME (R343). -/
def execPctlResume (g : Guard) (a : SReg) (s : State) : Host.Outcome State Fault Refusal :=
  kwrRow g 0x501 a (fun v => bitsOf v.toNat 1 0 == 1) s
/-- PCTL KILL (R343). -/
def execPctlKill (g : Guard) (a : SReg) (s : State) : Host.Outcome State Fault Refusal :=
  kwrRow g 0x501 a (fun v => bitsOf v.toNat 1 0 == 2) s
/-- A write of DOESTAT with RSP = 1 (R384). -/
def execDoestatRsp (g : Guard) (a : SReg) (s : State) : Host.Outcome State Fault Refusal :=
  kwrRow g 0x611 a (fun v => v.getLsbD 63) s

/-- A row of TDICTL: the command codes that select it. -/
def tdiRow (g : Guard) (a : SReg) (cmd : Nat → Bool) (s : State) : Host.Outcome State Fault Refusal :=
  kwrRow g 0x612 a (fun v => cmd (bitsOf v.toNat 2 0)) s
/-- TDICTL with CMD 000 selects a function (R386). -/
def execTdictlSelect (g : Guard) (a : SReg) (s : State) : Host.Outcome State Fault Refusal := tdiRow g a (· == 0) s
/-- TDICTL LOCK (R386). -/
def execTdictlLock (g : Guard) (a : SReg) (s : State) : Host.Outcome State Fault Refusal := tdiRow g a (· == 1) s
/-- TDICTL REPORT (R386). -/
def execTdictlReport (g : Guard) (a : SReg) (s : State) : Host.Outcome State Fault Refusal := tdiRow g a (· == 2) s
/-- TDICTL STATE (R386). -/
def execTdictlState (g : Guard) (a : SReg) (s : State) : Host.Outcome State Fault Refusal := tdiRow g a (· == 3) s
/-- TDICTL START (R386). -/
def execTdictlStart (g : Guard) (a : SReg) (s : State) : Host.Outcome State Fault Refusal := tdiRow g a (· == 4) s
/-- TDICTL STOP (R357, R386). -/
def execTdictlStop (g : Guard) (a : SReg) (s : State) : Host.Outcome State Fault Refusal := tdiRow g a (· == 5) s
/-- TDICTL with CMD 110 or 111 gives RES 6 (R386). -/
def execTdictlReserved (g : Guard) (a : SReg) (s : State) : Host.Outcome State Fault Refusal := tdiRow g a (fun c => decide (6 ≤ c)) s

end Sys2Proof.Machine
end

