-- ==== Sys2Proof/Machine/Scalar.lean ====
section
/-! DEFINITION. The meanings of the integer, bit-field, constant and predicate instructions (R24, R252-R258). -/

namespace Sys2Proof.Machine

/-- A natural quotient and remainder, or a signed pair truncated toward zero; they never fault (R253). -/
def divRem (sgn : Bool) (a b : Word) : Word × Word :=
  if sgn then
    (if b = 0 then (BitVec.allOnes 64, a)
    else (wrapWord (a.toInt.tdiv b.toInt), wrapWord (a.toInt - a.toInt.tdiv b.toInt * b.toInt)))
  else
    (if b = 0 then (BitVec.allOnes 64, a)
    else (BitVec.ofNat 64 (a.toNat / b.toNat), BitVec.ofNat 64 (a.toNat % b.toNat)))

/-- Bits [127:64] of the product (R252). -/
def mulHigh (sgn : Bool) (a b : Word) : Word :=
  if sgn then wrapWord ((a.toInt * b.toInt) / 2 ^ 64) else BitVec.ofNat 64 (a.toNat * b.toNat / 2 ^ 64)

/-- The number of leading zero bits among the low `n` bits of a number. -/
def leadZeros (v : Nat) : Nat → Nat
  | 0 => 0
  | n + 1 => if v.testBit n then 0 else leadZeros v n + 1

/-- The number of trailing zero bits of the `n` bits of a number from bit `k` up. -/
def trailZeros (v : Nat) : Nat → Nat → Nat
  | 0, _ => 0
  | n + 1, k => if v.testBit k then 0 else trailZeros v n (k + 1) + 1

/-- The number of 1 bits among the low `n` bits. -/
def popCount (v : Nat) : Nat → Nat
  | 0 => 0
  | n + 1 => popCount v n + (if v.testBit n then 1 else 0)

/-- Shift by the whole of the count: 64 or more gives 0 (R252). -/
def shiftLeft (a b : Word) : Word := if b.toNat < 64 then a <<< b.toNat else 0
/-- Logical shift right by the whole of the count (R252). -/
def shiftRight (a b : Word) : Word := if b.toNat < 64 then a >>> b.toNat else 0
/-- Arithmetic shift right with the sign fill (R252). -/
def shiftArith (a b : Word) : Word :=
  if b.toNat < 64 then a.sshiftRight b.toNat else if a.msb then BitVec.allOnes 64 else 0

/-- The smaller or the larger of two words, signed or natural (R252). -/
def minWord (sgn : Bool) (a b : Word) : Word := if (if sgn then a.slt b else a.ult b) then a else b
/-- The larger (R252). -/
def maxWord (sgn : Bool) (a b : Word) : Word := if (if sgn then a.slt b else a.ult b) then b else a

/-- Bits [pos+len-1:pos] of a word, sign-extended from `len` bits when asked (R254). -/
def extractField (sgn : Bool) (a : Word) (pos len : Nat) : Word :=
  if sgn then wrapWord (sextNat (a.toNat >>> pos) len) else BitVec.ofNat 64 ((a.toNat >>> pos) % 2 ^ len)

/-- A word with bits [pos+len-1:pos] replaced by the low `len` bits of another (R254). -/
def insertField (w a : Word) (pos len : Nat) : Word :=
  let m := BitVec.ofNat 64 ((2 ^ len - 1) * 2 ^ pos)
  (w &&& ~~~m) ||| ((a <<< pos) &&& m)

/-- An integer instruction of two sources: s[D] := f a b (R252). -/
def binop (g : Guard) (d a : SReg) (b : Src) (f : Word → Word → Word) (s : State) : Host.Outcome State Fault Refusal :=
  runOk g s (fun s u => s.putS u d (f (s.getS u a) (srcVal (s.ctx u) b)))

/-- An integer instruction of one source: s[D] := f a (R252). -/
def unop (g : Guard) (d a : SReg) (f : Word → Word) (s : State) : Host.Outcome State Fault Refusal :=
  runOk g s (fun s u => s.putS u d (f (s.getS u a)))

/-- NOP changes nothing but PC (R24). -/
def execNop (g : Guard) (s : State) : Host.Outcome State Fault Refusal := runOk g s (fun s _ => s)
/-- ADD (R252). -/
def execAdd (g : Guard) (d a : SReg) (b : Src) (s : State) : Host.Outcome State Fault Refusal := binop g d a b (· + ·) s
/-- SUB (R252). -/
def execSub (g : Guard) (d a : SReg) (b : Src) (s : State) : Host.Outcome State Fault Refusal := binop g d a b (· - ·) s
/-- MUL (R252). -/
def execMul (g : Guard) (d a : SReg) (b : Src) (s : State) : Host.Outcome State Fault Refusal := binop g d a b (· * ·) s
/-- MULH (R252). -/
def execMulh (g : Guard) (sgn : Bool) (d a : SReg) (b : Src) (s : State) : Host.Outcome State Fault Refusal :=
  binop g d a b (mulHigh sgn) s
/-- DIV (R253). -/
def execDiv (g : Guard) (sgn : Bool) (d a : SReg) (b : Src) (s : State) : Host.Outcome State Fault Refusal :=
  binop g d a b (fun x y => (divRem sgn x y).1) s
/-- REM (R253). -/
def execRem (g : Guard) (sgn : Bool) (d a : SReg) (b : Src) (s : State) : Host.Outcome State Fault Refusal :=
  binop g d a b (fun x y => (divRem sgn x y).2) s
/-- AND (R252). -/
def execAnd (g : Guard) (d a : SReg) (b : Src) (s : State) : Host.Outcome State Fault Refusal := binop g d a b (· &&& ·) s
/-- OR (R252). -/
def execOr (g : Guard) (d a : SReg) (b : Src) (s : State) : Host.Outcome State Fault Refusal := binop g d a b (· ||| ·) s
/-- XOR (R252). -/
def execXor (g : Guard) (d a : SReg) (b : Src) (s : State) : Host.Outcome State Fault Refusal := binop g d a b (· ^^^ ·) s
/-- ANDN (R252). -/
def execAndn (g : Guard) (d a : SReg) (b : Src) (s : State) : Host.Outcome State Fault Refusal :=
  binop g d a b (fun x y => x &&& ~~~y) s
/-- SHL (R252). -/
def execShl (g : Guard) (d a : SReg) (b : Src) (s : State) : Host.Outcome State Fault Refusal := binop g d a b shiftLeft s
/-- SHR (R252). -/
def execShr (g : Guard) (d a : SReg) (b : Src) (s : State) : Host.Outcome State Fault Refusal := binop g d a b shiftRight s
/-- SAR (R252). -/
def execSar (g : Guard) (d a : SReg) (b : Src) (s : State) : Host.Outcome State Fault Refusal := binop g d a b shiftArith s
/-- ROT (R252). -/
def execRot (g : Guard) (d a : SReg) (b : Src) (s : State) : Host.Outcome State Fault Refusal :=
  binop g d a b (fun x y => x.rotateLeft (y.toNat % 64)) s
/-- MIN (R252). -/
def execMin (g : Guard) (sgn : Bool) (d a : SReg) (b : Src) (s : State) : Host.Outcome State Fault Refusal :=
  binop g d a b (minWord sgn) s
/-- MAX (R252). -/
def execMax (g : Guard) (sgn : Bool) (d a : SReg) (b : Src) (s : State) : Host.Outcome State Fault Refusal :=
  binop g d a b (maxWord sgn) s
/-- CLZ (R252). -/
def execClz (g : Guard) (d a : SReg) (s : State) : Host.Outcome State Fault Refusal :=
  unop g d a (fun x => BitVec.ofNat 64 (leadZeros x.toNat 64)) s
/-- CTZ (R252). -/
def execCtz (g : Guard) (d a : SReg) (s : State) : Host.Outcome State Fault Refusal :=
  unop g d a (fun x => BitVec.ofNat 64 (trailZeros x.toNat 64 0)) s
/-- BCNT (R252). -/
def execBcnt (g : Guard) (d a : SReg) (s : State) : Host.Outcome State Fault Refusal :=
  unop g d a (fun x => BitVec.ofNat 64 (popCount x.toNat 64)) s
/-- SEL (R252). -/
def execSel (g : Guard) (d a b c : SReg) (s : State) : Host.Outcome State Fault Refusal :=
  runOk g s (fun s u => s.putS u d (if s.getS u c ≠ 0 then s.getS u a else s.getS u b))
/-- IXA (R252). -/
def execIxa (g : Guard) (sh : BitVec 3) (d a : SReg) (b : Src) (s : State) : Host.Outcome State Fault Refusal :=
  binop g d a b (fun x y => x + y * BitVec.ofNat 64 (2 ^ sh.toNat)) s
/-- BFX (R254). -/
def execBfx (g : Guard) (sgn : Bool) (d a : SReg) (pos : BitVec 6) (len : BitVec 7) (s : State) :
    Host.Outcome State Fault Refusal :=
  unop g d a (fun x => extractField sgn x pos.toNat len.toNat) s
/-- BFI (R254). -/
def execBfi (g : Guard) (d a : SReg) (pos : BitVec 6) (len : BitVec 7) (s : State) : Host.Outcome State Fault Refusal :=
  runOk g s (fun s u => s.putS u d (insertField (s.getS u d) (s.getS u a) pos.toNat len.toNat))
/-- SEXT (R254). -/
def execSext (g : Guard) (d a : SReg) (n : BitVec 7) (s : State) : Host.Outcome State Fault Refusal :=
  unop g d a (fun x => extractField true x 0 n.toNat) s
/-- ZEXT (R254). -/
def execZext (g : Guard) (d a : SReg) (n : BitVec 7) (s : State) : Host.Outcome State Fault Refusal :=
  unop g d a (fun x => extractField false x 0 n.toNat) s
/-- MOVI (R255). -/
def execMovi (g : Guard) (d : SReg) (imm : BitVec 32) (s : State) : Host.Outcome State Fault Refusal :=
  runOk g s (fun s u => s.putS u d (imm.signExtend 64))
/-- MOVH (R255). -/
def execMovh (g : Guard) (d : SReg) (imm : BitVec 32) (s : State) : Host.Outcome State Fault Refusal :=
  runOk g s (fun s u => s.putS u d (imm ++ (s.getS u d).extractLsb' 0 32))
/-- CMP (R256). -/
def execCmp (g : Guard) (cond : BitVec 3) (sgn : Bool) (d : PReg) (a : SReg) (b : Src) (s : State) :
    Host.Outcome State Fault Refusal :=
  runOk g s (fun s u => s.putP u d (cmpCond cond sgn (s.getS u a) (srcVal (s.ctx u) b)))
/-- PLOG (R257). -/
def execPlog (g : Guard) (op : BitVec 3) (d a b : PReg) (s : State) : Host.Outcome State Fault Refusal :=
  runOk g s (fun s u => s.putP u d (plogOp op (s.getP u a) (s.getP u b)))
/-- PMOV.GET (R258). -/
def execPmovGet (g : Guard) (d : SReg) (s : State) : Host.Outcome State Fault Refusal :=
  runOk g s (fun s u => s.putS u d (predWord (s.ctx u)))
/-- PMOV.SET (R258). -/
def execPmovSet (g : Guard) (a : SReg) (mask : BitVec 8) (s : State) : Host.Outcome State Fault Refusal :=
  runOk g s (fun s u => s.modCtx u (fun c => predMask c (c.getS a) mask))
/-- PMOV to one predicate (R258). -/
def execPmovPred (g : Guard) (d : PReg) (v : Bool) (s : State) : Host.Outcome State Fault Refusal :=
  runOk g s (fun s u => s.putP u d v)

end Sys2Proof.Machine
end

