-- ==== Sys2Proof/Machine/Dispatch.lean ====
section
/-! DEFINITION. The dispatch: one arm for each constructor of Instr. -/

namespace Sys2Proof.Machine

/-- The meaning of a step. -/
def exec (i : Instr) (s : State) : Host.Outcome State Fault Refusal :=
  match i with
  | .nop g => Sys2Proof.Machine.execNop g s
  | .add g d a b => Sys2Proof.Machine.execAdd g d a b s
  | .sub g d a b => Sys2Proof.Machine.execSub g d a b s
  | .mul g d a b => Sys2Proof.Machine.execMul g d a b s
  | .mulh g sgn d a b => Sys2Proof.Machine.execMulh g sgn d a b s
  | .div g sgn d a b => Sys2Proof.Machine.execDiv g sgn d a b s
  | .rem g sgn d a b => Sys2Proof.Machine.execRem g sgn d a b s
  | .and g d a b => Sys2Proof.Machine.execAnd g d a b s
  | .or g d a b => Sys2Proof.Machine.execOr g d a b s
  | .xor g d a b => Sys2Proof.Machine.execXor g d a b s
  | .andn g d a b => Sys2Proof.Machine.execAndn g d a b s
  | .shl g d a b => Sys2Proof.Machine.execShl g d a b s
  | .shr g d a b => Sys2Proof.Machine.execShr g d a b s
  | .sar g d a b => Sys2Proof.Machine.execSar g d a b s
  | .rot g d a b => Sys2Proof.Machine.execRot g d a b s
  | .min g sgn d a b => Sys2Proof.Machine.execMin g sgn d a b s
  | .max g sgn d a b => Sys2Proof.Machine.execMax g sgn d a b s
  | .clz g d a => Sys2Proof.Machine.execClz g d a s
  | .ctz g d a => Sys2Proof.Machine.execCtz g d a s
  | .bcnt g d a => Sys2Proof.Machine.execBcnt g d a s
  | .sel g d a b c => Sys2Proof.Machine.execSel g d a b c s
  | .ixa g sh d a b => Sys2Proof.Machine.execIxa g sh d a b s
  | .bfx g sgn d a pos len => Sys2Proof.Machine.execBfx g sgn d a pos len s
  | .bfi g d a pos len => Sys2Proof.Machine.execBfi g d a pos len s
  | .sext g d a n => Sys2Proof.Machine.execSext g d a n s
  | .zext g d a n => Sys2Proof.Machine.execZext g d a n s
  | .movi g d imm => Sys2Proof.Machine.execMovi g d imm s
  | .movh g d imm => Sys2Proof.Machine.execMovh g d imm s
  | .cmp g cond sgn d a b => Sys2Proof.Machine.execCmp g cond sgn d a b s
  | .plog g op d a b => Sys2Proof.Machine.execPlog g op d a b s
  | .pmovGet g d => Sys2Proof.Machine.execPmovGet g d s
  | .pmovSet g a mask => Sys2Proof.Machine.execPmovSet g a mask s
  | .pmovPred g d v => Sys2Proof.Machine.execPmovPred g d v s
  | .br g off => Sys2Proof.Machine.execBr g off s
  | .call g off => Sys2Proof.Machine.execCall g off s
  | .brx g link a => Sys2Proof.Machine.execBrx g link a s
  | .ret g a => Sys2Proof.Machine.execRet g a s
  | .loop g d a last => Sys2Proof.Machine.execLoop g d a last s
  | .loopBrk g => Sys2Proof.Machine.execLoopBrk g s
  | .itnext g d p => Sys2Proof.Machine.execItnext g d p s
  | .yield g => Sys2Proof.Machine.execYield g s
  | .halt g => Sys2Proof.Machine.execHalt g s
  | .ld g o d a b off => Sys2Proof.Machine.execLd g o d a b off s
  | .st g o d a b off => Sys2Proof.Machine.execSt g o d a b off s
  | .ld2 g o d a b off => Sys2Proof.Machine.execLd2 g o d a b off s
  | .st2 g o d a b off => Sys2Proof.Machine.execSt2 g o d a b off s
  | .atom g o aop d a b off => Sys2Proof.Machine.execAtom g o aop d a b off s
  | .cas g o d a b off => Sys2Proof.Machine.execCas g o d a b off s
  | .pref g span nc a b off => Sys2Proof.Machine.execPref g span nc a b off s
  | .apcvRel g space d a => Sys2Proof.Machine.execApcvRel g space d a s
  | .apcvGen g space d a => Sys2Proof.Machine.execApcvGen g space d a s
  | .apin g space d a => Sys2Proof.Machine.execApin g space d a s
  | .fence g pr pw sr sw scope => Sys2Proof.Machine.execFence g pr pw sr sw scope s
  | .meetArrive g scope d slot n => Sys2Proof.Machine.execMeetArrive g scope d slot n s
  | .meetWait g scope a slot => Sys2Proof.Machine.execMeetWait g scope a slot s
  | .meetAw g scope d slot n => Sys2Proof.Machine.execMeetAw g scope d slot n s
  | .meetWaitComplete u => Sys2Proof.Machine.execMeetWaitComplete u s
  | .wait g any d mask => Sys2Proof.Machine.execWait g any d mask s
  | .waitComplete u => Sys2Proof.Machine.execWaitComplete u s
  | .tokqGet g d t => Sys2Proof.Machine.execTokqGet g d t s
  | .tokqAll g d => Sys2Proof.Machine.execTokqAll g d s
  | .tokqClr g t => Sys2Proof.Machine.execTokqClr g t s
  | .cpy g t a off => Sys2Proof.Machine.execCpy g t a off s
  | .cpys g slot a off => Sys2Proof.Machine.execCpys g slot a off s
  | .stage g slot inc => Sys2Proof.Machine.execStage g slot inc s
  | .cpyx g t a off => Sys2Proof.Machine.execCpyx g t a off s
  | .coll g t a off => Sys2Proof.Machine.execColl g t a off s
  | .qset g q a off => Sys2Proof.Machine.execQset g q a off s
  | .qind g zero q qa qb => Sys2Proof.Machine.execQind g zero q qa qb s
  | .qindFeed g zero q qa qb f t => Sys2Proof.Machine.execQindFeed g zero q qa qb f t s
  | .qrd g sx d q => Sys2Proof.Machine.execQrd g sx d q s
  | .qposGet g d q => Sys2Proof.Machine.execQposGet g d q s
  | .qposSet g q b => Sys2Proof.Machine.execQposSet g q b s
  | .qflag g d q k => Sys2Proof.Machine.execQflag g d q k s
  | .qclr g flush q => Sys2Proof.Machine.execQclr g flush q s
  | .merge g comb kz vfmt tof scope t a off => Sys2Proof.Machine.execMerge g comb kz vfmt tof scope t a off s
  | .route g scope t a off => Sys2Proof.Machine.execRoute g scope t a off s
  | .hacc g comb vfmt scope t a off => Sys2Proof.Machine.execHacc g comb vfmt scope t a off s
  | .hflush g keep scope t a off => Sys2Proof.Machine.execHflush g keep scope t a off s
  | .gload g x a off => Sys2Proof.Machine.execGload g x a off s
  | .grun g scope x b f t => Sys2Proof.Machine.execGrun g scope x b f t s
  | .grunT g scope x f t => Sys2Proof.Machine.execGrunT g scope x f t s
  | .ginv g scope x b a cap t => Sys2Proof.Machine.execGinv g scope x b a cap t s
  | .gsave g x a off => Sys2Proof.Machine.execGsave g x a off s
  | .grest g x a off => Sys2Proof.Machine.execGrest g x a off s
  | .bload g k a off => Sys2Proof.Machine.execBload g k a off s
  | .brun g scope t k => Sys2Proof.Machine.execBrun g scope t k s
  | .barg g n b => Sys2Proof.Machine.execBarg g n b s
  | .bdrain g => Sys2Proof.Machine.execBdrain g s
  | .bstat g d sel => Sys2Proof.Machine.execBstat g d sel s
  | .bkill g => Sys2Proof.Machine.execBkill g s
  | .bswap g scope t mask => Sys2Proof.Machine.execBswap g scope t mask s
  | .reform g use own => Sys2Proof.Machine.execReform g use own s
  | .gear g hi sp => Sys2Proof.Machine.execGear g hi sp s
  | .spine g sp => Sys2Proof.Machine.execSpine g sp s
  | .rvote g d lv => Sys2Proof.Machine.execRvote g d lv s
  | .rvoteOff g d => Sys2Proof.Machine.execRvoteOff g d s
  | .tick g d => Sys2Proof.Machine.execTick g d s
  | .realign g d a => Sys2Proof.Machine.execRealign g d a s
  | .tsend g scope t a off => Sys2Proof.Machine.execTsend g scope t a off s
  | .latq g d a b => Sys2Proof.Machine.execLatq g d a b s
  | .latqNow g d => Sys2Proof.Machine.execLatqNow g d s
  | .latqRaw g d => Sys2Proof.Machine.execLatqRaw g d s
  | .krd g d idx => Sys2Proof.Machine.execKrd g d idx s
  | .kwr g idx a => Sys2Proof.Machine.execKwr g idx a s
  | .trap g code => Sys2Proof.Machine.execTrap g code s
  | .tret g => Sys2Proof.Machine.execTret g s
  | .ckpt g d => Sys2Proof.Machine.execCkpt g d s
  | .est g a => Sys2Proof.Machine.execEst g a s
  | .stopr g d a off => Sys2Proof.Machine.execStopr g d a off s
  | .idle g a => Sys2Proof.Machine.execIdle g a s
  | .idleWake die core => Sys2Proof.Machine.execIdleWake die core s
  | .apbaseWrite g space a => Sys2Proof.Machine.execApbaseWrite g space a s
  | .trkcfgWrite g n a => Sys2Proof.Machine.execTrkcfgWrite g n a s
  | .trkstatStep g n a => Sys2Proof.Machine.execTrkstatStep g n a s
  | .trkstatClr g n a => Sys2Proof.Machine.execTrkstatClr g n a s
  | .schstatStop g slot a => Sys2Proof.Machine.execSchstatStop g slot a s
  | .xinvOnePage g a => Sys2Proof.Machine.execXinvOnePage g a s
  | .xinvOwner g a => Sys2Proof.Machine.execXinvOwner g a s
  | .xinvAll g a => Sys2Proof.Machine.execXinvAll g a s
  | .shootdownAck die unit => Sys2Proof.Machine.execShootdownAck die unit s
  | .swportClr g port a => Sys2Proof.Machine.execSwportClr g port a s
  | .pctlResume g a => Sys2Proof.Machine.execPctlResume g a s
  | .pctlKill g a => Sys2Proof.Machine.execPctlKill g a s
  | .mcmdRefresh die arg => Sys2Proof.Machine.execMcmdRefresh die arg s
  | .mcmdQrefresh die arg => Sys2Proof.Machine.execMcmdQrefresh die arg s
  | .mcmdRelease die arg => Sys2Proof.Machine.execMcmdRelease die arg s
  | .mcmdRestart die arg => Sys2Proof.Machine.execMcmdRestart die arg s
  | .mcmdDrainBudget die arg => Sys2Proof.Machine.execMcmdDrainBudget die arg s
  | .mcmdInvalid die op arg => Sys2Proof.Machine.execMcmdInvalid die op arg s
  | .hdoorWrite die ring => Sys2Proof.Machine.execHdoorWrite die ring s
  | .doestatRsp g a => Sys2Proof.Machine.execDoestatRsp g a s
  | .tdictlSelect g a => Sys2Proof.Machine.execTdictlSelect g a s
  | .tdictlLock g a => Sys2Proof.Machine.execTdictlLock g a s
  | .tdictlReport g a => Sys2Proof.Machine.execTdictlReport g a s
  | .tdictlState g a => Sys2Proof.Machine.execTdictlState g a s
  | .tdictlStart g a => Sys2Proof.Machine.execTdictlStart g a s
  | .tdictlStop g a => Sys2Proof.Machine.execTdictlStop g a s
  | .tdictlReserved g a => Sys2Proof.Machine.execTdictlReserved g a s
  | .cfgStage die tile => Sys2Proof.Machine.execCfgStage die tile s
  | .cfgCommit die tile => Sys2Proof.Machine.execCfgCommit die tile s
  | .cfgDiscard die tile => Sys2Proof.Machine.execCfgDiscard die tile s
  | .cfgInvalid die tile => Sys2Proof.Machine.execCfgInvalid die tile s
  | .verify => Sys2Proof.Machine.execVerify s
  | .advancingCycle r => Sys2Proof.Machine.execAdvancingCycle r s
  | .heldCycle r => Sys2Proof.Machine.execHeldCycle r s
  | .emptyCycle r => Sys2Proof.Machine.execEmptyCycle r s
  | .pend => Sys2Proof.Machine.execPend s
  | .pset d imm => Sys2Proof.Machine.execPset d imm s
  | .pmov d a => Sys2Proof.Machine.execPmov d a s
  | .padd d a b => Sys2Proof.Machine.execPadd d a b s
  | .paddi d a imm => Sys2Proof.Machine.execPaddi d a imm s
  | .psub d a b => Sys2Proof.Machine.execPsub d a b s
  | .pmul d a b => Sys2Proof.Machine.execPmul d a b s
  | .pmuli d a imm => Sys2Proof.Machine.execPmuli d a imm s
  | .pdivi d a imm => Sys2Proof.Machine.execPdivi d a imm s
  | .pmodi d a imm => Sys2Proof.Machine.execPmodi d a imm s
  | .pand d a b => Sys2Proof.Machine.execPand d a b s
  | .pxor d a b => Sys2Proof.Machine.execPxor d a b s
  | .pshr d a imm => Sys2Proof.Machine.execPshr d a imm s
  | .pshl d a imm => Sys2Proof.Machine.execPshl d a imm s
  | .phash d a b imm => Sys2Proof.Machine.execPhash d a b imm s
  | .pmin d a b => Sys2Proof.Machine.execPmin d a b s
  | .pmax d a b => Sys2Proof.Machine.execPmax d a b s
  | .ploop d a imm => Sys2Proof.Machine.execPloop d a imm s
  | .pbr cond a b imm => Sys2Proof.Machine.execPbr cond a b imm s
  | .pemit a b => Sys2Proof.Machine.execPemit a b s
  | .pskip cond a b => Sys2Proof.Machine.execPskip cond a b s
  | .pband d a b => Sys2Proof.Machine.execPband d a b s
  | .pdil d a b imm => Sys2Proof.Machine.execPdil d a b imm s
  | .pbdiag d a imm => Sys2Proof.Machine.execPbdiag d a imm s
  | .pkron d a => Sys2Proof.Machine.execPkron d a s
  | .ptab d a imm => Sys2Proof.Machine.execPtab d a imm s
  | .pswap d a => Sys2Proof.Machine.execPswap d a s
  | .coordinatePush die tile gen => Sys2Proof.Machine.execCoordinatePush die tile gen s
  | .genRunaway die tile gen => Sys2Proof.Machine.execGenRunaway die tile gen s
  | .grunComplete die tile gen => Sys2Proof.Machine.execGrunComplete die tile gen s
  | .ginvComplete die tile gen => Sys2Proof.Machine.execGinvComplete die tile gen s
  | .holdWatchdogExpiry r => Sys2Proof.Machine.execHoldWatchdogExpiry r s
  | .waitWatchdogExpiry u => Sys2Proof.Machine.execWaitWatchdogExpiry u s
  | .heldAccessWatchdogExpiry k => Sys2Proof.Machine.execHeldAccessWatchdogExpiry k s
  | .drainWatchdogExpiry u q => Sys2Proof.Machine.execDrainWatchdogExpiry u q s
  | .barrierTimeout u => Sys2Proof.Machine.execBarrierTimeout u s
  | .decodeLineRead r port => Sys2Proof.Machine.execDecodeLineRead r port s
  | .encodeLineWrite r port => Sys2Proof.Machine.execEncodeLineWrite r port s
  | .anchorLoad r => Sys2Proof.Machine.execAnchorLoad r s
  | .mapperResult u res => Sys2Proof.Machine.execMapperResult u res s
  | .mapperTimeout u => Sys2Proof.Machine.execMapperTimeout u s
  | .runStart r => Sys2Proof.Machine.execRunStart r s
  | .blockRunComplete r => Sys2Proof.Machine.execBlockRunComplete r s
  | .regionLendBegin r => Sys2Proof.Machine.execRegionLendBegin r s
  | .copyEngineStart die => Sys2Proof.Machine.execCopyEngineStart die s
  | .copyComplete u t => Sys2Proof.Machine.execCopyComplete u t s
  | .scheduleRelease u slot => Sys2Proof.Machine.execScheduleRelease u slot s
  | .collectiveComplete u t => Sys2Proof.Machine.execCollectiveComplete u t s
  | .feedPush u q => Sys2Proof.Machine.execFeedPush u q s
  | .drainWrite u q => Sys2Proof.Machine.execDrainWrite u q s
  | .irregularOpStart die tile engine => Sys2Proof.Machine.execIrregularOpStart die tile engine s
  | .mergeComplete die tile => Sys2Proof.Machine.execMergeComplete die tile s
  | .routeComplete die tile => Sys2Proof.Machine.execRouteComplete die tile s
  | .haccComplete die tile => Sys2Proof.Machine.execHaccComplete die tile s
  | .hflushComplete die tile => Sys2Proof.Machine.execHflushComplete die tile s
  | .tsendArrive u t => Sys2Proof.Machine.execTsendArrive u t s
  | .tsendDeliver die tile => Sys2Proof.Machine.execTsendDeliver die tile s
  | .tsendComplete u t => Sys2Proof.Machine.execTsendComplete u t s
  | .milepostAlignment u skew => Sys2Proof.Machine.execMilepostAlignment u skew s
  | .memoryAccessPerform k => Sys2Proof.Machine.execMemoryAccessPerform k s
  | .walkComplete die k => Sys2Proof.Machine.execWalkComplete die k s
  | .accessCounterHalving die => Sys2Proof.Machine.execAccessCounterHalving die s
  | .migrationStart owner va frame => Sys2Proof.Machine.execMigrationStart owner va frame s
  | .migrationCas k => Sys2Proof.Machine.execMigrationCas k s
  | .migrationAbortTimeout k => Sys2Proof.Machine.execMigrationAbortTimeout k s
  | .migrationUnlock k => Sys2Proof.Machine.execMigrationUnlock k s
  | .swelinFlitReceive die port flit => Sys2Proof.Machine.execSwelinFlitReceive die port flit s
  | .swelinPortTrained die port lanes peerPkg peerPort => Sys2Proof.Machine.execSwelinPortTrained die port lanes peerPkg peerPort s
  | .linkAckTimeout k => Sys2Proof.Machine.execLinkAckTimeout k s
  | .causewayDown die edge => Sys2Proof.Machine.execCausewayDown die edge s
  | .hostCompletionTimeout k => Sys2Proof.Machine.execHostCompletionTimeout k s
  | .hostBar2Access func off acc => Sys2Proof.Machine.execHostBar2Access func off acc s
  | .hostPostingWrite func page off bytes => Sys2Proof.Machine.execHostPostingWrite func page off bytes s
  | .launchCommit func page off bytes => Sys2Proof.Machine.execLaunchCommit func page off bytes s
  | .hostBarWriteOutside func off => Sys2Proof.Machine.execHostBarWriteOutside func off s
  | .hostConfigWrite reg value => Sys2Proof.Machine.execHostConfigWrite reg value s
  | .ideStreamFailure stream => Sys2Proof.Machine.execIdeStreamFailure stream s
  | .doeRequestArrive bytes => Sys2Proof.Machine.execDoeRequestArrive bytes s
  | .doeRequestPresent => Sys2Proof.Machine.execDoeRequestPresent s
  | .spdmRequest bytes => Sys2Proof.Machine.execSpdmRequest bytes s
  | .spdmSnapshot owner nonce => Sys2Proof.Machine.execSpdmSnapshot owner nonce s
  | .spdmReset owner nonce sig => Sys2Proof.Machine.execSpdmReset owner nonce sig s
  | .powerOn => Sys2Proof.Machine.execPowerOn s
  | .bringupComplete => Sys2Proof.Machine.execBringupComplete s
  | .idleSweep die tile => Sys2Proof.Machine.execIdleSweep die tile s
  | .selfTestResult die tile fails => Sys2Proof.Machine.execSelfTestResult die tile fails s
  | .trimWindowEnd die cluster => Sys2Proof.Machine.execTrimWindowEnd die cluster s
  | .uncorrectableError die cluster site => Sys2Proof.Machine.execUncorrectableError die cluster site s
  | .trimFreezeExpiry die cluster => Sys2Proof.Machine.execTrimFreezeExpiry die cluster s
  | .islandHoldoffExpiry die cluster => Sys2Proof.Machine.execIslandHoldoffExpiry die cluster s
  | .gearFabricStopped die tile => Sys2Proof.Machine.execGearFabricStopped die tile s
  | .islandLevelReached die tile => Sys2Proof.Machine.execIslandLevelReached die tile s
  | .spineClockStable die tile => Sys2Proof.Machine.execSpineClockStable die tile s
  | .gearDeferRelease die tile => Sys2Proof.Machine.execGearDeferRelease die tile s
  | .packageStallHandshake => Sys2Proof.Machine.execPackageStallHandshake s
  | .handshakeRelease table => Sys2Proof.Machine.execHandshakeRelease table s
  | .dutyWrite r pattern => Sys2Proof.Machine.execDutyWrite r pattern s
  | .schedulerTick => Sys2Proof.Machine.execSchedulerTick s
  | .admission die queue place => Sys2Proof.Machine.execAdmission die queue place s
  | .preemptionDecision die queue => Sys2Proof.Machine.execPreemptionDecision die queue s
  | .drainExpiry task => Sys2Proof.Machine.execDrainExpiry task s
  | .recallStart die owner => Sys2Proof.Machine.execRecallStart die owner s
  | .saveDeadlineExpiry task => Sys2Proof.Machine.execSaveDeadlineExpiry task s
  | .contextSaveComplete task => Sys2Proof.Machine.execContextSaveComplete task s
  | .killComplete task => Sys2Proof.Machine.execKillComplete task s
  | .taskRetire task => Sys2Proof.Machine.execTaskRetire task s
  | .agentStop x => Sys2Proof.Machine.execAgentStop x s
  | .skidBoundExpiry x => Sys2Proof.Machine.execSkidBoundExpiry x s
  | .causewayRestored die edge => Sys2Proof.Machine.execCausewayRestored die edge s
  | .swelinPortDown die port => Sys2Proof.Machine.execSwelinPortDown die port s
  | .argumentUpdateDelivered r => Sys2Proof.Machine.execArgumentUpdateDelivered r s
  | .islandCapChange die cluster cap => Sys2Proof.Machine.execIslandCapChange die cluster cap s
  | .mgmtCommandComplete die => Sys2Proof.Machine.execMgmtCommandComplete die s
  | .configPortCommandDone die tile => Sys2Proof.Machine.execConfigPortCommandDone die tile s

end Sys2Proof.Machine
end

