-- ==== Sys2Proof/Machine/Step.lean ====
section
/-! DEFINITION. One step of the package: the next of State.moves, else the turn of the current unit. A turn fetches, decodes
and executes one word; with nothing to execute, a reference tick passes. -/

namespace Sys2Proof.Machine

/-- An agent fetches, decodes and executes the word at its PC (R18, R19, R23). One whose fetch must wait passes its issue slot on
(R249). -/
def stepAgent (s : State) (a : Agent) : Host.Outcome State Fault Refusal :=
  match fetchWord s a with
  | (s, .fault f) => .next (takeFault s a f)
  | (s, .later) => .next (noteIssue s a)
  | (s, .ok w) =>
    match decodeStrand a.isHub w with
    | .error e => .next (takeFault s a (decodeFaultInfo e))
    | .ok i => exec i s

/-- The turn of the current unit. -/
def stepTurn (s : State) : Host.Outcome State Fault Refusal :=
  if !turnOk s.cur then .fault .noSuchUnit
  else
    match s.issuer with
    | some a => stepAgent s a
    | none =>
      match s.generator with
      | some (d, t, g) =>
        (match genWord s d t g with
        | some i => exec i s
        | none => exec .schedulerTick s)
      | none => exec .schedulerTick s

/-- One step of the package. -/
def step (s : State) : Host.Outcome State Fault Refusal :=
  match s.moves with
  | .event i :: ms => exec i { s with moves := ms }
  | .turn u :: ms => stepTurn { s with moves := ms, cur := u }
  | [] => stepTurn s

/-- The state with a word placed where the next step fetches: a pattern word in a running generator context, a strand word
in a buffer under the PC of hub core 0, or of a strand when a hub core does not have the instruction. -/
def State.withFetchWord (s : State) (nbits w : Nat) : State :=
  if nbits ≤ 32 then placePattern s (BitVec.ofNat 32 w)
  else
    match decodeStrand true (BitVec.ofNat 64 w) with
    | .ok _ => placeHub s (BitVec.ofNat 64 w)
    | .error _ => placeStrand s (BitVec.ofNat 64 w)

end Sys2Proof.Machine
end

