-- ==== Sys2Proof/Safety.lean ====
section
/-! DEFINITION. What the model calls a safe state and a safe run. -/

namespace Sys2Proof

/-- The memory keeps its canonical form: what every step keeps. -/
def Safety.memInv (s : Machine.State) : Prop := Machine.Memory.wf s.mem = true

/-- A run is safe when each of its first `k` steps ends in a next state. -/
def Safety.runsFor (k : Nat) (s : Machine.State) : Prop :=
  match k with
  | 0 => True
  | n + 1 => ∃ t, Machine.step s = .next t ∧ Safety.runsFor n t

end Sys2Proof
end

