-- ==== Sys2Proof/Certificates/Slice0/Obligations.lean ====
section
/-! DEFINITION. The statements for the provers: what the numbered rules of spec/ say that an instruction, an event or the
machine does. -/

namespace Sys2Proof.Claims

open Sys2Proof.Machine

/-- The current unit's turn falls to agent `u`, and the guard of the word that it issues holds (R18, R249). -/
def Issues (s : State) (u : Agent) (g : Guard) : Prop := s.issuer = some u ∧ guardHolds (s.ctx u) g = true

/-- What a word leaves that only writes `v` into s[d]: the slot that issued, the register, and the retirement with its
loop-end step (R249, R250, R260). -/
def wrote (s : State) (u : Agent) (d : SReg) (v : Word) : State := ((noteIssue s u).putS u d v).retire u

/-- The same for a word that only writes a predicate. -/
def wrotePred (s : State) (u : Agent) (d : PReg) (v : Bool) : State := ((noteIssue s u).putP u d v).retire u

/-- An agent goes to an address, which is no retirement; what a home has answered to the instruction that it leaves goes with it. -/
def goesTo (s : State) (u : Agent) (p : Word) : State := (endProbes s u).modCtx u (fun c => { c with pc := p })

/-- Natural number as a 64-bit result, mod 2^64. -/
def nat64 (n : Nat) : Word := BitVec.ofNat 64 n
/-- Integer as a 64-bit result, mod 2^64. -/
def int64 (n : Int) : Word := BitVec.ofInt 64 n

/-- Bits [pos+len-1 : pos] of a natural number. -/
def field (n pos len : Nat) : Nat := n / 2 ^ pos % 2 ^ len
/-- The integer that `len` bits stand for in two's complement. -/
def signedOf (n len : Nat) : Int := if n < 2 ^ (len - 1) then (n : Int) else (n : Int) - 2 ^ len

/-- The guard of an instruction that strands and hub cores issue. -/
def guardOf : Instr → Option Guard
  | .nop g | .add g _ _ _ | .sub g _ _ _ | .mul g _ _ _ | .mulh g _ _ _ _ | .div g _ _ _ _ | .rem g _ _ _ _
  | .and g _ _ _ | .or g _ _ _ | .xor g _ _ _ | .andn g _ _ _ | .shl g _ _ _ | .shr g _ _ _ | .sar g _ _ _
  | .rot g _ _ _ | .min g _ _ _ _ | .max g _ _ _ _ | .clz g _ _ | .ctz g _ _ | .bcnt g _ _ | .sel g _ _ _ _
  | .ixa g _ _ _ _ | .bfx g _ _ _ _ _ | .bfi g _ _ _ _ | .sext g _ _ _ | .zext g _ _ _ | .movi g _ _ | .movh g _ _
  | .cmp g _ _ _ _ _ | .plog g _ _ _ _ | .pmovGet g _ | .pmovSet g _ _ | .pmovPred g _ _ | .br g _ | .call g _
  | .brx g _ _ | .ret g _ | .loop g _ _ _ | .loopBrk g | .itnext g _ _ | .yield g | .halt g | .ckpt g _ | .est g _
  | .trap g _ | .tret g | .stopr g _ _ _ | .idle g _ | .ld g _ _ _ _ _ | .st g _ _ _ _ _ | .ld2 g _ _ _ _ _
  | .st2 g _ _ _ _ _ | .atom g _ _ _ _ _ _ | .cas g _ _ _ _ _ | .pref g _ _ _ _ _ | .apcvRel g _ _ _
  | .apcvGen g _ _ _ | .apin g _ _ _ | .fence g _ _ _ _ _ | .meetArrive g _ _ _ _ | .meetWait g _ _ _
  | .meetAw g _ _ _ _ | .wait g _ _ _ | .tokqGet g _ _ | .tokqAll g _ | .tokqClr g _ | .cpy g _ _ _ | .cpys g _ _ _
  | .stage g _ _ | .cpyx g _ _ _ | .coll g _ _ _ | .qset g _ _ _ | .qind g _ _ _ _ | .qindFeed g _ _ _ _ _ _
  | .qrd g _ _ _ | .qposGet g _ _ | .qposSet g _ _ | .qflag g _ _ _ | .qclr g _ _ | .merge g _ _ _ _ _ _ _ _
  | .route g _ _ _ _ | .hacc g _ _ _ _ _ _ | .hflush g _ _ _ _ _ | .gload g _ _ _ | .grun g _ _ _ _ _
  | .grunT g _ _ _ _ | .ginv g _ _ _ _ _ _ | .gsave g _ _ _ | .grest g _ _ _ | .bload g _ _ _ | .brun g _ _ _
  | .barg g _ _ | .bdrain g | .bstat g _ _ | .bkill g | .bswap g _ _ _ | .reform g _ _ | .gear g _ _ | .spine g _
  | .rvote g _ _ | .rvoteOff g _ | .tick g _ | .realign g _ _ | .tsend g _ _ _ _ | .latq g _ _ _ | .latqNow g _
  | .latqRaw g _ | .krd g _ _ | .kwr g _ _ => some g
  | _ => none

end Sys2Proof.Claims

section Strand

open Sys2Proof Sys2Proof.Machine Sys2Proof.Claims

/-- R252: ADD, SUB, MUL, MULH, AND, OR, XOR, ANDN, SEL, IXA, MIN and MAX write the number that the table gives
them, computed on naturals and integers, and change nothing else but the issuing slot and, at the end of a loop body, the loop. -/
def Obligations.IntegerResults : Prop :=
  ∀ (s : State) (u : Agent) (g : Guard) (d a c : SReg) (b : Src) (br : SReg) (sh : BitVec 3) (m : Bool), Issues s u g →
    let x := s.getS u a
    let y := srcVal (s.ctx u) b
    exec (.add g d a b) s = .next (wrote s u d (nat64 (x.toNat + y.toNat))) ∧
    exec (.sub g d a b) s = .next (wrote s u d (int64 ((x.toNat : Int) - y.toNat))) ∧
    exec (.mul g d a b) s = .next (wrote s u d (nat64 (x.toNat * y.toNat))) ∧
    exec (.mulh g false d a b) s = .next (wrote s u d (nat64 (x.toNat * y.toNat / 2 ^ 64))) ∧
    exec (.mulh g true d a b) s = .next (wrote s u d (int64 (x.toInt * y.toInt / 2 ^ 64))) ∧
    exec (.and g d a b) s = .next (wrote s u d (x &&& y)) ∧
    exec (.or g d a b) s = .next (wrote s u d (x ||| y)) ∧
    exec (.xor g d a b) s = .next (wrote s u d (x ^^^ y)) ∧
    exec (.andn g d a b) s = .next (wrote s u d (x &&& ~~~y)) ∧
    exec (.min g m d a b) s = .next (wrote s u d (if (if m then x.toInt < y.toInt else (x.toNat : Int) < y.toNat) then x else y)) ∧
    exec (.max g m d a b) s = .next (wrote s u d (if (if m then x.toInt < y.toInt else (x.toNat : Int) < y.toNat) then y else x)) ∧
    exec (.sel g d a br c) s = .next (wrote s u d (if s.getS u c ≠ 0 then x else s.getS u br)) ∧
    exec (.ixa g sh d a b) s = .next (wrote s u d (nat64 (x.toNat + y.toNat * 2 ^ sh.toNat)))

/-- R253: DIV and REM divide without faulting. The quotient by zero is all ones and the remainder the dividend; a signed quotient
is truncated toward zero; -2^63 by -1 gives -2^63 and remainder 0. -/
def Obligations.DivisionResults : Prop :=
  ∀ (s : State) (u : Agent) (g : Guard) (d a : SReg) (b : Src), Issues s u g →
    let x := s.getS u a
    let y := srcVal (s.ctx u) b
    let q := x.toNat / y.toNat
    let qs := x.toInt.tdiv y.toInt
    exec (.div g false d a b) s = .next (wrote s u d (if y.toNat = 0 then nat64 (2 ^ 64 - 1) else nat64 q)) ∧
    exec (.rem g false d a b) s = .next (wrote s u d (if y.toNat = 0 then x else int64 ((x.toNat : Int) - q * y.toNat))) ∧
    exec (.div g true d a b) s = .next (wrote s u d (if y.toInt = 0 then int64 (-1)
      else if x.toInt = -2 ^ 63 ∧ y.toInt = -1 then x else int64 qs)) ∧
    exec (.rem g true d a b) s = .next (wrote s u d (if y.toInt = 0 then x
      else if x.toInt = -2 ^ 63 ∧ y.toInt = -1 then 0 else int64 (x.toInt - qs * y.toInt)))

/-- R252: the shifts and rotation, with a count of 64 or more, and the bit counts. -/
def Sys2Proof.Claims.ShiftAndCountResults : Prop :=
  ∀ (s : State) (u : Agent) (g : Guard) (d a : SReg) (b : Src), Issues s u g →
    let x := s.getS u a
    let y := srcVal (s.ctx u) b
    let k := y.toNat % 64
    exec (.shl g d a b) s = .next (wrote s u d (if y.toNat < 64 then nat64 (x.toNat * 2 ^ y.toNat) else 0)) ∧
    exec (.shr g d a b) s = .next (wrote s u d (if y.toNat < 64 then nat64 (x.toNat / 2 ^ y.toNat) else 0)) ∧
    exec (.sar g d a b) s = .next (wrote s u d (if y.toNat < 64 then int64 (x.toInt / 2 ^ y.toNat)
      else if 0 ≤ x.toInt then 0 else nat64 (2 ^ 64 - 1))) ∧
    exec (.rot g d a b) s = .next (wrote s u d (nat64 (x.toNat * 2 ^ k % 2 ^ 64 + x.toNat / 2 ^ (64 - k)))) ∧
    (∃ n, exec (.clz g d a) s = .next (wrote s u d (nat64 n)) ∧ n ≤ 64 ∧ x.toNat < 2 ^ (64 - n) ∧
      (n < 64 → 2 ^ (63 - n) ≤ x.toNat)) ∧
    (∃ n, exec (.ctz g d a) s = .next (wrote s u d (nat64 n)) ∧ n ≤ 64 ∧ x.toNat % 2 ^ n = 0 ∧
      (n < 64 → x.toNat / 2 ^ n % 2 = 1)) ∧
    exec (.bcnt g d a) s = .next (wrote s u d (nat64 ((List.range 64).countP (fun i => x.getLsbD i))))

/-- R254, R255: the bit-field and constant instructions; the operands of the bit fields lie in the limits that decoding
enforces. -/
def Sys2Proof.Claims.BitFieldResults : Prop :=
  ∀ (s : State) (u : Agent) (g : Guard) (d a : SReg) (pos : BitVec 6) (len n : BitVec 7) (imm : BitVec 32), Issues s u g →
    bitFieldWf pos len = true → 1 ≤ n.toNat → n.toNat ≤ 64 →
    let x := s.getS u a
    let old := s.getS u d
    exec (.bfx g false d a pos len) s = .next (wrote s u d (nat64 (field x.toNat pos.toNat len.toNat))) ∧
    exec (.bfx g true d a pos len) s = .next (wrote s u d (int64 (signedOf (field x.toNat pos.toNat len.toNat) len.toNat))) ∧
    (∃ r : Word, exec (.bfi g d a pos len) s = .next (wrote s u d r) ∧
      ∀ i, i < 64 → r.getLsbD i =
        if pos.toNat ≤ i ∧ i < pos.toNat + len.toNat then x.getLsbD (i - pos.toNat) else old.getLsbD i) ∧
    exec (.sext g d a n) s = .next (wrote s u d (int64 (signedOf (field x.toNat 0 n.toNat) n.toNat))) ∧
    exec (.zext g d a n) s = .next (wrote s u d (nat64 (field x.toNat 0 n.toNat))) ∧
    exec (.movi g d imm) s = .next (wrote s u d (int64 imm.toInt)) ∧
    exec (.movh g d imm) s = .next (wrote s u d (nat64 (imm.toNat * 2 ^ 32 + old.toNat % 2 ^ 32)))

/-- R256, R258: CMP and PMOV. PMOV.GET gives the sum of p_i × 2^i, and PMOV.SET takes the masked bits of a
register into p1 to p7. -/
def Obligations.PredicateResults : Prop :=
  ∀ (s : State) (u : Agent) (g : Guard) (d : PReg) (sd a : SReg) (b : Src) (cond : BitVec 3) (m v : Bool)
    (mask : BitVec 8), Issues s u g → cond.toNat ≤ 5 →
    let x := s.getS u a
    let y := srcVal (s.ctx u) b
    let xi : Int := if m then x.toInt else x.toNat
    let yi : Int := if m then y.toInt else y.toNat
    exec (.cmp g cond m d a b) s = .next (wrotePred s u d (match cond.toNat with
      | 0 => decide (xi = yi) | 1 => decide (xi ≠ yi) | 2 => decide (xi < yi)
      | 3 => decide (xi ≤ yi) | 4 => decide (xi > yi) | _ => decide (xi ≥ yi))) ∧
    exec (.pmovGet g sd) s = .next (wrote s u sd (nat64
      (((List.range 8).map (fun i => if s.getP u (BitVec.ofNat 3 i) then 2 ^ i else 0)).sum))) ∧
    (∃ t : State, exec (.pmovSet g a mask) s = .next (t.retire u) ∧
      (∀ i : PReg, t.getP u i = if i ≠ 0 ∧ mask.getLsbD i.toNat then x.getLsbD i.toNat else s.getP u i) ∧
      ∃ c, t = (noteIssue s u).modCtx u (fun z => { z with p := c })) ∧
    exec (.pmovPred g d v) s = .next (wrotePred s u d v)

/-- R257: PLOG sets p[D] to p[A] op p[B]; a word whose FN[5:3] or IMM is not zero is no PLOG. -/
def Obligations.PredicateLogic : Prop :=
  (∀ (s : State) (u : Agent) (g : Guard) (d a b : PReg) (op : BitVec 3), Issues s u g →
    let p := s.getP u a
    let q := s.getP u b
    exec (.plog g op d a b) s = .next (wrotePred s u d (match op.toNat with
      | 0 => p && q | 1 => p || q | 2 => xor p q | 3 => p && !q
      | 4 => p || !q | 5 => !(p && q) | 6 => !(p || q) | _ => !(xor p q)))) ∧
  (∀ (hub : Bool) (g : Guard) (op : BitVec 3) (d a b : PReg) (f : StrandFields), f.opc = 0x21 →
    (f.fn.toNat / 8 ≠ 0 ∨ f.imm ≠ 0 → decodeStrand hub f.word = .error (.illegal 2)) ∧
    (decodeStrand hub f.word = .ok (.plog g op d a b) →
      f.guard = g ∧ f.d.toNat = d.toNat ∧ f.a.toNat = a.toNat ∧ f.b.toNat = b.toNat ∧ f.fn.toNat = op.toNat ∧ f.imm = 0))

/-- R16: s0 reads as zero and p0 reads as 1, a write to either changes nothing, and a write to another register changes that
register and no other. -/
def Obligations.HardwiredRegisters : Prop :=
  ∀ (c : Ctx) (d r : SReg) (e q : PReg) (v : Word) (b : Bool),
    c.getS 0 = 0 ∧ c.getP 0 = true ∧ c.putS 0 v = c ∧ c.putP 0 b = c ∧
    (c.putS d v).getS r = (if r = 0 then 0 else if r = d then v else c.getS r) ∧ (c.putS d v).p = c.p ∧
    (c.putP e b).getP q = (if q = 0 then true else if q = e then b else c.getP q) ∧ (c.putP e b).s = c.s ∧
    (c.putS d v).pc = c.pc ∧ (c.putP e b).pc = c.pc

/-- R18, R259: an instruction whose guard fails changes no state but the issuing slot and the PC, with the loop-end step of
R260; and when no agent of the unit may issue, a strand instruction does nothing. -/
def Sys2Proof.Claims.FailedGuardOnlyRetires : Prop :=
  ∀ (i : Instr) (g : Guard) (s : State), guardOf i = some g →
    (∀ u, s.issuer = some u → guardHolds (s.ctx u) g = false → exec i s = .next ((noteIssue s u).retire u)) ∧
    (s.issuer = none → exec i s = .next s)

/-- R24, R263, R285: NOP and YIELD change nothing but the PC and the issuing slot; a bound loop ends or goes on as for any word. So does
FENCE, in a part that performs each agent's accesses in order (log entry 9), while no access that its agent has gone on from is still to be
performed that is of a class which it orders and leads into its scope; until then it is not begun. -/
def Sys2Proof.Claims.NopYieldFence : Prop :=
  ∀ (s : State) (u : Agent) (g : Guard) (pr pw sr sw : Bool) (sc : ScopeCode), Issues s u g →
    exec (.nop g) s = .next ((noteIssue s u).retire u) ∧ exec (.yield g) s = .next ((noteIssue s u).retire u) ∧
    let waits : Prop := ∃ p ∈ s.pend, p.agent = u ∧ p.stale = true ∧ p.orphan = false ∧
      ((pr = true ∧ accReads p.kind = true) ∨ (pw = true ∧ accWrites p.kind = true)) ∧
      (p.parts = [] ∨ ∃ x ∈ p.parts, inScope s u sc x.1 = true)
    (¬ waits → exec (.fence g pr pw sr sw sc) s = .next ((noteIssue s u).retire u)) ∧
    (waits → exec (.fence g pr pw sr sw sc) s = .next (noteIssue s u))

/-- R260: the loop-end step. Entries from the top that end here and have no iteration left are popped; then the next entry, if
it ends here too, starts its next iteration at its head, with the new index in its index register; otherwise the PC advances
by 8. -/
def Sys2Proof.Claims.LoopEndStep : Prop :=
  ∀ (c : Ctx) (done : List LoopEntry), (∀ l ∈ done, l.last = c.pc ∧ l.n.toNat ≤ (l.i + 1).toNat) →
    (c.loops = done → c.retire = { c with loops := [], pc := c.pc + 8 }) ∧
    (∀ l rest, c.loops = done ++ l :: rest → l.last ≠ c.pc → c.retire = { c with loops := l :: rest, pc := c.pc + 8 }) ∧
    (∀ l rest, c.loops = done ++ l :: rest → l.last = c.pc → (l.i + 1).toNat < l.n.toNat →
      c.retire = ({ c with loops := { l with i := l.i + 1 } :: rest, pc := l.head } : Ctx).putS l.xreg (l.i + 1))

/-- R259: the taken transfers. BR and CALL go to PC + 8 × IMM, BRX and RET to s[A]; CALL and BRX.L leave the return address in
s30. A taken transfer makes no loop-end step. -/
def Sys2Proof.Claims.TakenTransfers : Prop :=
  ∀ (s : State) (u : Agent) (g : Guard) (off : BitVec 32) (a : SReg) (link : Bool), Issues s u g →
    let pc := (s.ctx u).pc
    let dest := int64 ((pc.toNat : Int) + 8 * off.toInt)
    exec (.br g off) s = .next (goesTo (noteIssue s u) u dest) ∧
    exec (.call g off) s = .next (goesTo ((noteIssue s u).putS u 30 (pc + 8)) u dest) ∧
    ((s.getS u a).toNat % 8 = 0 →
      exec (.brx g link a) s =
        .next (goesTo (if link then (noteIssue s u).putS u 30 (pc + 8) else noteIssue s u) u (s.getS u a)) ∧
      exec (.ret g a) s = .next (goesTo (noteIssue s u) u (s.getS u a)))

/-- R23, R259, R268: BRX, RET and TRET to an address that is no multiple of 8 raise ALIGN detail 0x01 with that address, at
the transferring instruction, before s30 or the PC changes. -/
def Sys2Proof.Claims.MisalignedTransfersTrap : Prop :=
  ∀ (s : State) (u : Agent) (g : Guard) (a : SReg) (link : Bool), Issues s u g →
    ((s.getS u a).toNat % 8 ≠ 0 →
      exec (.brx g link a) s = .next (takeFault (noteIssue s u) u { cls := 3, detail := 1, addr := s.getS u a }) ∧
      exec (.ret g a) s = .next (takeFault (noteIssue s u) u { cls := 3, detail := 1, addr := s.getS u a })) ∧
    ((s.ctx u).hepc.toNat % 8 ≠ 0 →
      exec (.tret g) s = .next (takeFault (noteIssue s u) u { cls := 3, detail := 1, addr := (s.ctx u).hepc }))

/-- R260: the open form of LOOP, with a zero count, a full stack (ILLEGAL detail 0x39) and a push, and LOOP.BRK. -/
def Sys2Proof.Claims.LoopForms : Prop :=
  ∀ (s : State) (u : Agent) (g : Guard) (d a : SReg) (last : BitVec 20), Issues s u g →
    let c := s.ctx u
    let e := nat64 (c.pc.toNat + 8 * last.toNat)
    (c.getS a = 0 → exec (.loop g d a last) s =
      .next (goesTo ((noteIssue s u).putS u d 0) u (e + 8))) ∧
    (c.getS a ≠ 0 → 4 ≤ c.loops.length →
      exec (.loop g d a last) s = .next (takeFault (noteIssue s u) u { cls := 1, detail := 0x39, addr := 0 })) ∧
    (c.getS a ≠ 0 → c.loops.length < 4 → exec (.loop g d a last) s =
      .next ((((noteIssue s u).modCtx u (fun c => { c with
        loops := ⟨0, c.getS a, c.pc + 8, e, d⟩ :: c.loops })).putS u d 0).retire u)) ∧
    exec (.loopBrk g) s = .next (((noteIssue s u).modCtx u (fun c => { c with loops := c.loops.drop 1 })).retire u)

end Strand

section Decoding

open Sys2Proof Sys2Proof.Machine Sys2Proof.Claims

/-- Words printed in the spec beside their assembly (R25, R48, R88, R97, R119, R139, R246, R259 and the programs) decode to the
instruction that they stand for, read as a strand or, for the last, as a hub core. -/
def Obligations.SpecWordsDecode : Prop :=
  let p1 : Guard := ⟨1, false⟩
  let g : Guard := ⟨0, false⟩
  decodeStrand false 0x02A4202000000008 = .ok (.add ⟨2, true⟩ 4 4 (.imm 8)) ∧
  decodeStrand false 0x600511A420000010 = .ok (.ld g ⟨2, 1, 0, 1⟩ 5 2 6 16) ∧
  decodeStrand false 0x6406183000000040 = .ok (.ld2 g ⟨3, 0, 0, 0⟩ 6 3 0 64) ∧
  decodeStrand false 0x68071A2820000018 = .ok (.atom g ⟨2, 2, 0, 1⟩ 0 7 3 8 24) ∧
  decodeStrand false 0x8002200000000000 = .ok (.cpy g 2 4 0) ∧
  decodeStrand false 0x7603000000000004 = .ok (.wait g false 3 4) ∧
  decodeStrand false 0x9202080000000000 = .ok (.qind g false 2 1 0) ∧
  decodeStrand false 0x9801100000000005 = .ok (.qflag g 1 2 5) ∧
  decodeStrand false 0xB4015A4020000404 = .ok (.ginv g 1 1 9 11 128 4) ∧
  decodeStrand false 0xB240000120000002 = .ok (.grunT p1 1 0 0 2) ∧
  decodeStrand false 0x50600000FFFFFFF9 = .ok (.br ⟨1, true⟩ 0xFFFFFFF9) ∧
  decodeStrand false 0x5A04004000000000 = .ok (.itnext g 4 1) ∧
  decodeStrand false 0x580C580000000005 = .ok (.loop g 12 11 5) ∧
  decodeStrand false 0x0A07290000000000 = .ok (.div g false 7 5 (.reg 4)) ∧
  decodeStrand false 0xDA02200080000000 = .ok (.tsend g 4 2 4 0) ∧
  decodeStrand false 0xC203000020000000 = .ok (.brun g 1 3 0) ∧
  decodeStrand false 0xA0E1881060000000 = .ok (.merge ⟨3, true⟩ 0 false true false 3 1 17 0) ∧
  decodeStrand false 0x3619_4D42_0000_0000 = .ok (.ixa g 2 25 9 (.reg 21)) ∧
  decodeStrand false 0x7408000240000002 = .ok (.meetAw g 2 8 0 2) ∧
  decodeStrand false 0xD000000000000005 = .ok (.gear g false 5) ∧
  decodeStrand false 0x280730000000007E = .ok (.bfx g false 7 6 62 1) ∧
  decodeStrand false 0xE2006000000000C3 = .ok (.kwr g 0x0C3 12) ∧
  decodeStrand true 0xEE00000000000000 = .ok (.idle g 0) ∧
  decodePattern 0x05403FFF = some (.pset 5 0x3FFF) ∧
  decodePattern 0x45800003 = some (.ploop 6 0 3) ∧
  decodePattern 0x59D14004 = some (.pdil 7 4 5 4)

/-- R18-R24, R29: decoding the word of a well-formed instruction gives the instruction, with every operand at every value that
its encoding admits: a strand word as the agent that may issue it reads it, a pattern word as a generator does. -/
def Obligations.DecodeOfEncodeIsInstruction : Prop :=
  ∀ i : Instr, wellFormed i = true →
    (∀ w, encodeStrand i = some w → decodeStrand (hubOnly i) w = .ok i) ∧
    (∀ w, encodePattern i = some w → decodePattern w = some i)

/-- R18-R24, R29: a word that decodes, as a strand or as a hub core reads it, is the one encoding of the instruction that it
decodes to, and that instruction is well formed: no reserved bit is dropped. -/
def Obligations.DecodedWordIsItsEncoding : Prop :=
  (∀ (hub : Bool) (w : Word) (i : Instr), decodeStrand hub w = .ok i → encodeStrand i = some w ∧ wellFormed i = true) ∧
  (∀ (w : Half) (i : Instr), decodePattern w = some i → encodePattern i = some w ∧ wellFormed i = true)

/-- R19, R24: an unassigned opcode is ILLEGAL detail 0x01 for strands and hub cores; a strand's TRET, STOPR or IDLE is PRIV; a
hub core's region or tile instruction is ILLEGAL detail 0x05; whatever the rest of the word holds. -/
def Sys2Proof.Claims.OpcodeRejections : Prop :=
  ∀ (w : Word) (hub : Bool),
    let opc := w.toNat / 2 ^ 57
    (opc ∈ [0x1C, 0x1D, 0x1E, 0x1F, 0x23, 0x24, 0x25, 0x26, 0x27, 0x3D, 0x3E, 0x3F, 0x45, 0x46, 0x47, 0x4E, 0x4F,
        0x54, 0x55, 0x56, 0x57, 0x5D, 0x5E, 0x5F, 0x6F, 0x78, 0x79, 0x7A, 0x7B, 0x7C, 0x7D, 0x7E, 0x7F] →
      decodeStrand hub w = .error (.illegal 0x01)) ∧
    (opc ∈ [0x73, 0x76, 0x77] → decodeStrand false w = .error .priv) ∧
    (opc ∈ [0x2D, 0x48, 0x49, 0x4A, 0x4B, 0x4C, 0x4D, 0x50, 0x51, 0x52, 0x53, 0x58, 0x59, 0x5A, 0x5B, 0x5C, 0x60, 0x61,
        0x62, 0x63, 0x64, 0x65, 0x66, 0x67, 0x68, 0x69, 0x6A] → decodeStrand true w = .error (.illegal 0x05))

/-- R272, R273: KRD and KWR of an index that the map does not assign is ILLEGAL detail 0x3A, of a hub core's register PRIV in a
strand, and of a region or tile register ILLEGAL detail 0x05 in a hub core; these are checked after every other field. -/
def Sys2Proof.Claims.ControlIndexChecks : Prop :=
  ∀ (g : Guard) (d a : SReg) (idx : BitVec 12) (hub : Bool) (w : Word),
    (encodeStrand (.krd g d idx) = some w ∨ encodeStrand (.kwr g idx a) = some w) →
    (kregPriv idx.toNat = none → decodeStrand hub w = .error (.illegal 0x3A)) ∧
    (kregPriv idx.toNat = some .hub → decodeStrand false w = .error .priv) ∧
    (kregPriv idx.toNat = some .tile → decodeStrand true w = .error (.illegal 0x05))

end Decoding

namespace Sys2Proof.Claims

open Sys2Proof.Machine

/-- The state in which an agent fetches: without the probes and the arrivals of instructions that it has left. -/
def fetching (s : State) (u : Agent) : State := leaveMet (leaveProbes s u) u

end Sys2Proof.Claims

section Machine

open Sys2Proof Sys2Proof.Machine Sys2Proof.Claims

/-- R18, R19, R23, R249, R338: a turn of the current unit fetches the 8 bytes at the issuing agent's PC as a little-endian word, meters
them as 8 bytes read, and the step is exec of the decoded instruction at that state; a fetch or decode fault is taken whatever the guard;
an agent whose fetch must wait passes its turn on. Before the fetch go what a home has answered to an instruction that the agent has left, and
what it has arrived at with one (R287). A fetch is metered but counts for no frame (log entry 20), and the PRIV that a decode check raises has detail 0
(log entry 18): both are the model's choices. Through a TILE window nothing is metered. A generator's turn runs the word at its PC; an event or turn that State.moves names comes first; and with
nothing to issue a beat of the package passes. -/
def Obligations.StepRunsDecodedInstruction : Prop :=
  ∀ (s : State), turnOk s.cur = true →
    (∀ u, let b := fetching s u
      b = { s with ctxs := b.ctxs, pend := b.pend } ∧ (∀ v, b.ctx v = { s.ctx v with met := (b.ctx v).met }) ∧ (∀ p ∈ b.pend, p ∈ s.pend) ∧
      ∀ p ∈ s.pend, p ∈ b.pend ∨ (p.agent = u ∧ p.kind = .probe none ∧ p.pc ≠ (s.ctx u).pc)) ∧
    (∀ u s1 ps, s.moves = [] → s.issuer = some u →
      let q := s.req u true
      let pc := (s.ctx u).pc
      route (fetching s u) q .fetch pc 8 = (s1, .ok ps) → waitsNow s1 q ps = false → partFault s1 true pc ps = none →
      let w : Word := nat64 (leNat (readPlaces s1 ps))
      let s2 := countPlaces s1 q ps
      (∀ i, decodeStrand u.isHub w = .ok i → step s = exec i s2) ∧
      (∀ k, decodeStrand u.isHub w = .error (.illegal k) →
        step s = .next (takeFault s2 u { cls := 1, detail := k.toNat, addr := 0 })) ∧
      (decodeStrand u.isHub w = .error .priv → step s = .next (takeFault s2 u { cls := 2, detail := 0, addr := 0 }))) ∧
    (∀ u s1 ps, s.moves = [] → s.issuer = some u → route (fetching s u) (s.req u true) .fetch (s.ctx u).pc 8 = (s1, .ok ps) →
      waitsNow s1 (s.req u true) ps = true → step s = .next (noteIssue (noteProbe s1 (s.req u true) (s.ctx u).pc 8 ps) u)) ∧
    (∀ u s1 f, s.moves = [] → s.issuer = some u → route (fetching s u) (s.req u true) .fetch (s.ctx u).pc 8 = (s1, .fault f) →
      step s = .next (takeFault s1 u f)) ∧
    (∀ d t k i, let u := Agent.strand d t k
      let loc := 2 ^ 56 + (d * 144 + t) * 2 ^ 20 + (s.ctx u).pc.toNat % 2 ^ 20
      s.moves = [] → s.issuer = some u → (s.ctx u).apTile.toNat % 2 = 1 →
      (s.ctx u).apTile.toNat / 2 ^ 20 = (s.ctx u).pc.toNat / 2 ^ 20 → (s.ctx u).pc.toNat % 8 = 0 → poisonedAt s loc 8 = false →
      decodeStrand false (nat64 (((List.range 8).map (fun k => (mget s.mem (loc + k)).toNat * 256 ^ k)).sum)) = .ok i →
      step s = exec i (fetching s u)) ∧
    (∀ d t g w i, s.moves = [] → s.generator = some (d, t, g) → (s.gen d t g).prog[(s.gen d t g).pc]? = some w →
      decodePattern w = some i → step s = exec i s) ∧
    (∀ i ms, s.moves = .event i :: ms → step s = exec i { s with moves := ms }) ∧
    (∀ x ms, s.moves = .turn x :: ms → step s = stepTurn { s with moves := ms, cur := x }) ∧
    (s.moves = [] → s.issuer = none → s.generator = none → step s = exec .schedulerTick s)

/-- R249: the strand that issues is the first ready one in slot order after the slot that issued last, wrapping from 3 to 0; a
ready strand runs, waits for nothing, also for no fetch and for no schedule that it starts with (R329), has no fault pending, is not frozen,
belongs to no halted partition, its tile is in no gear or spine change and no package stall (R290), and the coming cycle of its region's
run is not an empty one (R165). -/
def Obligations.IssueOrder : Prop :=
  ∀ (s : State) (d t k : Nat), s.cur = .tile d t → k < 4 →
    (s.issuer = some (.strand d t k) ↔
      s.ready (.strand d t k) = true ∧
      ∀ n, n < 4 → ((n + 3 - (s.tile d t).last % 4) % 4 < (k + 3 - (s.tile d t).last % 4) % 4) →
        s.ready (.strand d t n) = false) ∧
    (s.ready (.strand d t k) = true →
      (s.ctx (.strand d t k)).run = .running ∧ (s.ctx (.strand d t k)).stall = .none ∧ (s.tile d t).st = .run ∧
      (s.ctx (.strand d t k)).fault = none ∧ (s.ctx (.strand d t k)).frozen = false ∧ s.halted (.strand d t k) = false ∧
      probing s (.strand d t k) = false ∧ s.shake = false ∧
      (∀ n, n < 8 → ¬ (((s.ctx (.strand d t k)).getSch n).st = .run ∧ ((s.ctx (.strand d t k)).getSch n).count = 0)) ∧
      (∀ x u, s.region ⟨d, t, k⟩ = some x → x.run = some u → u.started = true → u.fault = none → u.stopped = false →
        dutyBit (dutyNow x) = true))

/-- What reset leaves. Where the spec gives it: no strand or hub core runs, the window registers of R77, tokens IDLE (R96), the
loop stack empty, mileposts and ticks zero (R311), no stop record, no task, TRKCFG and TRKSTAT as R68 gives them, NUMFLG clear
and SEED's register at 1 in a new region (R63), the spine table of R289 and no keyed stream; the buffers read zero (R75). Where the spec
gives nothing, the model's choice: main memory reads 0 (log entry 1), so do the hub cores' registers, predicates, tokens and loops (log entry 3),
and each die's counters stand at 0 until they begin (log entry 16). -/
def Obligations.ResetState : Prop :=
  let s := State.reset
  (∀ a, (s.ctx a).run = .off ∧ (s.ctx a).p = 0 ∧ (s.ctx a).loops = [] ∧ (s.ctx a).hashst = 0 ∧ (s.ctx a).hstat = false ∧
    (∀ n, (s.ctx a).getTok n = ⟨.idle, 0⟩) ∧ (∀ n, (s.ctx a).getS n = 0) ∧ (∀ n, ((s.ctx a).getQ n).mode = .unbound)) ∧
  (∀ d, (s.die d).tick = 0 ∧ (s.die d).raw = 0 ∧ (s.die d).swrt = 0 ∧ (s.die d).hdoor = 0 ∧ (s.die d).rdy = false ∧
    (s.die d).dmver = 0 ∧ (s.die d).lanehub = 0) ∧
  (∀ qs h w, (newRegion qs h w).seed = 1 ∧ (newRegion qs h w).numflg = 0) ∧
  (∀ d t n, (s.trk d t n).satth = 0xFFFF ∧ (s.trk d t n).unfth = 0xFFFF ∧ (s.trk d t n).lastscl = 0x7F) ∧
  s.tasks = [] ∧ s.ops = [] ∧ s.pend = [] ∧ s.migs = [] ∧ s.ide = [] ∧ s.power = .off ∧
  s.sptab.map (fun e => (e.minlv.toNat, e.freq.toNat)) =
    [(7, 2700), (6, 2400), (5, 2100), (4, 1800), (3, 1350), (2, 1000), (1, 750), (0, 500)] ∧
  (∀ a, mget s.mem a = 0)

/-- The memory of the machine after reset is in canonical form. -/
def Obligations.ResetMemoryCanonical : Prop := Safety.memInv State.reset

/-- Every step that answers a next state keeps the memory in its canonical form: locations strictly rise and no zero byte is
listed, so that equal memories are equal data. -/
def Obligations.StepKeepsMemoryCanonical : Prop :=
  ∀ s t : State, Safety.memInv s → step s = .next t → Safety.memInv t

/-- R4: the memory operations. A byte written is the byte read, every other byte reads as before, and the canonical form is
kept; two canonical memories that read alike everywhere are the same data. -/
def Sys2Proof.Claims.MemoryLaws : Prop :=
  ∀ (m : Memory) (a b : Nat) (v : Byte), Memory.wf m = true →
    Memory.wf (mset m a v) = true ∧ mget (mset m a v) b = (if b = a then v else mget m b) ∧
    (∀ bs, Memory.wf (mwrite m a bs) = true ∧ mread (mwrite m a bs) a bs.length = bs ∧
      (b < a ∨ a + bs.length ≤ b → mget (mwrite m a bs) b = mget m b)) ∧
    (∀ m', Memory.wf m' = true → (∀ x, mget m' x = mget m x) → m' = m)

end Machine

section Faults

open Sys2Proof Sys2Proof.Machine Sys2Proof.Claims

/-- R251: a hub core's fault other than ISOL enters its handler: HEPC, HCAUSE (class and detail), HFADDR and HSTAT.IN are
written and the PC becomes HTVEC's address; while HSTAT.IN is already 1 the core stops, the double fault is reported and
nothing else changes, but that the accesses of the abandoned instruction are on their way for nobody. ISOL freezes the core. -/
def Sys2Proof.Claims.HubHandlerEntry : Prop :=
  ∀ (s : State) (d k : Nat) (f : FaultInfo),
    let u := Agent.hub d k
    let c := s.ctx u
    (f.cls ≠ 0x0E → c.hstat = false → takeFault s u f = (abandonPend s u).setCtx u { c with
      hepc := c.pc, hcause := nat64 (f.cls * 256 + f.detail), hfaddr := f.addr, hstat := true, stall := .none,
      pc := nat64 (c.htvec.toNat / 8 * 8) }) ∧
    (f.cls ≠ 0x0E → c.hstat = true →
      ((takeFault s u f).ctx u) = { c with run := .halted, stall := .none } ∧
      (takeFault s u f) = ((abandonPend s u).setCtx u { c with run := .halted, stall := .none }).setDie d { s.die d with
        dblf := (s.die d).dblf ||| (1#4 <<< k), stop := (s.die d).stop ||| (1#4 <<< k) }) ∧
    (f.cls = 0x0E → ((takeFault s u f).ctx u) = { c with frozen := true } ∧ (takeFault s u f).mem = s.mem)

/-- R340, R341: a strand's fault is kept with the tick count of its die, ends its stall, leaves its registers and PC, and raises
the halt line of its partition unless the line is up already; the other strands' contexts and memory are unchanged. -/
def Sys2Proof.Claims.StrandFaultHaltsPartition : Prop :=
  ∀ (s : State) (d t k : Nat) (f : FaultInfo), f.cls ≠ 0x0E →
    let u := Agent.strand d t k
    let s' := takeFault s u f
    s'.ctx u = { s.ctx u with fault := some { f with tick := (s.die d).tick }, stall := .none, ticks := 0 } ∧
    s'.mem = s.mem ∧ s'.regions = s.regions ∧ (∀ v, agentKey v ≠ agentKey u → s'.ctx v = s.ctx v) ∧
    (∀ n x, (s.ctx u).task = some n → s.task n = some x →
      ∃ y, s'.task n = some y ∧ (x.halt = none → y.halt = some .fault ∧ y.haltTick = (s.die x.die).tick) ∧
        (x.halt ≠ none → y = x)) ∧
    ((s.ctx u).task = none → s'.tasks = s.tasks)

/-- R267, R260: TRAP raises class TRAP with its code after its own loop-end step, so that the PC that is reported is the one
after it: a strand's TRAP raises its partition's halt line, a hub core's enters the handler. -/
def Sys2Proof.Claims.TrapTakesFault : Prop :=
  ∀ (s : State) (u : Agent) (g : Guard) (code : BitVec 8), Issues s u g →
    exec (.trap g code) s = .next (takeFault ((noteIssue s u).retire u) u { cls := 0x14, detail := code.toNat, addr := 0 })

/-- R268: TRET sets PC := HEPC and HSTAT.IN := 0. With a HEPC that is no multiple of 8 it raises ALIGN detail 0x01 instead, which
is a double fault while HSTAT.IN is 1. Every field of its word but PG and PN is zero. -/
def Obligations.HandlerReturn : Prop :=
  (∀ (s : State) (d k : Nat) (g : Guard), Issues s (.hub d k) g →
    let u := Agent.hub d k
    let c := s.ctx u
    (c.hepc.toNat % 8 = 0 → exec (.tret g) s = .next ((endProbes s u).setCtx u { c with pc := c.hepc, hstat := false })) ∧
    (c.hepc.toNat % 8 ≠ 0 → exec (.tret g) s = .next (takeFault s u { cls := 3, detail := 1, addr := c.hepc })) ∧
    (c.hepc.toNat % 8 ≠ 0 → c.hstat = true → ∃ t : State, exec (.tret g) s = .next t ∧
      t.ctx u = { c with run := .halted, stall := .none } ∧
      (t.die d).dblf = (s.die d).dblf ||| (1#4 <<< k) ∧ (t.die d).stop = (s.die d).stop ||| (1#4 <<< k))) ∧
  (∀ f : StrandFields, f.opc = 0x73 →
    decodeStrand true f.word =
      if f.d = 0 ∧ f.a = 0 ∧ f.b = 0 ∧ f.fn = 0 ∧ f.imm = 0 then .ok (.tret f.guard) else .error (.illegal 2))

/-- R264-R266: HALT stops the issuing core or strand for good; CKPT answers whether the task is DRAINING (0 in a hub core); EST
replaces the task's estimate by Min(s[A], 0xFFFFFFFF), and lets the scheduler choose DRAIN again (R332). -/
def Sys2Proof.Claims.TaskControl : Prop :=
  ∀ (s : State) (u : Agent) (g : Guard) (d : PReg) (a : SReg), Issues s u g →
    (∃ t : State, exec (.halt g) s = .next t ∧ t.ctx u = { s.ctx u with run := .halted } ∧ t.ops = s.ops ∧ t.mem = s.mem) ∧
    (s.taskOf u = none →
      exec (.ckpt g d) s = .next (wrotePred s u d false) ∧ exec (.est g a) s = .next ((noteIssue s u).retire u)) ∧
    (∀ n k, s.taskOf u = some n → s.task n = some k →
      exec (.ckpt g d) s = .next (wrotePred s u d (decide (k.st = .draining))) ∧
      exec (.est g a) s = .next (((noteIssue s u).modTask n (fun k => { k with
        est := min (s.getS u a).toNat 0xFFFFFFFF, noDrain := false })).retire u))

/-- R270: IDLE retires at once when a record waits in the core's lanes, its doorbell is set, or a nonzero s[A] is at most the
die's tick count; otherwise it stalls until one of them holds. It changes nothing but the PC. -/
def Obligations.IdleWaits : Prop :=
  ∀ (s : State) (d k : Nat) (g : Guard) (a : SReg),
    let u := Agent.hub d k
    let ended (t : Word) : Prop := stopNext s d k ≠ none ∨ (s.die d).hdoor.getLsbD k = true ∨
      (t ≠ 0 ∧ t.toNat ≤ (s.die d).tick.toNat)
    (Issues s u g → ended (s.getS u a) → exec (.idle g a) s = .next (s.retire u)) ∧
    (Issues s u g → ¬ ended (s.getS u a) →
      exec (.idle g a) s = .next (s.setCtx u { s.ctx u with stall := .idle (s.getS u a), ticks := 0 })) ∧
    (∀ t, (s.ctx u).stall = .idle t → (s.ctx u).frozen = false → ended t → exec (.idleWake d k) s = .next (s.endStall u)) ∧
    (∀ t, (s.ctx u).stall = .idle t → ¬ ended t → exec (.idleWake d k) s = .next s)

/-- R269: STOPR gives 0 when its lanes hold nothing; else it writes the oldest record, fast lane first, as 64 bytes at an
address that must be a multiple of 64, removes it from its lane and gives 1 or 3; a store that faults leaves the record. -/
def Sys2Proof.Claims.StopRecordRead : Prop :=
  ∀ (s : State) (d k : Nat) (g : Guard) (r a : SReg) (off : BitVec 29), Issues s (.hub d k) g →
    let u := Agent.hub d k
    let addr := int64 ((s.getS u a).toNat + off.toInt)
    (addr.toNat % 64 ≠ 0 → exec (.stopr g r a off) s = .next (takeFault s u { cls := 3, detail := 1, addr := addr })) ∧
    (addr.toNat % 64 = 0 → stopNext s d k = none → exec (.stopr g r a off) s = .next ((s.putS u r 0).retire u)) ∧
    (∀ fast n x s1, addr.toNat % 64 = 0 → stopNext s d k = some (fast, n, x) →
      writeGen s (s.req u) addr (leBytes 64 x.toNat) = (s1, .ok ()) →
      exec (.stopr g r a off) s = .next (((s1.modTask n (fun t =>
        if fast then { t with fast := t.fast.tail } else { t with slow := t.slow.tail })).putS u r (if fast then 3 else 1)).retire u)) ∧
    (∀ fast n x s1 f, addr.toNat % 64 = 0 → stopNext s d k = some (fast, n, x) →
      writeGen s (s.req u) addr (leBytes 64 x.toNat) = (s1, .fault f) →
      exec (.stopr g r a off) s = .next (takeFault s1 u f))

/-- R262: ITNEXT with no itinerary, an exhausted one, and an item: the item goes to s[D], p[B] says whether none was left, and the
tile's cursor advances by one only when an item was taken. A header with reserved bits is ILLEGAL detail 0x3B. -/
def Sys2Proof.Claims.ItineraryNext : Prop :=
  ∀ (s : State) (u : Agent) (g : Guard) (d : SReg) (p : PReg), Issues s u g →
    let s0 := noteIssue s u
    let x := s.tile u.die u.tile
    let base := nat64 (x.itbase.toNat / 8 * 8)
    let none_ (t : State) : State := ((t.putS u d 0).putP u p true).retire u
    (x.itbase.toNat % 2 = 0 → exec (.itnext g d p) s = .next (none_ s0)) ∧
    (∀ s1 h, x.itbase.toNat % 2 = 1 → readGen s0 (s0.req u) base 8 = (s1, .ok h) →
      (2 ^ 32 ≤ leNat h → h.length = 8 → exec (.itnext g d p) s = .next (takeFault s1 u { cls := 1, detail := 0x3B, addr := 0 })) ∧
      (leNat h < 2 ^ 32 → leNat h ≤ x.itcur.toNat → exec (.itnext g d p) s = .next (none_ s1)) ∧
      (∀ s2 v, leNat h < 2 ^ 32 → x.itcur.toNat < leNat h →
        readGen s1 (s1.req u) (base + 8 + nat64 (8 * x.itcur.toNat)) 8 = (s2, .ok v) →
        exec (.itnext g d p) s = .next ((((s2.putS u d (nat64 (leNat v))).putP u p false).modTile u.die u.tile
          (fun y => { y with itcur := y.itcur + 1 })).retire u)))

end Faults

namespace Sys2Proof.Claims

open Sys2Proof.Machine

/-- Every part of an access goes to a byte that no migration holds, of the issuer's die, so that the access is performed at once (R47,
R48). -/
def AtHome (s : State) (d : Nat) (ps : List Place) : Prop := ∀ p ∈ ps, mustWait s d p = false

/-- No access of an abandoned instruction of an agent is still to be performed (R280). -/
def Clear (s : State) (u : Agent) : Prop := ∀ p ∈ s.pend, p.agent = u → p.stale = true → p.orphan = true

/-- Whether a location is one of the bytes of some part of an access. -/
def covers (ps : List Place) (a : Nat) : Prop := ∃ p ∈ ps, p.loc ≤ a ∧ a < p.loc + p.len

/-- The bytes of a word, least significant first (R4). -/
def bytesOf (n : Nat) (v : Nat) : List Byte := (List.range n).map (fun i => BitVec.ofNat 8 (v / 256 ^ i))

/-- The number that bytes stand for, least significant first (R4). -/
def numOf : List Byte → Nat
  | [] => 0
  | b :: bs => b.toNat + 256 * numOf bs

/-- The state in which an issuing agent's access is routed. -/
def routed (s : State) (u : Agent) (nc : Bool) (need : Need) (a : Word) (n : Nat) (s1 : State) (ps : List Place) : Prop :=
  route (noteIssue s u) ((noteIssue s u).req u nc) need a n = (s1, .ok ps) ∧ AtHome s1 u.die ps

/-- The request of an agent's access. -/
def reqOf (s : State) (u : Agent) (nc : Bool) : Req := (noteIssue s u).req u nc

/-- The location of the byte that a strand's TILE window shows at an address: its own tile's buffer (R76, R77). -/
def tileLoc (u : Agent) (a : Word) : Nat := 2 ^ 56 + (u.die * 144 + u.tile) * 2 ^ 20 + a.toNat % 2 ^ 20

/-- `n` bytes at an address lie in a strand's enabled TILE window, and in one unit of 64 KiB (R50, R76). -/
def InTile (s : State) (u : Agent) (a : Word) (n : Nat) : Prop :=
  u.isHub = false ∧ u.die < 4 ∧ u.tile < 144 ∧ 0 < n ∧ (s.ctx u).apTile.toNat % 2 = 1 ∧
  (s.ctx u).apTile.toNat / 2 ^ 20 = a.toNat / 2 ^ 20 ∧ a.toNat % 65536 + n ≤ 65536

/-- None of those bytes is poisoned (R74). -/
def Sound (s : State) (u : Agent) (a : Word) (n : Nat) : Prop :=
  ∀ w ∈ s.poison, ¬ (w < tileLoc u a + n ∧ tileLoc u a < w + 8)

/-- The bytes that a strand's TILE window shows at an address. -/
def tileBytes (s : State) (u : Agent) (a : Word) (n : Nat) : List Byte := (List.range n).map (fun i => mget s.mem (tileLoc u a + i))

/-- The 8-byte words that it shows. -/
def tileWords (s : State) (u : Agent) (a : Word) (n : Nat) : List Word :=
  (List.range n).map (fun i => nat64 (((List.range 8).map (fun k => (mget s.mem (tileLoc u a + (8 * i + k))).toNat * 256 ^ k)).sum))

/-- What an issuing agent reads as `n` loads of 8 bytes at an address, and the state after: what the reads give, wherever the address leads; or
through an enabled TILE window, without poison, the bytes there, and nothing else changes (R50, R76, R99). -/
def Fetches (s : State) (u : Agent) (a : Word) (n : Nat) (s1 : State) (bs : List Byte) : Prop :=
  readLoads (noteIssue s u) ((noteIssue s u).req u) a n = (s1, .ok bs) ∨
  (InTile s u a (8 * n) ∧ Sound s u a (8 * n) ∧ s1 = noteIssue s u ∧ bs = tileBytes s u a (8 * n))

/-- What an issuing agent reads itself as one access of `n` bytes at an address, and the state after: what the read gives, or what an enabled TILE
window shows. -/
def ReadsAt (s : State) (u : Agent) (a : Word) (n : Nat) (s1 : State) (bs : List Byte) : Prop :=
  readGen (noteIssue s u) ((noteIssue s u).req u) a n = (s1, .ok bs) ∨
  (InTile s u a n ∧ Sound s u a n ∧ s1 = noteIssue s u ∧ bs = tileBytes s u a n)

/-- The windows of an operation of an agent are the agent's own, and none of the agent's accesses waits. -/
def AtIssue (s : State) (u : Agent) (o : EngOp) : Prop := o.agent = u ∧ o.apTile = (s.ctx u).apTile ∧ ∀ p ∈ s.pend, p.agent ≠ u

/-- A state whose memory has these bytes through the TILE window; a word that is written whole is no longer poisoned (R74). -/
def tileStored (s : State) (u : Agent) (a : Word) (bs : List Byte) : State :=
  { s with
    mem := mwrite s.mem (tileLoc u a) bs
    poison := s.poison.filter (fun w => !(decide (tileLoc u a ≤ w) && decide (w + 8 ≤ tileLoc u a + bs.length))) }

end Sys2Proof.Claims

section Memory

open Sys2Proof Sys2Proof.Machine Sys2Proof.Claims

/-- R22, R49, R50: a load of 1, 2, 4 or 8 bytes at s[A] + s[B] × size + offset reads those bytes, zero-extended, into s[D]; LD2
reads two elements into s[D] and s[D+1]; an element for s0 is discarded (R16). The access is counted, and no byte of memory changes. -/
def Sys2Proof.Claims.LoadResults : Prop :=
  ∀ (s s1 : State) (u : Agent) (g : Guard) (o : SmOpt) (d a b : SReg) (off : BitVec 29) (ps : List Place), Issues s u g →
    let n : Nat := 2 ^ o.size.toNat
    let addr := int64 ((s.getS u a).toNat + (s.getS u b).toNat * n + off.toInt)
    let nc := decide (o.hint = 1)
    let q := reqOf s u nc
    (routed s u nc .load addr n s1 ps → partFault s1 true addr ps = none → Clear s u → (o.order = 0 ∨ addr.toNat % n = 0) →
      ∃ t : State, exec (.ld g o d a b off) s = .next (t.retire u) ∧
        t = (countPlaces s1 q ps).putS u d (nat64 (numOf (readPlaces s1 ps))) ∧ t.mem = s.mem) ∧
    (routed s u nc .load addr (2 * n) s1 ps → partFault s1 true addr ps = none → Clear s u → (o.order = 0 ∨ addr.toNat % min (2 * n) 8 = 0) →
      ∃ t : State, exec (.ld2 g o d a b off) s = .next (t.retire u) ∧ t.mem = s.mem ∧
        t = ((countPlaces s1 q ps).putS u d (nat64 (numOf ((readPlaces s1 ps).take n)))).putS u (d + 1)
          (nat64 (numOf ((readPlaces s1 ps).drop n))))

/-- R22, R49, R50: a store of 1, 2, 4 or 8 bytes writes the low bytes of s[D], least significant first, to the parts that its
address routes to, in order; ST2 writes s[D] then s[D+1]. It changes no register. -/
def Sys2Proof.Claims.StoreResults : Prop :=
  ∀ (s s1 : State) (u : Agent) (g : Guard) (o : SmOpt) (d a b : SReg) (off : BitVec 29) (ps : List Place), Issues s u g →
    let n : Nat := 2 ^ o.size.toNat
    let addr := int64 ((s.getS u a).toNat + (s.getS u b).toNat * n + off.toInt)
    let nc := decide (o.hint = 1)
    let q := reqOf s u nc
    (routed s u nc .store addr n s1 ps → partFault s1 false addr ps = none → Clear s u → (o.order = 0 ∨ addr.toNat % n = 0) →
      exec (.st g o d a b off) s =
        .next ((writePlaces (countPlaces s1 q ps) ps (bytesOf n (s.getS u d).toNat)).retire u)) ∧
    (routed s u nc .store addr (2 * n) s1 ps → partFault s1 false addr ps = none → Clear s u → (o.order = 0 ∨ addr.toNat % min (2 * n) 8 = 0) →
      exec (.st2 g o d a b off) s =
        .next ((writePlaces (countPlaces s1 q ps) ps (bytesOf n (s.getS u d).toNat ++ bytesOf n (s.getS u (d + 1)).toNat)).retire u))

/-- The frame of a store, an atomic or a CAS: when it answers a next state without a fault, every byte outside the parts that its address routes
to reads as before, and no register of any other agent, no task and no engine operation changes. -/
def Obligations.StoreFrame : Prop :=
  ∀ (s t s1 : State) (u : Agent) (g : Guard) (o : SmOpt) (aop : BitVec 4) (d a b : SReg) (off : BitVec 29) (off5 : BitVec 25)
    (ps : List Place), Issues s u g →
    let n : Nat := 2 ^ o.size.toNat
    let nc := decide (o.hint = 1)
    let addr := int64 ((s.getS u a).toNat + (s.getS u b).toNat * n + off.toInt)
    let same (t : State) : Prop := (∀ x, ¬ covers ps x → mget t.mem x = mget s.mem x) ∧
      (∀ v, agentKey v ≠ agentKey u → t.ctx v = s.ctx v) ∧ t.tasks = s.tasks ∧ t.ops = s.ops ∧ t.regions = s.regions
    (routed s u nc .store addr n s1 ps → partFault s1 false addr ps = none → (o.order = 0 ∨ addr.toNat % n = 0) → exec (.st g o d a b off) s = .next t → same t) ∧
    (routed s u nc .store addr (2 * n) s1 ps → partFault s1 false addr ps = none → (o.order = 0 ∨ addr.toNat % min (2 * n) 8 = 0) →
      exec (.st2 g o d a b off) s = .next t → same t) ∧
    (routed s u nc .rmw (int64 ((s.getS u a).toNat + off5.toInt)) n s1 ps →
      partFault s1 true (int64 ((s.getS u a).toNat + off5.toInt)) ps = none →
      exec (.atom g o aop d a b off5) s = .next t → (int64 ((s.getS u a).toNat + off5.toInt)).toNat % n = 0 → same t) ∧
    (routed s u nc .rmw (int64 ((s.getS u a).toNat + off.toInt)) n s1 ps →
      partFault s1 true (int64 ((s.getS u a).toNat + off.toInt)) ps = none →
      exec (.cas g o d a b off) s = .next t → (int64 ((s.getS u a).toNat + off.toInt)).toNat % n = 0 → same t)

/-- R76, R79, R22: through an enabled TILE window a strand's aligned 8-byte store puts s[D] into its own tile's buffer at the
offset of the address in the window, a load of the same address then reads it back, and every other byte of memory is as before;
whatever the other windows, the page tables and the links hold. -/
def Sys2Proof.Claims.TileWindowStoreLoad : Prop :=
  ∀ (s : State) (d t k : Nat) (g : Guard) (r a : SReg) (hint : BitVec 2),
    let u := Agent.strand d t k
    let addr := s.getS u a
    let o := addr.toNat % 2 ^ 20
    let loc := 2 ^ 56 + (d * 144 + t) * 2 ^ 20 + o
    Issues s u g → d < 4 → t < 144 → (s.ctx u).apTile.toNat % 2 = 1 → (s.ctx u).apTile.toNat / 2 ^ 20 = addr.toNat / 2 ^ 20 →
    addr.toNat % 8 = 0 → Memory.wf s.mem = true → Clear s u →
    ∃ t1, exec (.st g ⟨3, 0, hint, 0⟩ r a 0 0) s = .next t1 ∧
      (∀ x, mget t1.mem x = if loc ≤ x ∧ x < loc + 8 then BitVec.ofNat 8 ((s.getS u r).toNat / 256 ^ (x - loc)) else mget s.mem x) ∧
      (∀ s' d', s'.mem = t1.mem → poisonedAt s' loc 8 = false → Issues s' u g → Clear s' u → (s'.ctx u).apTile = (s.ctx u).apTile →
        s'.getS u a = addr → exec (.ld g ⟨3, 0, hint, 0⟩ d' a 0 0) s' = .next (wrote s' u d' (s.getS u r)))

/-- R22, R49, R50, R76, R85-R87: through an enabled TILE window, and aligned where it must be, every load, store, ATOM and CAS completes, at
every width and with every ordering and hint, whatever the other windows, the page tables and the links hold: loads of bytes that
are not poisoned give them, stores write them, and an atomic replaces the old number m by the function of m and s[B] that AOP names. -/
def Sys2Proof.Claims.TileWindowAccesses : Prop :=
  ∀ (s : State) (u : Agent) (g : Guard) (o : SmOpt) (aop : BitVec 4) (d a b : SReg) (off : BitVec 29) (off5 : BitVec 25),
    Issues s u g → Clear s u →
    let n : Nat := 2 ^ o.size.toNat
    let addr := int64 ((s.getS u a).toNat + (s.getS u b).toNat * n + off.toInt)
    let a5 := int64 ((s.getS u a).toNat + off5.toInt)
    let a9 := int64 ((s.getS u a).toNat + off.toInt)
    let low (r : SReg) (k : Nat) : Nat := (s.getS u r).toNat % 2 ^ (8 * k)
    let val (x : Word) : Nat := numOf (tileBytes s u x n)
    let t0 := noteIssue s u
    (InTile s u addr n → (o.order = 0 ∨ addr.toNat % n = 0) →
      (Sound s u addr n → exec (.ld g o d a b off) s = .next (wrote s u d (nat64 (val addr)))) ∧
      exec (.st g o d a b off) s = .next ((tileStored t0 u addr (bytesOf n (low d n))).retire u)) ∧
    (InTile s u addr (2 * n) → (o.order = 0 ∨ addr.toNat % min (2 * n) 8 = 0) →
      (Sound s u addr (2 * n) → exec (.ld2 g o d a b off) s =
        .next (((t0.putS u d (nat64 (numOf ((tileBytes s u addr (2 * n)).take n)))).putS u (d + 1)
          (nat64 (numOf ((tileBytes s u addr (2 * n)).drop n)))).retire u)) ∧
      exec (.st2 g o d a b off) s = .next ((tileStored t0 u addr (bytesOf n (low d n) ++ bytesOf n (low (d + 1) n))).retire u)) ∧
    (InTile s u a5 n → Sound s u a5 n → a5.toNat % n = 0 →
      exec (.atom g o aop d a b off5) s =
        .next (((tileStored t0 u a5 (bytesOf n (atomNew aop n (val a5) (low b n)))).putS u d (nat64 (val a5))).retire u)) ∧
    (InTile s u a9 n → Sound s u a9 n → a9.toNat % n = 0 →
      exec (.cas g o d a b off) s =
        .next (((if val a9 = low b n then tileStored t0 u a9 (bytesOf n (low d n)) else t0).putS u d (nat64 (val a9))).retire u))

/-- R49, R50, R85, R87: an ordered load or store whose address is no multiple of its width, at most 8, and an ATOM or CAS whose
address is no multiple of its size, raise ALIGN detail 0x01 with that address, before anything else happens. -/
def Sys2Proof.Claims.MisalignedAccessesTrap : Prop :=
  ∀ (s : State) (u : Agent) (g : Guard) (o : SmOpt) (aop : BitVec 4) (d a b : SReg) (off : BitVec 29) (off5 : BitVec 25), Issues s u g →
    let n : Nat := 2 ^ o.size.toNat
    let addr := int64 ((s.getS u a).toNat + (s.getS u b).toNat * n + off.toInt)
    let a5 := int64 ((s.getS u a).toNat + off5.toInt)
    let a9 := int64 ((s.getS u a).toNat + off.toInt)
    let traps (i : Instr) (x : Word) : Prop := exec i s = .next (takeFault (noteIssue s u) u { cls := 3, detail := 1, addr := x })
    (o.order ≠ 0 → addr.toNat % n ≠ 0 → traps (.ld g o d a b off) addr ∧ traps (.st g o d a b off) addr) ∧
    (o.order ≠ 0 → addr.toNat % min (2 * n) 8 ≠ 0 → traps (.ld2 g o d a b off) addr ∧ traps (.st2 g o d a b off) addr) ∧
    (a5.toNat % n ≠ 0 → traps (.atom g o aop d a b off5) a5) ∧
    (a9.toNat % n ≠ 0 → traps (.cas g o d a b off) a9)

/-- R85, R86, R87: ATOM replaces the old value m of its n bytes by the function of m and v = s[B] mod 2^(8n) that AOP names
(the float sums by the function that the spec gives them), and s[D] takes m; CAS writes s[D]'s low bytes when m equals s[B]'s,
and s[D] takes m. -/
def Obligations.AtomicResults : Prop :=
  ∀ (s s1 : State) (u : Agent) (g : Guard) (o : SmOpt) (aop : BitVec 4) (d a b : SReg) (off : BitVec 29) (off5 : BitVec 25)
    (ps : List Place), Issues s u g → 2 ≤ o.size.toNat →
    let n : Nat := 2 ^ o.size.toNat
    let k := 8 * n
    let nc := decide (o.hint = 1)
    let q := reqOf s u nc
    let m := numOf (readPlaces s1 ps)
    let v := (s.getS u b).toNat % 2 ^ k
    let w := (s.getS u d).toNat % 2 ^ k
    let a5 := int64 ((s.getS u a).toNat + off5.toInt)
    let a9 := int64 ((s.getS u a).toNat + off.toInt)
    (routed s u nc .rmw a5 n s1 ps → partFault s1 true a5 ps = none → Clear s u → a5.toNat % n = 0 → ∃ m' : Nat,
      exec (.atom g o aop d a b off5) s =
        .next (((writePlaces (countPlaces s1 q ps) ps (bytesOf n m')).putS u d (nat64 m)).retire u) ∧
      (aop = 0 → m' = (m + v) % 2 ^ k) ∧ (aop = 1 → m' = m &&& v) ∧ (aop = 2 → m' = m ||| v) ∧ (aop = 3 → m' = m ^^^ v) ∧
      (aop = 4 → m' = v) ∧ (aop = 5 → m' = if signedOf m k ≤ signedOf v k then m else v) ∧
      (aop = 6 → m' = if signedOf m k ≤ signedOf v k then v else m) ∧ (aop = 7 → m' = min m v) ∧ (aop = 8 → m' = max m v) ∧
      (aop = 9 → m' = floatAdd fp32 m v) ∧
      (aop = 10 → m' = floatAdd bf16 (m % 2 ^ 16) (v % 2 ^ 16) + floatAdd bf16 (m / 2 ^ 16) (v / 2 ^ 16) * 2 ^ 16)) ∧
    (routed s u nc .rmw a9 n s1 ps → partFault s1 true a9 ps = none → Clear s u → a9.toNat % n = 0 →
      exec (.cas g o d a b off) s =
        .next (((if m = v then writePlaces (countPlaces s1 q ps) ps (bytesOf n w) else countPlaces s1 q ps).putS u d (nat64 m)).retire u))

/-- R83, R84: APCV turns an address into an offset of the one window that it names, or back, and gives all ones outside the
window, for an offset beyond its size, or while it is disabled; APIN tests an enabled window, or any of the three. -/
def Obligations.ApertureConversions : Prop :=
  ∀ (s : State) (u : Agent) (g : Guard) (sp : BitVec 2) (d a : SReg) (p : PReg), Issues s u g → sp ≠ 3 →
    let c := s.ctx u
    let v := (s.getS u a).toNat
    let reg : BitVec 2 → Word := fun k => if k = 0 then c.apTile else if k = 1 then c.apClus else c.apDie
    let size : BitVec 2 → Nat := fun k => if k = 0 then 2 ^ 20 else if k = 1 then 2 ^ 22 else 2 ^ 29
    let base : BitVec 2 → Nat := fun k => (reg k).toNat / size k * size k
    let inside : BitVec 2 → Prop := fun k => (reg k).toNat % 2 = 1 ∧ base k ≤ v ∧ v < base k + size k
    let ones := nat64 (2 ^ 64 - 1)
    (inside sp → exec (.apcvRel g sp d a) s = .next (wrote s u d (nat64 (v - base sp)))) ∧
    (¬ inside sp → exec (.apcvRel g sp d a) s = .next (wrote s u d ones)) ∧
    ((reg sp).toNat % 2 = 1 → v < size sp → exec (.apcvGen g sp d a) s = .next (wrote s u d (nat64 (base sp + v)))) ∧
    ((reg sp).toNat % 2 = 0 ∨ size sp ≤ v → exec (.apcvGen g sp d a) s = .next (wrote s u d ones)) ∧
    (inside sp → exec (.apin g sp p a) s = .next (wrotePred s u p true)) ∧
    (¬ inside sp → exec (.apin g sp p a) s = .next (wrotePred s u p false)) ∧
    ((inside 0 ∨ inside 1 ∨ inside 2) → exec (.apin g 3 p a) s = .next (wrotePred s u p true)) ∧
    (¬ (inside 0 ∨ inside 1 ∨ inside 2) → exec (.apin g 3 p a) s = .next (wrotePred s u p false))

/-- R51: PREF changes no register, no memory and no task, raises no fault, and leaves every page of its span that is in no
window and has a canonical address held or queued for a walk. R42: of the queued walks the first 32 run; one that ends leaves the queue, and installs
what it found for every cluster that waits for it, unless the page would fault. -/
def Sys2Proof.Claims.PrefetchAndWalks : Prop :=
  (∀ (s : State) (u : Agent) (g : Guard) (span : BitVec 2) (nc : Bool) (a b : SReg) (off : BitVec 29), Issues s u g →
    let addr := int64 ((s.getS u a).toNat + (s.getS u b).toNat * 2 ^ span.toNat + off.toInt)
    ∃ t : State, exec (.pref g span nc a b off) s = .next (t.retire u) ∧ t.ctxs = s.ctxs ∧ t.mem = s.mem ∧ t.tasks = s.tasks ∧
      t.poison = s.poison ∧
      ∀ i, i < 4 ^ span.toNat → u.isHub = false → canonical (addr + nat64 (65536 * i)) = true →
        windowOf (s.req u nc) (addr + nat64 (65536 * i)) = .virt →
        (tlbLookup s u.die (some (clusterOf u.tile)) ((s.ownerOf u).getD 0) (addr + nat64 (65536 * i))).isSome = true ∨
        (walkIx t u.die ((s.ownerOf u).getD 0) (addr + nat64 (65536 * i))).isSome = true) ∧
  (∀ (s : State) (d i : Nat), 32 ≤ i → exec (.walkComplete d i) s = .next s) ∧
  (∀ (s : State) (d i : Nat) (w : Walk), (s.die d).walks[i]? = some w → i < 32 →
    ∃ t : State, exec (.walkComplete d i) s = .next t ∧ (t.die d).walks = (s.die d).walks.eraseIdx i ∧ t.mem = s.mem ∧ t.ctxs = s.ctxs ∧
      (∀ l, walkOwner s d w.owner w.va = .ok l → populated s d (leafPa l w.va) 1 = true →
        t = installAll (s.modDie d (fun y => { y with walks := y.walks.eraseIdx i })) d w.owner w.va l w.clusters) ∧
      (∀ f, walkOwner s d w.owner w.va = .fault f → t = s.modDie d (fun y => { y with walks := y.walks.eraseIdx i })))

/-- R42, R48, R50, R88: a load, a store, LD2, ST2, ATOM or CAS, aligned where it must be, whose translation waits for a walk is not begun, and issues
again; one whose address leads to another die or package, to host memory, or to a frame that a migration has locked waits there: its strand stalls,
and the access stands in State.pend with its translation. An ATOM of an operation that PCIe has not raises HOST detail 0x01 there. -/
def Sys2Proof.Claims.AccessesWait : Prop :=
  ∀ (s s1 : State) (u : Agent) (g : Guard) (o : SmOpt) (aop : BitVec 4) (d a b : SReg) (off : BitVec 29) (off5 : BitVec 25) (ps : List Place),
    Issues s u g → Clear s u →
    let n : Nat := 2 ^ o.size.toNat
    let nc := decide (o.hint = 1)
    let s0 := noteIssue s u
    let q := reqOf s u nc
    let addr := int64 ((s.getS u a).toNat + (s.getS u b).toNat * n + off.toInt)
    let a5 := int64 ((s.getS u a).toNat + off5.toInt)
    let a9 := int64 ((s.getS u a).toNat + off.toInt)
    let low (r : SReg) : Word := nat64 ((s.getS u r).toNat % 2 ^ (8 * n))
    let away : Prop := ∃ p ∈ ps, mustWait s1 u.die p = true
    let hosted : Prop := ∃ p ∈ ps, isHost p.loc = true
    let waits (i : Instr) (need : Need) (k : AccKind) (x : Word) (len : Nat) : Prop :=
      (route s0 q need x len = (s1, .later) → exec i s = .next s1) ∧
      (route s0 q need x len = (s1, .ok ps) → away → (hosted → hostAtomic k = true) →
        exec i s = .next ((addPend s1 { pendOf s1 q k x n len ps with ord := o.order, scope := o.scope }).stallOn u .access)) ∧
      (route s0 q need x len = (s1, .ok ps) → hosted → hostAtomic k = false →
        exec i s = .next (takeFault s1 u { cls := 0x17, detail := 1, addr := x }))
    ((o.order = 0 ∨ addr.toNat % n = 0) →
      waits (.ld g o d a b off) .load (.load d false) addr n ∧
      waits (.st g o d a b off) .store (.store (bytesOf n (s.getS u d).toNat)) addr n) ∧
    ((o.order = 0 ∨ addr.toNat % min (2 * n) 8 = 0) →
      waits (.ld2 g o d a b off) .load (.load d true) addr (2 * n) ∧
      waits (.st2 g o d a b off) .store (.store (bytesOf n (s.getS u d).toNat ++ bytesOf n (s.getS u (d + 1)).toNat)) addr (2 * n)) ∧
    (a5.toNat % n = 0 → waits (.atom g o aop d a b off5) .rmw (.atom aop d (low b)) a5 n) ∧
    (a9.toNat % n = 0 → waits (.cas g o d a b off) .rmw (.cas d (low b) (low d)) a9 n)

/-- R47, R48, R49, R85-R87, R340, R344: an access that waits for its home is performed there later, once no migration holds it, a route reaches it,
the home's grant admits it and the accesses that its agent issued before are performed: it leaves the waiting accesses, its issuer leaves the stall and
retires, a load or LD2 puts the bytes into its registers, a store or ST2 writes its bytes, and an ATOM or CAS does as at home. A store whose
instruction was abandoned, or whose task has left, writes its bytes and nothing else. A home in another package that the owner's grant does not admit
refuses it with ISOL detail 0x04. A probe is answered, and an access that is held or cannot be reached stays. -/
def Sys2Proof.Claims.WaitingAccessPerforms : Prop :=
  ∀ (s : State) (i : Nat) (p : Pending), s.pend[i]? = some p → p.answered = false → p.failed = none →
    (∀ x ∈ s.pend.take i, x.agent = p.agent → x.orphan = true ∨ isProbe x = true) →
    let ps := pendPlaces p
    let s0 : State := { s with pend := s.pend.eraseIdx i }
    let u := p.agent
    let q := p.req
    let n := p.size
    let m := numOf (readPlaces s ps)
    let reached : Prop := ∀ x ∈ ps, locked s x.loc x.len = false ∧ homeReach s u.die x.loc = true
    let admitted : Prop := ∀ x ∈ ps, isBuffer x.loc = false → isHost x.loc = false → locPkg x.loc ≠ s.pkg.toNat →
      Config.homeGrants (locPkg x.loc) p.owner = true
    let waits : Prop := p.parts ≠ [] ∧ p.orphan = false ∧ p.stale = false ∧ (s.ctx u).stall = .access
    let becomes (t : State) : Prop := exec (.memoryAccessPerform i) s = .next (t.endStall u)
    let sound (rd : Bool) : Prop := partFault s rd p.addr ps = none
    (reached → admitted → waits →
      (∀ bs, p.kind = .store bs → sound false → becomes (writePlaces (countPlaces s0 q ps) ps bs)) ∧
      (∀ d, p.kind = .load d false → sound true →
        becomes ((countPlaces s0 q ps).putS u d (nat64 (numOf ((readPlaces s ps).take n))))) ∧
      (∀ d, p.kind = .load d true → sound true →
        becomes (((countPlaces s0 q ps).putS u d (nat64 (numOf ((readPlaces s ps).take n)))).putS u (d + 1) (nat64 (numOf ((readPlaces s ps).drop n))))) ∧
      (∀ aop d v, p.kind = .atom aop d v → sound true →
        becomes ((writePlaces (countPlaces s0 q ps) ps (bytesOf n (atomNew aop n m v.toNat))).putS u d (nat64 m))) ∧
      (∀ d e w, p.kind = .cas d e w → sound true →
        becomes ((if m = e.toNat then writePlaces (countPlaces s0 q ps) ps (bytesOf n w.toNat) else countPlaces s0 q ps).putS u d (nat64 m)))) ∧
    (∀ bs, p.kind = .store bs → p.parts ≠ [] → p.orphan = true ∨ p.stale = true → reached → admitted → sound false →
      ∃ t : State, exec (.memoryAccessPerform i) s = .next t ∧ t.mem = (writePlaces (countPlaces s0 q ps) ps bs).mem ∧
        t.pend = s0.pend ∧ ∀ v, t.ctx v = s.ctx v) ∧
    (reached → waits → isProbe p = false → (∃ x ∈ ps, x.len ≠ 0 ∧ isBuffer x.loc = false ∧ isHost x.loc = false ∧ locPkg x.loc ≠ s.pkg.toNat ∧
      Config.homeGrants (locPkg x.loc) p.owner = false) → ∃ f, f.cls = 0x0E ∧ f.detail = 4 ∧
        exec (.memoryAccessPerform i) s = .next (takeFault (s0.modCtx u (fun c => { c with stall := .none })) u f)) ∧
    (isProbe p = true → onItsWay s p = false → reached → admitted →
      exec (.memoryAccessPerform i) s = .next { s with pend := s.pend.set i { p with answered := true } }) ∧
    (¬ reached → exec (.memoryAccessPerform i) s = .next s)

end Memory

section Sync

open Sys2Proof Sys2Proof.Machine Sys2Proof.Claims

/-- R286-R288: an arrival at a barrier slot gives the phase, counts, and completes the phase when it is the last of N; a slot that
counts for another N raises BARTO detail 0x02 and is not counted; a wait ends when the slot's phase is another, and an
arrive-and-wait stalls until then, and only waits where its word has arrived before. -/
def Obligations.MeetBarriers : Prop :=
  ∀ (s : State) (u : Agent) (g : Guard) (sc : ScopeCode) (d a : SReg) (slot : BitVec 4) (n : BitVec 16), n ≠ 0 →
    let s0 := noteIssue s u
    let pc := (s.ctx u).pc.toNat
    let b := barSlot s0 u sc slot.toNat
    let b' : Barrier := if b.count.toNat + 1 = n.toNat then ⟨b.phase + 1, 0, n⟩ else ⟨b.phase, b.count + 1, n⟩
    let arrives (t : State) : State := setBarSlot (t.modCtx u (fun c =>
      { c.putS d (nat64 b.phase.toNat) with arrived := (sc, slot.toNat, b.phase) :: outstanding t u })) u sc slot.toNat b'
    let observed (t : State) : State := t.modCtx u (fun c => { c with met := tdel c.met c.pc.toNat })
    let free : Prop := b.count = 0 ∨ b.n = n
    (Issues s u g → free → exec (.meetArrive g sc d slot n) s = .next ((arrives s0).retire u)) ∧
    (Issues s u g → ¬ free → exec (.meetArrive g sc d slot n) s = .next (takeFault s0 u { cls := 0x0A, detail := 2, addr := 0 })) ∧
    (∀ ph, Issues s u g → ph = (s.getS u a).truncate 32 →
      (b.phase ≠ ph → exec (.meetWait g sc a slot) s = .next ((observed s0).retire u)) ∧
      (b.phase = ph → exec (.meetWait g sc a slot) s = .next (s0.stallOn u (.meet sc slot.toNat ph)))) ∧
    (Issues s u g → tfind (s.ctx u).met pc = none → free →
      (∃ t : State, exec (.meetAw g sc d slot n) s = .next t ∧
        ((barSlot (arrives s0) u sc slot.toNat).phase = b.phase →
          (t.ctx u).stall = .meet sc slot.toNat b.phase ∧ (t.ctx u).met = tset (s.ctx u).met pc b.phase ∧ (t.ctx u).pc = (s.ctx u).pc) ∧
        ((barSlot (arrives s0) u sc slot.toNat).phase ≠ b.phase →
          t = (observed ((arrives s0).modCtx u (fun c => { c with met := tset c.met pc b.phase }))).retire u))) ∧
    (∀ ph, Issues s u g → tfind (s.ctx u).met pc = some ph →
      (b.phase ≠ ph → exec (.meetAw g sc d slot n) s = .next ((observed s0).retire u)) ∧
      (b.phase = ph → exec (.meetAw g sc d slot n) s = .next (s0.stallOn u (.meet sc slot.toNat ph)))) ∧
    (∀ k ph, (s.ctx u).stall = .meet sc k ph → (barSlot s u sc k).phase ≠ ph → mayProceed s u = true → hasCycles s u = true →
      exec (.meetWaitComplete u) s = .next ((observed s).endStall u))

/-- R110, R111, R96: WAIT ends when every masked token, or in any mode one of them, is not BUSY, and its predicate says that none
of them is ERROR; until then it stalls. TOKQ gives the code of one token, or of all, and clears a settled one; clearing a BUSY
token raises TOKEN detail 0x03. -/
def Obligations.TokenWaits : Prop :=
  ∀ (s : State) (u : Agent) (g : Guard) (any : Bool) (p : PReg) (m : BitVec 8) (d : SReg) (t : TokIx),
    let st (i : Nat) : TokSt := ((s.ctx u).getTok i).st
    let masked (i : Nat) : Prop := i < 8 ∧ m.getLsbD i = true
    let ended : Prop := m = 0 ∨ (if any then ∃ i, masked i ∧ st i ≠ .busy else ∀ i, masked i → st i ≠ .busy)
    let fine : Bool := (List.range 8).all (fun i => !m.getLsbD i || decide (st i ≠ .error))
    (Issues s u g → ended → exec (.wait g any p m) s = .next (wrotePred s u p fine)) ∧
    (Issues s u g → ¬ ended → exec (.wait g any p m) s = .next ((noteIssue s u).stallOn u (.wait any p m))) ∧
    ((s.ctx u).stall = .wait any p m → ended → mayProceed s u = true → hasCycles s u = true →
      exec (.waitComplete u) s = .next ((s.putP u p fine).endStall u)) ∧
    (Issues s u g → exec (.tokqGet g d t) s = .next (wrote s u d (match st t.toNat with
      | .idle => 0 | .busy => 1 | .done => 2 | .error => 3))) ∧
    (Issues s u g → exec (.tokqAll g d) s = .next (wrote s u d (nat64 (((List.range 8).map (fun i => (match st i with
      | .idle => 0 | .busy => 1 | .done => 2 | .error => 3) * 4 ^ i)).sum)))) ∧
    (Issues s u g → st t.toNat = .busy →
      exec (.tokqClr g t) s = .next (takeFault (noteIssue s u) u { cls := 0x0B, detail := 3, addr := 0 })) ∧
    (Issues s u g → st t.toNat = .done ∨ st t.toNat = .error →
      exec (.tokqClr g t) s = .next (((noteIssue s u).putTok u t.toNat .idle).retire u)) ∧
    (Issues s u g → st t.toNat = .idle → exec (.tokqClr g t) s = .next ((noteIssue s u).retire u))

/-- R172, R173, R288: a wait that stalls for the ticks that the task's launch record allows ends in a fault of the waiting
agent: WAIT in HOLDTO detail 0x02, an access held by a migration in HOLDTO detail 0x03, of the agent or
of the operation that made it, MEET in BARTO detail 0x01; a limit field of
0 selects 1,000,000 ticks for HOLDTO and 20,000,000 for BARTO. -/
def Obligations.StallWatchdogs : Prop :=
  ∀ (s : State) (u : Agent) (n : Nat) (k : Task) (any : Bool) (p : PReg) (m : BitVec 8) (sc : ScopeCode) (slot i : Nat)
    (ph : BitVec 32) (x : Pending), s.taskOf u = some n → s.task n = some k → mayProceed s u = true →
    let limit (hi lo dflt : Nat) : Nat := if recBits k.lrec hi lo = 0 then dflt else recBits k.lrec hi lo
    ((s.ctx u).stall = .wait any p m → waitOver (s.ctx u) any m = false → limit 991 960 1000000 ≤ (s.ctx u).ticks →
      exec (.waitWatchdogExpiry u) s = .next (takeFault s u { cls := 0x09, detail := 2, addr := 0 })) ∧
    (s.pend[i]? = some x → x.agent = u → x.task = some n → x.orphan = false → x.stale = false → x.answered = false → x.failed = none →
      limit 991 960 1000000 ≤ x.heldTicks → ∀ y ys, x.parts = y :: ys → locked s y.1 y.2 = true →
      let f : FaultInfo := { cls := 0x09, detail := 3, addr := x.addr }
      (isProbe x = false → (s.ctx u).stall = .access → exec (.heldAccessWatchdogExpiry i) s =
        .next (takeFault ({ s with pend := s.pend.eraseIdx i }.modCtx u (fun c => { c with stall := .none })) u f)) ∧
      (∀ e, slot < 16 → x.kind = .probe (some slot) → s.op u slot = some e → opRuns s e = true → exec (.heldAccessWatchdogExpiry i) s =
        .next (opFault { s with pend := s.pend.eraseIdx i } u slot f))) ∧
    ((s.ctx u).stall = .meet sc slot ph → (barSlot s u sc slot).phase = ph → limit 1023 992 20000000 ≤ (s.ctx u).ticks →
      exec (.barrierTimeout u) s = .next (takeFault s u { cls := 0x0A, detail := 1, addr := 0 }))

end Sync

namespace Sys2Proof.Claims

open Sys2Proof.Machine

/-- A tile that no multi-tile region ties to others, so that it changes gear and spine alone (R294). -/
def Alone (s : State) (d t : Nat) : Prop := gearTiles s d t = [t]

end Sys2Proof.Claims

section Gears

open Sys2Proof Sys2Proof.Machine Sys2Proof.Claims

/-- R292-R294: GEAR and SPINE on a tile alone, with no arrival outstanding. A change to what the tile already runs retires at once;
a spine above 1,000 MHz in gear 0 raises GEAR detail 0x01, gear 1 on a tile that is not fit for it detail 0x02; a change that
passes the checks puts the tile in QUIESCE with its target, stalls the strand, and changes neither gear nor spine yet. -/
def Sys2Proof.Claims.GearChangeIssue : Prop :=
  ∀ (s : State) (d t k : Nat) (g : Guard) (hi : Bool) (sp : BitVec 3),
    let u := Agent.strand d t k
    let x := s.tile d t
    let s0 := noteIssue s u
    Issues s u g → k < 4 → Alone s d t → arrivalOpen s d [t] = false → x.change = [] →
    (∀ i want, (i = Instr.gear g hi sp ∧ want = some hi) ∨ (i = Instr.spine g sp ∧ hi = x.gear ∧ want = none) →
      (hi = false → 1000 < (spineAt s sp.toNat).freq.toNat → exec i s = .next (takeFault s0 u { cls := 0x10, detail := 1, addr := 0 })) ∧
      (hi = true → x.g1ok = false → exec i s = .next (takeFault s0 u { cls := 0x10, detail := 2, addr := 0 })) ∧
      (gearFault s d t hi sp.toNat = none → x.gear = hi → x.spine = sp → exec i s = .next (s0.retire u)) ∧
      (gearFault s d t hi sp.toNat = none → ¬ (x.gear = hi ∧ x.spine = sp) → ∃ s' : State, exec i s = .next s' ∧
        (s'.tile d t).st = .quiesce ∧ (s'.tile d t).change = [⟨some (t * 4 + k), want, sp⟩] ∧ (s'.tile d t).gear = x.gear ∧
        (s'.tile d t).spine = x.spine ∧ s'.ctx u = { s.ctx u with stall := .gear, ticks := 0 } ∧ s'.mem = s.mem ∧
        s'.regions = s.regions))

/-- R295, R299, R297: the sequence of a change on a tile alone. The stopped fabric takes QUIESCE to RAMP; the island's level reaches
the demand of its tiles, and the tile goes to SWITCH; there its multiplexer selects the target spine before its supply goes down, and
after its supply has come up, and the tile settles with both on the target; the stable clock gives the tile its gear and spine
and retires the instruction; and a deferred change begins when no arrival is outstanding. -/
def Sys2Proof.Claims.GearChangeSequence : Prop :=
  ∀ (s : State) (d t w : Nat) (c : Change), Alone s d t → t < 144 → c.slot = some w → (s.tile d t).change = [c] →
    let x := s.tile d t
    let u := Agent.strand d (w / 4) (w % 4)
    let cl := clusterOf t
    let hi : Bool := c.gear.getD x.gear
    let becomes (i : Instr) (y : Tile) : Prop := ∃ s' : State, exec i s = .next s' ∧ s'.tile d t = y ∧ s'.ctxs = s.ctxs ∧ s'.mem = s.mem
    (x.st = .quiesce → becomes (.gearFabricStopped d t) { x with st := .ramp }) ∧
    (x.st = .ramp → becomes (.islandLevelReached d t) { x with st := .switch } ∧
      ∃ s' : State, exec (.islandLevelReached d t) s = .next s' ∧
        (s'.island d cl).lvl.toNat = max (s.island d cl).lvl.toNat (islandDemand s d cl)) ∧
    (x.st = .switch →
      (x.rail = hi → becomes (.islandLevelReached d t) { x with mux := c.spine, st := .settle }) ∧
      (hi = true → x.rail = false → becomes (.islandLevelReached d t)
        { x with rail := true, st := if x.mux = c.spine then .settle else .switch }) ∧
      (hi = false → x.rail = true → x.mux ≠ c.spine → becomes (.islandLevelReached d t) { x with mux := c.spine }) ∧
      (hi = false → x.rail = true → x.mux = c.spine → becomes (.islandLevelReached d t) { x with rail := false, st := .settle })) ∧
    (x.st = .settle → (s.ctx u).stall = .gear → (∀ n k, s.holder d t = some n → s.task n = some k → k.resuming = false) →
      ∃ s' : State, exec (.spineClockStable d t) s = .next s' ∧
        (s'.tile d t) = { x with st := .run, gear := hi, spine := c.spine, change := [], defer := false } ∧
        s'.ctx u = { s.ctx u with stall := .none, ticks := 0 }.retire ∧ s'.mem = s.mem) ∧
    (x.st = .run → x.defer = true → arrivalOpen s d [t] = false → mayProceed s u = true → s.shake = false →
      gearFault s d t hi c.spine.toNat = none → (hi, c.spine) ≠ (x.gear, x.spine) →
      becomes (.gearDeferRelease d t) { x with st := .quiesce, defer := false })

/-- R299-R301: RVOTE within the island's CAP records the tile's vote and gives the island's level; above it, GEAR detail 0x04;
RVOTE.OFF withdraws the vote. The island falls to its demand when the hold-off has run out; the power controller sets CAP. -/
def Sys2Proof.Claims.IslandVotes : Prop :=
  ∀ (s : State) (d t k : Nat) (g : Guard) (r : SReg) (lv cap : BitVec 3) (c : Nat),
    let u := Agent.strand d t k
    let cl := clusterOf t
    let s0 := noteIssue s u
    (Issues s u g → (s.island d cl).cap.toNat < lv.toNat →
      exec (.rvote g r lv) s = .next (takeFault s0 u { cls := 0x10, detail := 4, addr := 0 })) ∧
    (Issues s u g → lv.toNat ≤ (s.island d cl).cap.toNat → ∃ s1 : State, exec (.rvote g r lv) s =
        .next ((s1.putS u r (nat64 (s.island d cl).lvl.toNat)).retire u) ∧
      s1.tile d t = { s0.tile d t with vote := lv, ven := true } ∧ (s1.island d cl).lvl = (s.island d cl).lvl ∧ s1.ctxs = s.ctxs ∧
      s1.mem = s.mem) ∧
    (Issues s u g → ∃ s1 : State, exec (.rvoteOff g r) s = .next ((s1.putS u r (nat64 (s.island d cl).lvl.toNat)).retire u) ∧
      s1.tile d t = { s0.tile d t with ven := false } ∧ s1.ctxs = s.ctxs ∧ s1.mem = s.mem) ∧
    (∀ i, i = s.island d c → i.hold = 0 → islandDemand s d c < i.lvl.toNat → (∀ t ∈ clusterTiles c, (s.tile d t).st = .run) →
      exec (.islandHoldoffExpiry d c) s = .next (s.setIsland d c { i with lvl := BitVec.ofNat 3 (islandDemand s d c) })) ∧
    (d < 4 → c < 36 → exec (.islandCapChange d c cap) s = .next (s.setIsland d c { s.island d c with cap := cap }))

/-- R290, R302: with no tile in a change the handshake stalls the package; its release writes the spine table and ends the stall;
a duty pattern is kept until it takes effect. -/
def Sys2Proof.Claims.PackageStall : Prop :=
  ∀ (s : State) (table : List (BitVec 3 × BitVec 16)) (r : RegionId) (x : Region) (pat : BitVec 32),
    ((∀ e ∈ s.tiles, e.2.st = .run) → exec .packageStallHandshake s = .next { s with shake := true }) ∧
    (s.shake = true → table.length = 8 → ∃ s' : State, exec (.handshakeRelease table) s = .next s' ∧ s'.shake = false ∧
      s'.sptab.map (fun e => (e.minlv, e.freq)) = table ∧ s'.ctxs = s.ctxs ∧ s'.mem = s.mem ∧
      s'.regions = s.regions) ∧
    (s.region r = some x → exec (.dutyWrite r pat) s = .next (s.setRegion r { x with dutyNext := some pat }))

/-- R304, R306: at the end of a trim window, 2,000,000 ticks after the one before, an island with fewer corrected errors than its target
and no uncorrectable one gives up one more step of margin and remembers where it stood; otherwise it takes one back; a frozen island's
trim stays. A freeze that has run out ends. -/
def Sys2Proof.Claims.TrimWindows : Prop :=
  ∀ (s : State) (d c : Nat), d < 4 → c < 36 →
    let x := s.trim d c
    let y : Trim := { x with hadUnc := false, wins := x.wins + 1 }
    (2000000 * (x.wins + 1) ≤ (s.die d).tick.toNat →
      (x.frz = true → exec (.trimWindowEnd d c) s = .next (s.setTrim d c y)) ∧
      (x.frz = false → x.cecnt.toNat < x.cetgt.toNat → x.hadUnc = false → exec (.trimWindowEnd d c) s =
        .next (s.setTrim d c { y with lkg := x.trim, trim := if x.trim < 15 then x.trim + 1 else 15, cecnt := 0 })) ∧
      (x.frz = false → ¬ (x.cecnt.toNat < x.cetgt.toNat ∧ x.hadUnc = false) →
        exec (.trimWindowEnd d c) s = .next (s.setTrim d c { y with trim := x.trim - 1, cecnt := 0 }))) ∧
    ((s.die d).tick.toNat < 2000000 * (x.wins + 1) → exec (.trimWindowEnd d c) s = .next s) ∧
    (x.frz = true → x.frzleft = 0 → exec (.trimFreezeExpiry d c) s = .next (s.setTrim d c { x with frz := false }))

end Gears

section Time

open Sys2Proof Sys2Proof.Machine Sys2Proof.Claims

/-- R303, R310-R313: TICK gives the die's tick count, LATQ.RAW its raw milepost, LATQ.NOW the raw milepost plus the group's offset,
and LATQ the latency between two dies, all ones when one is above 3. -/
def Sys2Proof.Claims.TimeQueries : Prop :=
  ∀ (s : State) (u : Agent) (g : Guard) (d a b : SReg), Issues s u g →
    exec (.tick g d) s = .next (wrote s u d (s.die u.die).tick) ∧
    exec (.latqRaw g d) s = .next (wrote s u d (s.die u.die).raw) ∧
    exec (.latqNow g d) s = .next (wrote s u d (nat64 ((s.die u.die).raw.toNat + (mpOff s u u.die).toNat))) ∧
    ((s.getS u a).toNat ≤ 3 → (s.getS u b).toNat ≤ 3 →
      exec (.latq g d a b) s = .next (wrote s u d (nat64 (Config.latency (s.getS u a).toNat (s.getS u b).toNat).toNat))) ∧
    (3 < (s.getS u a).toNat ∨ 3 < (s.getS u b).toNat → exec (.latq g d a b) s = .next (wrote s u d (nat64 (2 ^ 64 - 1))))

/-- R314: REALIGN stalls for an instant 512 beats ahead; at that instant the visible milepost of the issuing die is s[A], that of every other die
of the group is s[A] or one beat more, s[D] takes the raw milepost of the instant, and the instruction retires; one whose strand is halted at the instant
retires later. -/
def Sys2Proof.Claims.RealignMilepost : Prop :=
  (∀ (s : State) (u : Agent) (g : Guard) (d a : SReg), Issues s u g →
    exec (.realign g d a) s =
      .next ((noteIssue s u).stallOn u (.realign (s.getS u a) d (nat64 ((s.die u.die).raw.toNat + 512)) false))) ∧
  (∀ (s : State) (u : Agent) (m ap : Word) (d : SReg) (skew : List (BitVec 1)) (n : Nat) (k : Task),
    (s.ctx u).stall = .realign m d ap false → (s.die u.die).raw = ap → mayProceed s u = true → u.isHub = false → s.taskOf u = some n →
    s.task n = some k → (u.die, u.tile) ∈ k.tiles → u.die < 4 →
    ∃ s' : State, exec (.milepostAlignment u skew) s = .next ((s'.putS u d ap).endStall u) ∧ visible s' u u.die = m ∧
      (∀ x ∈ k.tiles, x.1 < 4 → visible s' u x.1 = m ∨ visible s' u x.1 = m + 1) ∧
      s'.ctx u = { s.ctx u with stall := .realign m d ap true } ∧ (∀ v, agentKey v ≠ agentKey u → s'.ctx v = s.ctx v) ∧ s'.mem = s.mem) ∧
  (∀ (s : State) (u : Agent) (m ap : Word) (d : SReg) (skew : List (BitVec 1)), (s.ctx u).stall = .realign m d ap true → mayProceed s u = true →
    exec (.milepostAlignment u skew) s = .next ((s.putS u d ap).endStall u))

/-- R315-R318: TSEND reads its descriptor and its data at issue and makes the token BUSY; a milepost more than 2^30 beats ahead is
ILLEGAL detail 0x3D. The send arrives in its tile's buffer, or, when its milepost has passed, is written after what the tile has due and reported as
LATE; a held send is written, data first and then its flag, when its milepost has come; then its token completes. -/
def Obligations.TimedSends : Prop :=
  (∀ (s s1 s2 : State) (u : Agent) (g : Guard) (sc : ScopeCode) (t : TokIx) (a : SReg) (off : BitVec 29) (bs data : List Byte),
    Issues s u g →
    let s0 := noteIssue s u
    let da := int64 ((s.getS u a).toNat + off.toInt)
    let ds := BitVec.ofNat 512 (leNat bs)
    da.toNat % 32 = 0 → readLoads s0 (s0.req u) da 4 = (s1, .ok bs) → (s1.getTok u t.toNat).st ≠ .busy →
    (s1.getTok u t.toNat).st ≠ .error → reportPending s1 u t.toNat = false →
    (tsBad ds = false → (visible s1 u u.die).toNat + 2 ^ 30 < (tsMp ds).toNat →
      exec (.tsend g sc t a off) s = .next (takeFault s1 u { cls := 1, detail := 0x3D, addr := 0 })) ∧
    (tsFault s1 u ds = none → readGen s1 (s1.req u) (dSrc ds) (tsLen ds) = (s2, .ok data) →
      ∃ s' : State, exec (.tsend g sc t a off) s = .next (s'.retire u) ∧ (s'.getTok u t.toNat).st = .busy ∧
        ∃ o : EngOp, s'.op u t.toNat = some o ∧ o.kind = .tsend ∧ o.desc = ds ∧ o.data = data ∧ o.scope = sc ∧ o.st = .started)) ∧
  (∀ (s : State) (u : Agent) (g : Guard) (sc : ScopeCode) (t : TokIx) (a : SReg) (off : BitVec 29), Issues s u g →
    let da := int64 ((s.getS u a).toNat + off.toInt)
    let ds := BitVec.ofNat 512 (numOf (tileBytes s u da 32))
    da.toNat % 32 = 0 → InTile s u da 32 → Sound s u da 32 → (s.getTok u t.toNat).st ≠ .busy → (s.getTok u t.toNat).st ≠ .error →
    (∀ o, s.op u t.toNat = some o → o.fault = none) → tsFault s u ds = none → InTile s u (dSrc ds) (tsLen ds) → Sound s u (dSrc ds) (tsLen ds) →
      ∃ s' : State, exec (.tsend g sc t a off) s = .next (s'.retire u) ∧ (s'.getTok u t.toNat).st = .busy ∧ s'.mem = s.mem ∧
        ∃ o : EngOp, s'.op u t.toNat = some o ∧ o.kind = .tsend ∧ o.desc = ds ∧ o.data = tileBytes s u (dSrc ds) (tsLen ds) ∧
          o.scope = sc ∧ o.st = .started) ∧
  (∀ (s : State) (u : Agent) (t k d j : Nat) (o : EngOp),
    (s.op u t = some o → o.kind = .tsend → o.st = .started → opRuns s o = true → sendAhead s o = false → tsTile s u o.desc = some k →
      dieReach s u.die (tsDie o.desc) = true →
      (s.tile (tsDie o.desc) k).sends.length < 32 →
      ((visible s u (tsDie o.desc)).toNat ≤ (tsMp o.desc).toNat → exec (.tsendArrive u t) s =
        .next (((clearProbes s u t).setOp u t { o with st := .arrived }).modTile (tsDie o.desc) k (fun x => { x with sends := x.sends ++ [opKey u t] }))) ∧
      ((tsMp o.desc).toNat < (visible s u (tsDie o.desc)).toNat → exec (.tsendArrive u t) s =
        .next (opFault (writeSend (flushTile (tsDie o.desc) k (2 * (s.tile (tsDie o.desc) k).sends.length) (clearProbes s u t)) (tsDie o.desc) k o) u t
          { cls := 0x11, detail := 1, addr := 0, info0 := tsMp o.desc, info1 := visible s u (tsDie o.desc) } 0x30))) ∧
    (dueSend s d j = some o → o.st ≠ .landed → tsFen o.desc = true →
      exec (.tsendDeliver d j) s = .next ((writeData s d j o).setOp o.agent o.tok.toNat { o with st := .landed })) ∧
    (dueSend s d j = some o → o.st = .landed ∨ tsFen o.desc = false →
      ∃ s' : State, exec (.tsendDeliver d j) s = .next s' ∧ s'.op o.agent o.tok.toNat = some { o with st := .written } ∧
        s'.mem = (if o.st = .landed then writeFlag s d j o else writeData s d j o).mem ∧ opKey o.agent o.tok.toNat ∉ (s'.tile d j).sends) ∧
    (s.op u t = some o → o.kind = .tsend → o.st = .written → opRuns s o = true → ∃ s' : State, exec (.tsendComplete u t) s = .next s' ∧
      (s'.getTok u t).st = .done ∧ s'.op u t = none ∧ s'.mem = s.mem))

/-- R309, R319-R321: causeways and Swelin ports. A causeway goes down or up for both its ends; a port that ends its training is UP with
four lanes, DEGRADED with fewer, DOWN with none; a flit with a bad CRC is counted and replayed, and the sixteenth failed replay
in a row trains the port. A request of another package is performed at its home once, and counts for its frame and die (R46); a repeat is answered
from its record; one for a frame that a migration has locked is held (R47); an owner whose grant leaves that package out is refused (R344). A remote
access that is not acknowledged in 2,000,000 ticks raises LINK and stays to be performed, and a host access that is not completed in 10,000,000
raises HOST detail 0x03 (R355). The model's choices: CRCERR and RETRY count in the port that receives, and a port may train from DOWN (log entry 68). -/
def Obligations.LinkEvents : Prop :=
  ∀ (s : State) (d e p i : Nat) (lanes : BitVec 3) (pp : BitVec 10) (pq : BitVec 4) (bytes : List Byte) (q : Pending), d < 4 → e < 2 → p < 9 →
    let far := if e = 0 then (d + 1) % 4 else (d + 3) % 4
    let x := swPort s d p
    (∃ s' : State, exec (.causewayDown d e) s = .next s' ∧ (s'.die d).cwDown.getLsbD e = true ∧ (s'.die far).cwDown.getLsbD (1 - e) = true ∧
      s'.ctxs = s.ctxs ∧ s'.mem = s.mem) ∧
    (∃ s' : State, exec (.causewayRestored d e) s = .next s' ∧ (s'.die d).cwDown.getLsbD e = false ∧ (s'.die far).cwDown.getLsbD (1 - e) = false ∧
      s'.ctxs = s.ctxs ∧ s'.mem = s.mem) ∧
    (x.st = .train ∨ x.st = .down → lanes.toNat ≤ 4 → exec (.swelinPortTrained d p lanes pp pq) s = .next (setSwPort s d p
      { x with st := (if lanes.toNat = 4 then .up else if lanes.toNat = 0 then .down else .degraded), lanes := lanes, peerPkg := pp, peerPort := pq, fails := 0 })) ∧
    (exec (.swelinPortDown d p) s = .next (setSwPort s d p { x with st := .down, lanes := 0, fails := 0 })) ∧
    (x.st = .up ∨ x.st = .degraded →
      let s1 := setSwPort s d p { x with fails := 0 }
      exec (.swelinFlitReceive d p .other) s = .next s1 ∧
      (∃ y, exec (.swelinFlitReceive d p .bad) s = .next (setSwPort s d p y) ∧ y.crcerr.toNat = min 0xFFFF (x.crcerr.toNat + 1) ∧
        (x.fails < 16 → y.st = x.st ∧ y.retry.toNat = min 0xFFFF (x.retry.toNat + 1) ∧ y.fails = x.fails + 1) ∧
        (16 ≤ x.fails → y.st = .train ∧ y.retry = x.retry)) ∧
      (∀ (r : RemoteReq) (y : RemoteRec), s.homeRecs.find? (recordOf r) = some y →
        exec (.swelinFlitReceive d p (.request r)) s = .next { s1 with homeOut := s.homeOut ++ [y] }) ∧
      (∀ (r : RemoteReq), s.homeRecs.find? (recordOf r) = none →
        (∀ e ∈ s.homeHeld, ¬ (e.2.pkg = r.pkg ∧ e.2.requester = r.requester ∧ e.2.seq = r.seq)) →
        let n := (remoteLen r.kind).1
        let receives (t : State) : Prop := exec (.swelinFlitReceive d p (.request r)) s = .next t
        let answers (t : State) (a : RemoteAns) : State :=
          { t with homeRecs := s.homeRecs ++ [⟨r.pkg, r.requester, r.seq, a⟩], homeOut := s.homeOut ++ [⟨r.pkg, r.requester, r.seq, a⟩] }
        let counted : State := if r.nc then s1 else { s1 with
          access := let j := r.pa / 65536 * 4096 + r.pkg * 4 + r.die; tset s.access j (min 65535 (tget s.access j 0 + 1)) }
        (locked s r.pa n = true → receives { s1 with homeHeld := s.homeHeld ++ [(s.arrivals, r)], arrivals := s.arrivals + 1 }) ∧
        (locked s r.pa n = false →
          ((s.owner r.owner).grant.toNat.testBit (4096 + r.pkg) = false → receives (answers s1 (.fault 0x0E 4))) ∧
          ((s.owner r.owner).grant.toNat.testBit (4096 + r.pkg) = true → r.pa.testBit 52 = false → locPkg r.pa = s.pkg.toNat →
            inCapacity r.pa n = true →
            (r.kind = .write bytes → receives (answers (writeLoc counted r.pa bytes) (.done []))) ∧
            (r.kind = .read n → poisonedAt s r.pa n = false → receives (answers counted (.done (mread s.mem r.pa n)))))))) ∧
    (s.pend[i]? = some q → isProbe q = false → q.orphan = false → q.stale = false → q.answered = false → q.failed = none →
      (s.ctx q.agent).stall = .access → mayProceed s q.agent = true → ∀ y ys, q.parts = y :: ys →
      let gone (f : FaultInfo) : State := takeFault ({ s with pend := s.pend.eraseIdx i }.modCtx q.agent (fun c => { c with stall := .none })) q.agent f
      (q.remote = true → 2000000 ≤ q.ticks → remotePart s q y.1 = true → ∃ f, f.cls = 0x16 ∧ (f.detail = 2 ∨ f.detail = 3) ∧ f.addr = q.addr ∧
        exec (.linkAckTimeout i) s = .next { gone f with pend := (gone f).pend ++ [{ q with stale := true }] }) ∧
      (q.host = true → 10000000 ≤ q.ticks → isHost y.1 = true →
        exec (.hostCompletionTimeout i) s = .next (gone { cls := 0x17, detail := 3, addr := q.addr })))

/-- R303, R310, R348, R362, R363: power-on verifies the security hub firmware, starts it, and sets the dies' counters going, each after a
time that the spec leaves open (log entry 16); bring-up tests the dies, starts the other hub cores and sets RDY; firmware that fails its check
leaves the module in recovery. That a hub core starts at PC 0 is the model's choice (log entry 91). An idle die tests a tile; a test whose failing
elements, however many, all lie in one column takes the tile's spare column if that is free, else fails the tile, and a test that finds any raises
DMVER and invalidates the map cache. R74, R304: an uncorrectable error in a word poisons it, and sets a
trimmed island's trim back and freezes it; a correctable one in trimmed storage is counted. -/
def Obligations.PowerAndSelfTest : Prop :=
  ∀ (s : State) (d t c loc : Nat) (fails : FailMap) (r : RegionId) (row col : Nat),
    (s.power = .off → ∃ s' : State, exec .powerOn s = .next s' ∧ s'.power = (if fwLoads 0 then .bringup else .recovery) ∧ s'.mem = s.mem ∧
      (∀ e, e < 4 → s'.die e = { s.die e with rawLag := Config.rawLag e, tickLag := Config.tickLag e }) ∧ (fwLoads 0 = false → s'.ctxs = s.ctxs) ∧
      (fwLoads 0 = true → (s'.ctx (.hub 0 3)).run = .running ∧ (s'.ctx (.hub 0 3)).pc = 0)) ∧
    (s.power = .bringup → ∃ s' : State, exec .bringupComplete s = .next s' ∧ s'.mem = s.mem ∧
      (fwLoads 1 = false → s'.power = .recovery ∧ s'.ctxs = s.ctxs) ∧
      (fwLoads 1 = true → s'.power = .ready ∧ s'.ctx (.hub 0 3) = s.ctx (.hub 0 3) ∧
        ∀ e k, e < 4 → k < 4 → (s'.die e).rdy = true ∧
          ((e, k) ≠ (0, 3) → (s'.ctx (.hub e k)).run = .running ∧ (s'.ctx (.hub e k)).pc = 0))) ∧
    (d < 4 → t < 144 → 100000000 ≤ (s.die d).sweepTicks → (s.tile d t).holder = none → (s.tile d t).lent = none →
      (s.tile d t).testing = false → tileFailed s d t = false → ∃ s' : State, exec (.idleSweep d t) s = .next s' ∧
        (s'.tile d t).testing = true ∧ (s'.die d).sweepTicks = 0 ∧ s'.ctxs = s.ctxs) ∧
    ((s.tile d t).testing = true → ∃ s' : State, exec (.selfTestResult d t fails) s = .next s' ∧ (s'.tile d t).testing = false ∧ s'.mem = s.mem ∧
      (fails = [] → (s'.die d) = s.die d) ∧
      (fails ≠ [] → (s'.die d).dmver = (s.die d).dmver + 1 ∧ (s'.die d).cache = []) ∧
      (∀ x ∈ fails, (∀ y ∈ fails, y.2 = x.2) → tfind (s.die d).spare t = none →
        tfind (s'.die d).spare t = some x.2 ∧ (s'.die d).failed = (s.die d).failed) ∧
      (∀ x ∈ fails, (∃ y ∈ fails, y.2 ≠ x.2) ∨ (tfind (s.die d).spare t).isSome = true →
        t ∈ (s'.die d).failed ∧ (s'.die d).spare = (s.die d).spare)) ∧
    (d < 4 → c < 36 → siteIn d c (.word loc) = true → ∃ s' : State, exec (.uncorrectableError d c (.word loc)) s = .next s' ∧
      loc / 8 * 8 ∈ s'.poison ∧ s'.mem = s.mem ∧ s'.ctxs = s.ctxs ∧
      s'.trim d c = (if siteTrimmed s (.word loc) then { s.trim d c with
        trim := (s.trim d c).lkg - 1, frz := true, frzleft := 2000000000, cecnt := 0, hadUnc := true } else s.trim d c)) ∧
    (d < 4 → c < 36 → r.die = d → clusterOf r.tile = c → (s.tile r.die r.tile).rail = true →
      exec (.uncorrectableError d c (.corrected (.element r row col))) s = .next (s.setTrim d c { s.trim d c with
        cecnt := if (s.trim d c).cecnt = 0xFFFF then 0xFFFF else (s.trim d c).cecnt + 1 }))

end Time

section Registers

open Sys2Proof Sys2Proof.Machine Sys2Proof.Claims

/-- R272: KRD of any index writes one word into s[D] and changes nothing else; these indices read what the spec says they hold: the
windows (R77), tokens (R98), HASHST, the itinerary (R261), SEED and the sticky flags of the region (R63), mileposts (R310, R311), route table
(R320), handler registers (R271), MGBASE, MSTAT (R353), HDOOR, DMVER and DOEBUF; the write-only commands read zero. That each hub core has its own XINV_VA (0x310) is the model's
choice (log entry 120). -/
def Obligations.ControlRegisterReads : Prop :=
  ∀ (s : State) (u : Agent) (g : Guard) (d : SReg), Issues s u g →
    let c := s.ctx u
    let x := s.tile u.die u.tile
    let y := s.die u.die
    let reads (idx : BitVec 12) (v : Word) : Prop := exec (.krd g d idx) s = .next (wrote s u d v)
    (∀ idx, ∃ v, reads idx v) ∧
    reads 0x010 c.apTile ∧ reads 0x011 c.apClus ∧ reads 0x012 c.apDie ∧ reads 0x030 c.hashst ∧
    reads 0x020 (nat64 (((List.range 8).map (fun i => (match (c.getTok i).st with
      | .idle => 0 | .busy => 1 | .done => 2 | .error => 3) * 4 ^ i)).sum)) ∧
    reads 0x040 x.itbase ∧ reads 0x041 (nat64 x.itcur.toNat) ∧
    (∀ r z, ownRegion s u = some r → s.region r = some z →
      reads 0x0A0 (nat64 z.numflg.toNat) ∧ reads 0x0A1 (nat64 (z.zwords.toNat * 2 ^ 32 + z.rovf.toNat)) ∧
      reads 0x0A2 (nat64 z.seed.toNat)) ∧
    (ownRegion s u = none → reads 0x0A0 0 ∧ reads 0x0A1 0 ∧ reads 0x0A2 0) ∧
    reads 0x208 y.raw ∧ reads 0x20A (mpOff s u u.die) ∧ reads 0x250 y.swrt ∧
    reads 0x300 c.htvec ∧ reads 0x301 c.hepc ∧ reads 0x302 c.hcause ∧ reads 0x303 c.hfaddr ∧
    reads 0x304 (if c.hstat then 1 else 0) ∧ reads 0x310 c.xinvVa ∧ reads 0x311 0 ∧ reads 0x501 0 ∧ reads 0x601 0 ∧
    reads 0x500 (nat64 y.lanehub.toNat) ∧ reads 0x530 y.dmver ∧ reads 0x600 s.mgbase ∧ reads 0x603 (nat64 y.hdoor.toNat) ∧
    reads 0x602 (nat64 (y.dblf.toNat * 2 ^ 12 + y.stop.toNat * 2 ^ 8 + y.rdy.toNat * 4 + y.err.toNat * 2 + y.busy.toNat)) ∧
    reads 0x610 s.doe.base

/-- R63, R68-R70, R77, R103, R261: what a KWR of the registers of a strand and its tile does; the rows of the table that name one
effect of such a KWR are that KWR. A window base that is not canonical changes nothing, and no KWR changes EN; NUMFLG clears the bits
that are written 1; a TRKCFG with TGT 0 or 15 is ignored, and another one makes the tracker STALE when a count comes to exceed its threshold
by it (log entry 111); STOP stops a slot in RUN or WAITTOK. -/
def Obligations.StrandRegisterWrites : Prop :=
  ∀ (s : State) (u : Agent) (g : Guard) (a : SReg) (n : BitVec 4) (k : BitVec 3) (v : Word), Issues s u g → u.isHub = false →
    v = s.getS u a →
    let s0 := noteIssue s u
    let done (i : Instr) (t : State) : Prop := exec i s = .next (t.retire u)
    let base (b : Nat) : Word := nat64 (v.toNat / 2 ^ b * 2 ^ b)
    let trk := s.trk u.die u.tile n.toNat
    (∀ i, i = Instr.kwr g 0x010 a ∨ i = Instr.apbaseWrite g 0 a →
      (canonical (base 20) = true → done i (s0.modCtx u (fun c => { c with apTile := base 20 ||| (c.apTile &&& 1) }))) ∧
      (canonical (base 20) = false → done i s0)) ∧
    (∀ i, i = Instr.kwr g 0x011 a ∨ i = Instr.apbaseWrite g 1 a →
      (canonical (base 22) = true → done i (s0.modCtx u (fun c => { c with apClus := base 22 ||| (c.apClus &&& 1) }))) ∧
      (canonical (base 22) = false → done i s0)) ∧
    (∀ i, i = Instr.kwr g 0x012 a ∨ i = Instr.apbaseWrite g 2 a →
      (canonical (base 29) = true → done i (s0.modCtx u (fun c => { c with apDie := base 29 ||| (c.apDie &&& 1) }))) ∧
      (canonical (base 29) = false → done i s0)) ∧
    (∀ i, i = Instr.kwr g (0x0C0 + n.zeroExtend 12) a ∨ i = Instr.trkcfgWrite g n a →
      let tgt := v.toNat / 2 ^ 24 % 16
      (tgt = 0 ∨ tgt = 15 → done i (s0.setTrk u.die u.tile n.toNat trk)) ∧
      (tgt ≠ 0 → tgt ≠ 15 → ∃ y : Tracker, done i (s0.setTrk u.die u.tile n.toNat y) ∧
        y.satth.toNat = v.toNat / 2 ^ 48 ∧ y.unfth.toNat = v.toNat / 2 ^ 32 % 2 ^ 16 ∧ y.w.toNat = v.toNat / 2 ^ 28 % 16 ∧
        y.tgt.toNat = tgt ∧ y.margin.toNat = v.toNat / 2 ^ 21 % 8 ∧ y.auto = v.getLsbD 20 ∧ y.cur = trk.cur ∧
        (y.stale = true ↔ trk.stale = true ∨ (trk.satcnt ≤ trk.satth.toNat ∧ y.satth.toNat < trk.satcnt) ∨
          (trk.unfcnt ≤ trk.unfth.toNat ∧ y.unfth.toNat < trk.unfcnt)) ∧
        y.window = trk.window.drop (trk.window.length - (y.w.toNat + 1)))) ∧
    (∀ i, i = Instr.kwr g (0x0D0 + n.zeroExtend 12) a ∨ i = Instr.trkstatStep g n a → v.getLsbD 62 = true → v.getLsbD 61 = false →
      ∃ y : Tracker, done i (s0.setTrk u.die u.tile n.toNat y) ∧ y.cur = 0 ∧ y.satcnt = 0 ∧ y.unfcnt = 0 ∧ y.stale = false ∧
        y.window.getLast? = some trk.cur ∧ y.window.length ≤ trk.w.toNat + 1 ∧ (trk.stale = true → y.window = [trk.cur]) ∧
        y.lastscl = trk.lastscl) ∧
    (∀ i, i = Instr.kwr g (0x0D0 + n.zeroExtend 12) a ∨ i = Instr.trkstatClr g n a → v.getLsbD 61 = true → v.getLsbD 62 = false →
      done i (s0.setTrk u.die u.tile n.toNat { trk with window := [], cur := 0, satcnt := 0, unfcnt := 0, stale := false })) ∧
    (∀ i, i = Instr.kwr g (0x028 + k.zeroExtend 12) a ∨ i = Instr.schstatStop g k a → v.getLsbD 34 = true →
      ((s.ctx u).getSch k.toNat).st = .run ∨ ((s.ctx u).getSch k.toNat).st = .waittok →
      done i (s0.modCtx u (fun c => c.putSch k.toNat { c.getSch k.toNat with st := .stopped }))) ∧
    done (.kwr g 0x040 a) (s0.modTile u.die u.tile (fun x => { x with itbase := v &&& ~~~6#64 })) ∧
    done (.kwr g 0x041 a) (s0.modTile u.die u.tile (fun x => { x with itcur := v.truncate 32 })) ∧
    (∀ r z, ownRegion s u = some r → s.region r = some z →
      done (.kwr g 0x0A0 a) (s0.setRegion r { z with numflg := z.numflg &&& ~~~(v.truncate 5) }) ∧
      done (.kwr g 0x0A2 a) (s0.setRegion r { z with seed := v.truncate 32 }))

/-- R43, R77, R271, R291, R306, R319, R320, R343, R353, R354: what a KWR of the registers of a hub core's die does; SWPORT.CLR clears the port's
counters; MSTAT clears the bits written 1; HDOOR sets bits of RING and only its own core's bit can be cleared; a window base that is not canonical
changes nothing; MCMD has the effect that the same command of the physical function has, and while BUSY it only sets ERR. Two clauses are
the model's choice: that each hub core has its own XINV_VA (log entry 120), and that a core whose MCMD restarts itself goes on at its HTVEC and
does not retire the KWR (log entry 41). -/
def Obligations.HubRegisterWrites : Prop :=
  ∀ (s : State) (d k : Nat) (g : Guard) (a : SReg) (v : Word) (p : BitVec 4) (isl : BitVec 12), Issues s (.hub d k) g →
    let u := Agent.hub d k
    v = s.getS u a →
    let done (i : Instr) (t : State) : Prop := exec i s = .next (t.retire u)
    done (.kwr g 0x300 a) (s.modCtx u (fun c => { c with htvec := v &&& ~~~7#64 })) ∧
    done (.kwr g 0x301 a) (s.modCtx u (fun c => { c with hepc := v })) ∧
    done (.kwr g 0x310 a) (s.modCtx u (fun c => { c with xinvVa := v })) ∧
    done (.kwr g 0x500 a) (s.modDie d (fun y => { y with lanehub := v.truncate 4 })) ∧
    (∀ i, i = Instr.kwr g 0x012 a ∨ i = Instr.apbaseWrite g 2 a → let base : Word := nat64 (v.toNat / 2 ^ 29 * 2 ^ 29)
      (canonical base = true → done i (s.modCtx u (fun c => { c with apDie := base ||| (c.apDie &&& 1) }))) ∧
      (canonical base = false → done i s)) ∧
    (s.power = .ready → d < 4 → ∀ t : State, exec (.mcmdInvalid d (v.truncate 8) (BitVec.ofNat 32 (v.toNat / 2 ^ 32))) s = .next t →
      ((s.die d).busy = false → v.toNat % 2 ^ 8 = 4 → v.toNat / 2 ^ 32 % 4 = k → ∃ t' : State, exec (.kwr g 0x601 a) s = .next t' ∧
        (t'.ctx u).pc = (s.ctx u).htvec &&& ~~~7#64 ∧ (t'.ctx u).run = .running ∧ (t'.ctx u).hstat = false ∧ t'.mem = t.mem) ∧
      ((s.die d).busy = true ∨ v.toNat % 2 ^ 8 ≠ 4 ∨ v.toNat / 2 ^ 32 % 4 ≠ k → done (.kwr g 0x601 a) t)) ∧
    ((s.die d).busy = true → done (.kwr g 0x601 a) (s.modDie d (fun y => { y with err := true }))) ∧
    done (.kwr g 0x250 a) (s.modDie d (fun y => { y with swrt := v &&& ~~~15#64 })) ∧
    (d = 0 → done (.kwr g 0x600 a) { s with mgbase := v &&& ~~~0xFFF#64 }) ∧
    done (.kwr g 0x610 a) { s with doe := { s.doe with base := v &&& ~~~0xFFF#64 } } ∧
    (isl.toNat < 36 → done (.kwr g (0x180 + isl) a) (s.setTrim d isl.toNat { s.trim d isl.toNat with cetgt := BitVec.ofNat 8 (v.toNat / 2 ^ 40) })) ∧
    (∀ i, i = Instr.kwr g (0x240 + p.zeroExtend 12) a ∨ i = Instr.swportClr g p a → p.toNat ≤ 8 → v.getLsbD 7 = true →
      done i (setSwPort s d p.toNat { swPort s d p.toNat with retry := 0, crcerr := 0 })) ∧
    (∃ t : State, done (.kwr g 0x602 a) t ∧ (t.die d).err = ((s.die d).err && !v.getLsbD 1) ∧
      (∀ i, i < 4 → (t.die d).dblf.getLsbD i = ((s.die d).dblf.getLsbD i && !v.getLsbD (12 + i))) ∧
      (t.die d).busy = (s.die d).busy ∧ (t.die d).rdy = (s.die d).rdy) ∧
    (∃ t : State, done (.kwr g 0x603 a) t ∧
      ∀ i, i < 4 → (t.die d).hdoor.getLsbD i = if i = k then v.getLsbD i else (s.die d).hdoor.getLsbD i || v.getLsbD i)

end Registers

section Paging

open Sys2Proof Sys2Proof.Machine Sys2Proof.Claims

/-- R43, R44: a KWR of XINV_CMD with fields in their ranges starts a shootdown on the translation units of its die, or of all dies, and
stalls, by the XINV_VA that the issuing core itself holds (the model's choice, log entry 120); reserved fields are ILLEGAL detail 0x03; a unit that acknowledges has dropped every entry that the shootdown names, and the
last acknowledgement ends it and retires the KWR. -/
def Sys2Proof.Claims.Shootdowns : Prop :=
  (∀ (s : State) (d k : Nat) (g : Guard) (a : SReg), Issues s (.hub d k) g →
    let u := Agent.hub d k
    let v := (s.getS u a).toNat
    let kind := v % 4
    let scope := v / 4 % 4
    let size := v / 16 % 4
    let units : List (Nat × Nat) := (if scope = 0 then [d] else [0, 1, 2, 3]).flatMap (fun e => (List.range 37).map (fun n => (e, n)))
    (∀ i, i = Instr.kwr g 0x311 a ∨ (i = Instr.xinvOnePage g a ∧ kind = 0) ∨ (i = Instr.xinvOwner g a ∧ kind = 1) ∨
        (i = Instr.xinvAll g a ∧ kind = 2) →
      kind ≠ 3 → scope < 2 → size ≠ 3 → (s.die d).shoot = none →
      exec i s = .next ((s.modDie d (fun y => { y with
        shoot := some ⟨k, kind, v / 2 ^ 32 % 2 ^ 9, size, (s.ctx u).xinvVa, units⟩ })).stallOn u .xinv)) ∧
    (kind = 3 ∨ 2 ≤ scope ∨ size = 3 → exec (.kwr g 0x311 a) s = .next (takeFault s u { cls := 1, detail := 3, addr := 0 }))) ∧
  (∀ (s : State) (d n e : Nat) (x : Shoot), d < 4 → e < 4 → (s.die d).shoot = some x → x.left = [(e, n)] → s.pend = [] → s.migs = [] →
    (∀ j, j ≠ d → (s.die j).shoot = none) → (s.ctx (.hub d x.core)).stall = .xinv →
    ∃ s' : State, exec (.shootdownAck e n) s = .next s' ∧ (s'.die d).shoot = none ∧
      s'.ctx (.hub d x.core) = ({ s.ctx (.hub d x.core) with stall := .none, ticks := 0 } : Ctx).retire ∧
      (n < 36 → ∀ t, t ∈ tget (s'.die e).ctlb n [] ↔ t ∈ tget (s.die e).ctlb n [] ∧ x.hits t = false) ∧
      (n = 36 → ∀ t, t ∈ (s'.die e).dtlb ↔ t ∈ (s.die e).dtlb ∧ x.hits t = false) ∧ s'.mem = s.mem)

/-- R45-R47: a migration locks a page's frame and takes the new frame from its pool; the compare and swap copies the page's bytes and,
when the leaf entry still holds what was read, puts the new frame into it; after the shootdown the frame unlocks and one frame goes to a
pool; a copy that takes 40,000 ticks is given up, and its compare and swap never comes. The counters of a home are halved every 2,000,000 ticks. -/
def Sys2Proof.Claims.PageMigration : Prop :=
  ∀ (s : State) (o : Nat) (va : Word) (frame i d : Nat) (l : Leaf) (m : Migration),
    let n := 2 ^ pageBits l.size
    let sz := 2 ^ pageBits m.size
    let old := leafPa l va / n * n
    (walkOwner s 0 o va = .ok l → mayMigrate s o l old frame n = true → ∃ s' : State, exec (.migrationStart o va frame) s = .next s' ∧
      s'.locks = s.locks ++ [(old, n)] ∧
      s'.migs = s.migs ++ [⟨o, va, l.at_, l.e, l.size, old, frame, locDie old, .copying, 0, []⟩] ∧
      (∀ f ∈ tget s'.pools (poolKey frame) [], f < frame / 65536 ∨ frame / 65536 + n / 65536 ≤ f) ∧ s'.mem = s.mem) ∧
    (s.migs[i]? = some m → m.step = .copying → m.ticks < 40000 → Memory.wf s.mem = true → m.leafAt < 2 ^ 53 → m.new < 2 ^ 53 → m.old < 2 ^ 53 →
      (m.leafAt + 8 ≤ m.new ∨ m.new + sz ≤ m.leafAt) → (m.old + sz ≤ m.new ∨ m.new + sz ≤ m.old) →
      ∃ s' : State, exec (.migrationCas i) s = .next s' ∧ (∀ b, b < sz → mget s'.mem (m.new + b) = mget s.mem (m.old + b)) ∧
        (mnat s.mem m.leafAt 8 = m.leaf.toNat → mnat s'.mem m.leafAt 8 = (leafMoved m.leaf m.new).toNat ∧
          ∃ x, s'.migs[i]? = some x ∧ x.step = .shooting true) ∧
        (mnat s.mem m.leafAt 8 ≠ m.leaf.toNat → mnat s'.mem m.leafAt 8 = mnat s.mem m.leafAt 8 ∧
          ∃ x, s'.migs[i]? = some x ∧ x.step = .shooting false)) ∧
    (∀ ok, s.migs[i]? = some m → m.step = .shooting ok → m.left = [] → ∃ s' : State, exec (.migrationUnlock i) s = .next s' ∧
      s'.migs = s.migs.eraseIdx i ∧ (m.old, sz) ∉ s'.locks ∧ s'.mem = s.mem ∧
      (tget s'.pools (poolKey (if ok then m.old else m.new)) []) =
        (tget s.pools (poolKey (if ok then m.old else m.new)) []) ++ frameNums (if ok then m.old else m.new) sz) ∧
    (s.migs[i]? = some m → m.step = .copying → 40000 ≤ m.ticks → exec (.migrationCas i) s = .next s) ∧
    (s.migs[i]? = some m → m.step = .copying → 40000 ≤ m.ticks → s.pend = [] → s.homeHeld = [] → ∃ s' : State, exec (.migrationAbortTimeout i) s = .next s' ∧
      s'.migs = s.migs.eraseIdx i ∧ (m.old, sz) ∉ s'.locks ∧ s'.mem = s.mem) ∧
    (2000000 ≤ (s.die d).halveTicks → ∃ s' : State, exec (.accessCounterHalving d) s = .next s' ∧ (s'.die d).halveTicks = 0 ∧
      s'.access = s.access.map (fun e => if locDie (e.1 / 4096 * 65536) = d then (e.1, e.2 / 2) else e) ∧ s'.mem = s.mem)

end Paging

section Management

open Sys2Proof Sys2Proof.Machine Sys2Proof.Claims

/-- R352, R353, R344, R334: the management commands of the physical function while none is in progress: each sets BUSY and has its
effect, RESTART on a core that is stopped or not; a command that is none, or comes while BUSY, sets ERR and does nothing else; the end of a command clears BUSY. The doorbell's
RING is as R354 gives it, bit 3 of die 0 being the security hub's own. That BUSY lasts until MGMT_COMMAND_COMPLETE is the model's choice (log
entry 40), and so is what RESTART does to a core that is not stopped: its stall ends and HSTAT.IN is clear (log entry 41). -/
def Obligations.ManagementCommands : Prop :=
  ∀ (s : State) (d : Nat) (arg : BitVec 32) (op : BitVec 8) (ring : BitVec 4) (bs : List Byte) (z : Frz), s.power = .ready → d < 4 →
    let y := s.die d
    (y.busy = false →
      (d = 0 → (∀ f, vfLocked (s.vf f) = false) → arg.toNat < 512 → tableBytes? s (s.mgbase.toNat + 32 * arg.toNat) 32 = some bs →
        ownerBad s arg.toNat (leNat bs) = false → ∃ t : State, exec (.mcmdRefresh 0 arg) s = .next t ∧
          (t.die 0).busy = true ∧ (t.owner arg.toNat).v = (leNat bs).testBit 140 ∧
            (t.owner arg.toNat).troot.toNat = leNat bs % 2 ^ 64 ∧ (t.owner arg.toNat).func = leNat bs / 2 ^ 215 % 2 ^ 9 ∧
            (t.owner arg.toNat).wgt.toNat = leNat bs / 2 ^ 144 % 2 ^ 8 ∧ (t.owner arg.toNat).priomax.toNat = leNat bs / 2 ^ 152 % 2 ^ 8 ∧
            (t.owner arg.toNat).lend = (leNat bs).testBit 143 ∧ t.mem = s.mem) ∧
      (d = 0 → (∀ f, vfLocked (s.vf f) = false) → tableBytes? s (s.mgbase.toNat + 0x4000) 1024 = some bs → qmapBad (elemsOf 4 bs) = false →
        ∃ t : State, exec (.mcmdQrefresh 0 arg) s = .next t ∧ (t.die 0).busy = true ∧
          ∀ i, i < 256 → let e := ((elemsOf 4 bs)[i]?).getD 0
            t.qmapEntry i = ⟨e.testBit 31, e / 2 ^ 9 % 2 ^ 9, e % 2 ^ 9⟩) ∧
      (tfind y.frz arg.toNat = some z → z.kind = 0 ∨ z.kind = 4 → ∃ t : State, exec (.mcmdRelease d arg) s = .next t ∧
        tfind (t.die d).frz arg.toNat = none ∧ t.ctx z.master = { s.ctx z.master with frozen := false } ∧ (t.die d).busy = true) ∧
      (∃ t : State, exec (.mcmdRestart d arg) s = .next t ∧
        t.ctx (.hub d (arg.toNat % 4)) = { s.ctx (.hub d (arg.toNat % 4)) with
          run := .running, pc := (s.ctx (.hub d (arg.toNat % 4))).htvec &&& ~~~7#64, stall := .none, ticks := 0, hstat := false, met := [] } ∧
        (t.die d).stop.getLsbD (arg.toNat % 4) = false ∧ (t.die d).busy = true) ∧
      (d = 0 → exec (.mcmdDrainBudget 0 arg) s = .next ({ s with budget := arg.toNat }.setDie 0 { y with busy := true })) ∧
      (5 < op.toNat ∨ op = 0 → exec (.mcmdInvalid d op arg) s = .next (s.setDie d { y with err := true }))) ∧
    (y.busy = true → ∀ i ∈ [Instr.mcmdRefresh d arg, .mcmdQrefresh d arg, .mcmdRelease d arg, .mcmdRestart d arg, .mcmdDrainBudget d arg,
      .mcmdInvalid d op arg], exec i s = .next (s.setDie d { y with err := true })) ∧
    exec (.mgmtCommandComplete d) s = .next (s.setDie d { y with busy := false }) ∧
    (∃ t : State, exec (.hdoorWrite d ring) s = .next t ∧ (∀ i, i < 4 → (t.die d).hdoor.getLsbD i =
      if d = 0 ∧ i = 3 then y.hdoor.getLsbD 3 else ring.getLsbD i) ∧ t.mem = s.mem)

/-- R383, R384: a mailbox request of at most 2,048 bytes is queued, a longer one answered with an error; the next one is presented in
the buffer at DOEBUF with its length, REQ and the doorbell of the security hub core; a write of DOESTAT with RSP and a length from 16 to
2,048 waits for the core's earlier stores, then sends that many bytes from BASE + 0x800 and ends the request; any other write of it does nothing. -/
def Sys2Proof.Claims.MailboxRequests : Prop :=
  (∀ (s : State) (bs : List Byte) (l : List (List Byte)), s.power ≠ .off →
    (bs.length ≤ 2048 → exec (.doeRequestArrive bs) s = .next { s with doe := { s.doe with queue := s.doe.queue ++ [bs] } }) ∧
    (2048 < bs.length → exec (.doeRequestArrive bs) s = .next { s with doe := { s.doe with errs := s.doe.errs + 1 } }) ∧
    (s.doe.queue = bs :: l → s.doe.present = false → ∃ t : State, exec .doeRequestPresent s = .next t ∧
      t.doe = { s.doe with queue := l, present := true, reqLen := bs.length } ∧ (t.die 0).hdoor.getLsbD 3 = true ∧ t.ctxs = s.ctxs ∧
      (s.doe.base.toNat % 2 ^ 29 + bs.length ≤ 0x1DE00000 → Memory.wf s.mem = true →
        mread t.mem (2 ^ 58 + s.doe.base.toNat % 2 ^ 29) bs.length = bs))) ∧
  (∀ (s : State) (k : Nat) (g : Guard) (a : SReg) (i : Instr), Issues s (.hub 0 k) g →
    let u := Agent.hub 0 k
    let v := s.getS u a
    let n := v.toNat / 2 ^ 32 % 2 ^ 12
    let owes := ∃ p ∈ s.pend, p.agent = u ∧ accWrites p.kind = true
    i = .kwr g 0x611 a ∨ (i = .doestatRsp g a ∧ v.getLsbD 63 = true) →
    (v.getLsbD 63 = true → 16 ≤ n → n ≤ 2048 → ¬ owes →
      exec i s = .next (State.retire { s with doe := { s.doe with present := false, out := s.doe.out ++ [devRead s 0 (s.doe.base + 0x800) n] } } u)) ∧
    (v.getLsbD 63 = true → 16 ≤ n → n ≤ 2048 → owes → exec i s = .next s) ∧
    (v.getLsbD 63 = false ∨ n < 16 ∨ 2048 < n → exec i s = .next (s.retire u)))

/-- R358, R386: the interface report of a function: the fixed fields (INTERFACE_INFO bit 1 set), the queue pages in BAR0 and the whole of BAR2, and
the device part: OWNER, the queue count, 64 queue bytes, and at byte 68 the SHA-256 digest of the owner entry and its GRANT bytes. The layout of the
standard's fields is the model's choice (log entry 47). -/
def Sys2Proof.Claims.reportOf (s : State) (f : Nat) : List Byte :=
  let o := (funcOwner s f).getD 0
  let qs := funcQueues s f
  let bar (i size : Nat) : List Byte := leBytes 8 (((tget s.sriov i 0).toNat + (f - 1) * size) / 4096)
  leBytes 2 2 ++ List.replicate 10 0 ++ leBytes 4 2 ++
  (bar 0x24 (2 ^ 18) ++ leBytes 4 qs.length ++ leBytes 4 0) ++ (bar 0x2C (2 ^ 36) ++ leBytes 4 (2 ^ 24) ++ leBytes 4 (2 * 2 ^ 16)) ++
  leBytes 4 100 ++ leBytes 2 o ++ [BitVec.ofNat 8 qs.length] ++ qs.map (BitVec.ofNat 8) ++ List.replicate (65 - qs.length) 0 ++
  sha256 (leBytes 32 (s.owner o).raw.toNat ++ leBytes 640 (s.owner o).grant.toNat)

/-- R356, R357, R385, R386: the interface commands on a function from 1 to 256 whose interface is not stopping; with FUNC 0 or above 256 every
command gives result 3. Each retires with a result: LOCK of an unlocked interface with a keyed stream, zero reserved bytes and no work locks it and
writes the nonce; the checks that fail give 1 and 2; STATE writes the state's code; REPORT needs a locked or running interface and writes the lengths
and a portion of the report (its standard fields are the model's choice, log entry 47); START in the locked state with the nonce runs it, with another gives result 4; STOP with no task left leaves it
unlocked; STOP with tasks kills them with STATUS 5 and DETAIL 0x17 and waits; the end of the last of them ends it; the reserved codes give result 6.
The bytes go to BASE + 0x810, which the clauses about them take to lie in a slice. -/
def Sys2Proof.Claims.InterfaceCommands : Prop :=
  (∀ (s : State) (k : Nat) (g : Guard) (a : SReg), Issues s (.hub 0 k) g →
    let u := Agent.hub 0 k
    let v := (s.getS u a).toNat
    let f := v / 2 ^ 32 % 2 ^ 9
    let cmd := v % 8
    let s0 : State := { s with doe := { s.doe with func := f } }
    let x := s.vf f
    let fails (i : Instr) (res : Nat) : Prop := exec i s = .next (State.retire { s0 with doe := { s0.doe with res := res, len := 0 } } u)
    let at_ := 2 ^ 58 + (s.doe.base + 0x810).toNat % 2 ^ 29
    let writes (t : State) (bs : List Byte) : Prop := t.doe.res = 0 ∧ t.doe.len = bs.length ∧
      ((s.doe.base + 0x810).toNat % 2 ^ 29 + bs.length ≤ 0x1DE00000 → t.mem = mwrite s.mem at_ bs)
    (∀ i, i = Instr.kwr g 0x612 a ∨ i = .tdictlSelect g a → cmd = 0 → exec i s = .next (s0.retire u)) ∧
    (∀ i, i = Instr.kwr g 0x612 a ∨ (i = .tdictlLock g a ∧ cmd = 1) ∨ (i = .tdictlReport g a ∧ cmd = 2) ∨ (i = .tdictlState g a ∧ cmd = 3) ∨
        (i = .tdictlStart g a ∧ cmd = 4) ∨ (i = .tdictlStop g a ∧ cmd = 5) ∨ (i = .tdictlReserved g a ∧ 6 ≤ cmd) →
      cmd ≠ 0 → f = 0 ∨ 256 < f → fails i 3) ∧
    (1 ≤ f → f ≤ 256 → x.stopping = false →
      (∀ i, i = Instr.kwr g 0x612 a ∨ i = .tdictlLock g a → cmd = 1 →
        let keyed := (leNat (reqBytes s 18 1), f) ∈ s.ide ∧ leNat (reqBytes s 20 16) = 0
        (x.st ≠ .unlocked → fails i 3) ∧
        (x.st = .unlocked → ¬ keyed → fails i 1) ∧
        (x.st = .unlocked → keyed → vfHasWork s f = true → fails i 2) ∧
        (x.st = .unlocked → keyed → vfHasWork s f = false →
          ∃ t : State, exec i s = .next (t.retire u) ∧ (t.vf f).st = .locked ∧ (t.vf f).stream = leNat (reqBytes s 18 1) ∧
            writes t (leBytes 32 (t.vf f).nonce.toNat))) ∧
      (∀ i, i = Instr.kwr g 0x612 a ∨ i = .tdictlReport g a → cmd = 2 →
        let r := Claims.reportOf s f
        let o := leNat (reqBytes s 16 2)
        let n := min (min (leNat (reqBytes s 18 2)) 2028) (152 - o)
        (x.st ≠ .locked → x.st ≠ .run → fails i 3) ∧
        (x.st = .locked ∨ x.st = .run → (funcQueues s f).length ≤ 64 → ∃ t : State, exec i s = .next (t.retire u) ∧ r.length = 152 ∧
          writes t (leBytes 2 n ++ leBytes 2 (152 - o - n) ++ (r.drop o).take n) ∧ t.vf f = x ∧ t.ctxs = s.ctxs)) ∧
      (∀ i, i = Instr.kwr g 0x612 a ∨ i = .tdictlState g a → cmd = 3 → ∃ t : State, exec i s = .next (t.retire u) ∧
        writes t [match x.st with | .unlocked => 0 | .locked => 1 | .run => 2 | .error => 3] ∧ t.vf f = x) ∧
      (∀ i, i = Instr.kwr g 0x612 a ∨ i = .tdictlStart g a → cmd = 4 →
        (x.st ≠ .locked → fails i 3) ∧
        (x.st = .locked → leNat (reqBytes s 16 32) ≠ x.nonce.toNat → fails i 4) ∧
        (x.st = .locked → leNat (reqBytes s 16 32) = x.nonce.toNat → ∃ t : State, exec i s = .next (t.retire u) ∧
          t.vf f = { x with st := .run } ∧ writes t [] ∧ t.mem = s.mem)) ∧
      (∀ i, i = Instr.kwr g 0x612 a ∨ i = .tdictlStop g a → cmd = 5 →
        (s.tasks = [] → ∃ t : State, exec i s = .next (t.retire u) ∧ (t.vf f).st = .unlocked ∧ (t.vf f).stopping = false ∧ writes t [] ∧
          ∀ e ∈ funcQueues s f, (t.queue (e / 64) (e % 64)).recs = []) ∧
        (∀ n y, s.task n = some y → y.vf = f → y.st = .running → ∃ t : State, exec i s = .next t ∧ (t.ctx u).stall = .tdiStop f ∧
          (t.ctx u).pc = (s.ctx u).pc ∧ (t.vf f).stopping = true ∧
          ∀ m z, s.task m = some z → z.vf = f → z.st = .running ∨ z.st = .draining ∨ z.st = .saving →
            ∃ z' : Task, t.task m = some z' ∧ z'.st = .killing ∧ z'.finish = some (5, 0x17))) ∧
      (∀ i, i = Instr.kwr g 0x612 a ∨ i = .tdictlReserved g a → 6 ≤ cmd → fails i 6))) ∧
  (∀ (s : State) (k n f : Nat) (y : Task), let u := Agent.hub 0 k
    k < 4 → f ≤ 256 → s.tasks = [(n, y)] → y.vf = f → y.st = .killing → y.resuming = false → y.tiles = [] → lrCpl y.lrec = 0 →
    allStopped s n = true → (∀ e ∈ s.ctxs, e.2.task = some n → e.1 ≠ agentKey u) → (s.vf f).stopping = true →
    (s.ctx u).stall = .tdiStop f →
    ∃ t : State, exec (.killComplete n) s = .next t ∧ (t.vf f).st = .unlocked ∧ (t.vf f).stopping = false ∧ (t.ctx u).stall = .none ∧
      t.doe.res = 0 ∧ t.doe.len = 0)

end Management

namespace Sys2Proof.Claims

open Sys2Proof.Machine

/-- The generator context whose turn it is executes a word: one step more (R131). -/
def stepped (s : State) (d t g : Nat) : Gen := { s.gen d t g with steps := (s.gen d t g).steps + 1 }
/-- The state after a pattern word that leaves the context as `y` and completes at its PC. -/
def patDone (s : State) (d t g : Nat) (y : Gen) : State := s.setGen d t g y.wordDone
/-- A number as a 32-bit result, mod 2^32. -/
def half (n : Int) : Half := BitVec.ofInt 32 n

end Sys2Proof.Claims

section Generator

open Sys2Proof Sys2Proof.Machine Sys2Proof.Claims

/-- R131: each word of Table: Pattern arithmetic writes the number that the table gives, mod 2^32, into x[D] of the context whose
turn it is, adds 1 to STEPS and changes nothing else but the loop stack and PC; PSWAP exchanges two registers. -/
def Sys2Proof.Claims.PatternArithmetic : Prop :=
  ∀ (s : State) (d t g : Nat) (r a b : XReg) (imm : BitVec 14), s.generator = some (d, t, g) →
    let y := stepped s d t g
    let x (n : XReg) : Half := (s.gen d t g).getX n
    let sets (i : Instr) (v : Half) : Prop := exec i s = .next (patDone s d t g (y.putX r v))
    let k := imm.toNat
    sets (.pset r imm) (half imm.toInt) ∧ sets (.pmov r a) (x a) ∧
    sets (.padd r a b) (half ((x a).toNat + (x b).toNat)) ∧ sets (.paddi r a imm) (half ((x a).toNat + imm.toInt)) ∧
    sets (.psub r a b) (half ((x a).toNat - (x b).toNat)) ∧ sets (.pmul r a b) (half ((x a).toNat * (x b).toNat)) ∧
    sets (.pmuli r a imm) (half ((x a).toNat * imm.toInt)) ∧
    (1 ≤ k → k ≤ 8191 → sets (.pdivi r a imm) (half ((x a).toInt / k)) ∧
      sets (.pmodi r a imm) (half ((x a).toInt - k * ((x a).toInt / k)))) ∧
    sets (.pand r a b) (x a &&& x b) ∧ sets (.pxor r a b) (x a ^^^ x b) ∧
    sets (.pshr r a imm) (half (((x a).toNat / 2 ^ k : Nat) : Int)) ∧ sets (.pshl r a imm) (half (((x a).toNat * 2 ^ k : Nat) : Int)) ∧
    (1 ≤ k → k ≤ 32 →
      sets (.phash r a b imm) (half (((x a ^^^ x b).toNat * 0x2545F491 % 2 ^ 32 / 2 ^ (32 - k) : Nat) : Int))) ∧
    sets (.pmin r a b) (if (x a).toInt < (x b).toInt then x a else x b) ∧
    sets (.pmax r a b) (if (x a).toInt < (x b).toInt then x b else x a) ∧
    (k < 4 → sets (.ptab r a imm) (let w := if k % 2 = 0 then (s.gen d t g).kt0 else (s.gen d t g).kt1
      if k < 2 then (if w.getLsbD ((x a).toNat % 64) then 1 else 0) else half ((w.toNat / 256 ^ ((x a).toNat % 8) % 256 : Nat) : Int))) ∧
    exec (.pswap r a) s = .next (patDone s d t g ((y.putX r (x a)).putX a (x r)))

/-- R132: the control words. PEND ends the run; PLOOP opens a loop or, for a count that is not positive, passes its body; PBR
transfers and PSKIP skips a word when the condition holds, and otherwise both complete. A word that completes ends the loops that end with
it and have no iteration left, then starts the next iteration of the loop on top, or goes on; the run ends when PC reaches COUNT. -/
def Sys2Proof.Claims.PatternControl : Prop :=
  (∀ (s : State) (d t g : Nat) (r a b : XReg) (c : XReg) (imm : BitVec 14), s.generator = some (d, t, g) → c.toNat ≤ 4 →
    let y := stepped s d t g
    let h := y.pc
    let n := (y.getX a).toInt
    let cond : Prop := c.toNat = 0 ∨ (c.toNat = 1 ∧ y.getX a = y.getX b) ∨ (c.toNat = 2 ∧ y.getX a ≠ y.getX b) ∨
      (c.toNat = 3 ∧ (y.getX a).toInt < (y.getX b).toInt) ∨ (c.toNat = 4 ∧ (y.getX b).toInt ≤ (y.getX a).toInt)
    let goes (z : Gen) (pc : Nat) : State := s.setGen d t g
      (if pc < z.prog.length then { z with pc := pc } else { z with pc := pc, ended := true, loops := [] })
    exec .pend s = .next (s.setGen d t g { y with ended := true, loops := [] }) ∧
    (n ≤ 0 → exec (.ploop r a imm) s = .next (goes (y.putX r 0) (h + imm.toNat + 1))) ∧
    (0 < n → exec (.ploop r a imm) s =
      .next (goes ({ y with loops := ⟨0, n.toNat, h + 1, h + imm.toNat, r⟩ :: y.loops }.putX r 0) (h + 1))) ∧
    (cond → ∀ dest : Nat, (dest : Int) = h + imm.toInt → exec (.pbr c a b imm) s = .next (goes y dest)) ∧
    (¬ cond → exec (.pbr c a b imm) s = .next (patDone s d t g y) ∧ exec (.pskip c a b) s = .next (patDone s d t g y)) ∧
    (cond → h + 1 < y.prog.length →
      exec (.pskip c a b) s = .next (patDone s d t g { y with pc := h + 1, steps := (s.gen d t g).steps + 2 })) ∧
    (cond → y.prog.length ≤ h + 1 → exec (.pskip c a b) s = .next (goes y (h + 1)))) ∧
  (∀ (y : Gen) (done_ : List GenLoop), (∀ l ∈ done_, l.last = y.pc ∧ l.n ≤ l.i + 1) →
    let at_ (z : Gen) : Gen := if z.prog.length ≤ z.pc then { z with ended := true, loops := [] } else z
    (y.loops = done_ → y.wordDone = at_ { y with loops := [], pc := y.pc + 1 }) ∧
    (∀ l rest, y.loops = done_ ++ l :: rest → l.last ≠ y.pc → y.wordDone = at_ { y with loops := l :: rest, pc := y.pc + 1 }) ∧
    (∀ l rest, y.loops = done_ ++ l :: rest → l.last = y.pc → l.i + 1 < l.n →
      y.wordDone = at_ ({ y with loops := { l with i := l.i + 1 } :: rest, pc := l.head }.putX l.xreg (half (l.i + 1)))))

/-- R131, R133, R134, R138: the emitters produce the coordinates of Table: Pattern emitters in order. A coordinate outside the bounds is clipped and
counted; in a run that pushes, another is counted and pushed as one entry with side-band 0x7F, and a full FIFO stalls the context at it;
in a run that collects, another is counted and added to the table, one that is already there is GEN detail 0x02 and one too many 0x03, with the
run at its end, its token in ERROR, cause 0x01, and GBAD and EMIT set; after the last coordinate the word completes. -/
def Sys2Proof.Claims.PatternEmitters : Prop :=
  (∀ (s : State) (d t g : Nat) (r a b : XReg) (imm : BitVec 14), s.generator = some (d, t, g) →
    let y := stepped s d t g
    let x (n : XReg) : Int := (y.getX n).toInt
    let k : Int := (imm.toNat : Int)
    let band (k : Int) : List (Half × Half) :=
      (List.range (x a + x b + 1).toNat).map (fun (j : Nat) => (y.getX r, half (x r + k * (j - x a))))
    let emits (i : Instr) (cs : List (Half × Half)) : Prop := exec i s = .next (emitAll d t g cs (s.setGen d t g y))
    emits (.pemit a b) [(y.getX a, y.getX b)] ∧ emits (.pband r a b) (band 1) ∧
    (1 ≤ imm.toNat → imm.toNat ≤ 8191 → emits (.pdil r a b imm) (band k) ∧
      emits (.pbdiag r a imm) ((List.range imm.toNat).map (fun (j : Nat) => (y.getX r, half ((x r / k + x a) * k + j))))) ∧
    emits (.pkron r a) (let m := (y.getX r).toNat % 64
      ((List.range 64).filter (fun c => y.kt0.getLsbD (8 * (m / 8) + c / 8) && y.kt1.getLsbD (8 * (m % 8) + c % 8))).map
        (fun (c : Nat) => (y.getX r, half (x a + c))))) ∧
  (∀ (s : State) (d t g : Nat) (e : Half × Half) (es : List (Half × Half)) (u : Agent) (f : FReg) (k : TokIx),
    let x := s.gen d t g
    let inside : Prop := 0 ≤ e.1.toInt ∧ e.1.toInt < x.nr.toInt ∧ 0 ≤ e.2.toInt ∧ e.2.toInt < x.nc.toInt
    emitAll d t g [] s = patDone s d t g { x with todo := [] } ∧
    (¬ inside → emitAll d t g (e :: es) s = emitAll d t g es (s.setGen d t g { x with clip := min (x.clip + 1) (2 ^ 29 - 1) })) ∧
    (inside → x.mode = .push u f k → (agentFifo s u f.toNat).room = 0 →
      emitAll d t g (e :: es) s = s.setGen d t g { x with todo := e :: es }) ∧
    (inside → x.mode = .push u f k → 0 < (agentFifo s u f.toNat).room →
      emitAll d t g (e :: es) s = emitAll d t g es (noteProgress
        (modFifo (s.setGen d t g { x with emit := min (x.emit + 1) (2 ^ 32 - 1) }) u f.toNat (fun z =>
          z.push { w := BitVec.ofNat 80 (e.1.toNat + e.2.toNat * 2 ^ 32), sb := 0x7F })) u k.toNat)) ∧
    (∀ cap, inside → x.mode = .collect u k cap →
      let ends (det : Nat) : Prop := ∀ o, u.isHub = false → s.op u k.toNat = some o →
        let z := emitAll d t g (e :: es) s
        let y := z.gen d t g
        z.getTok u k.toNat = ⟨.error, 1⟩ ∧ y.st = .ready ∧ y.emit = x.got.length ∧ y.bad = nat64 (e.1.toNat + e.2.toNat * 2 ^ 32) ∧
          ∃ o' fi, z.op u k.toNat = some o' ∧ o'.fault = some fi ∧ fi.cls = 0x0C ∧ fi.detail = det
      (e ∉ x.got → x.got.length ≠ cap →
        emitAll d t g (e :: es) s = emitAll d t g es (s.setGen d t g { x with emit := min (x.emit + 1) (2 ^ 32 - 1), got := x.got ++ [e] })) ∧
      (e ∈ x.got → ends 2) ∧ (e ∉ x.got → x.got.length = cap → ends 3)))

/-- R136: GLOAD of an image at a multiple of 16 whose header and words pass the checks installs its program, tables and bounds, clears
the registers, EMIT, CLIP and WALK, and leaves the context READY; PC, the loop stack and the other contexts stay. A header or word that
fails raises GEN detail 0x06, with GBAD and EMIT, or 0x01, with the word's index and the position of its field, and leaves the context.
Through a TILE window the header and the words are the bytes that the window shows. -/
def Sys2Proof.Claims.GeneratorLoad : Prop :=
  ∀ (s s1 s2 : State) (u : Agent) (g : Guard) (x : GReg) (a : SReg) (off : BitVec 29) (hd bs : List Byte), Issues s u g →
    let s0 := noteIssue s u
    let c := s.gen u.die u.tile x.toNat
    let da := int64 ((s.getS u a).toNat + off.toInt)
    let w (i : Nat) : Nat := numOf ((hd.drop (8 * i)).take 8)
    let count := w 0
    let nr := w 1 % 2 ^ 32
    let nc := w 1 / 2 ^ 32
    let size := 8 * ((count + 1) / 2)
    let good : Prop := 1 ≤ count ∧ count ≤ 64 ∧ 1 ≤ nr ∧ nr < 2 ^ 31 ∧ 1 ≤ nc ∧ nc < 2 ^ 31
    let words := halves (bs.take (4 * count))
    let installs (s2 : State) : Prop := ∃ t : State, exec (.gload g x a off) s = .next (t.retire u) ∧
      (let y := t.gen u.die u.tile x.toNat
       y.st = .ready ∧ y.prog = words ∧ y.prog.length = count ∧ y.kt0 = nat64 (w 2) ∧ y.kt1 = nat64 (w 3) ∧
       y.nr.toNat = nr ∧ y.nc.toNat = nc ∧ (∀ n, y.getX n = 0) ∧ y.emit = 0 ∧ y.clip = 0 ∧ y.walk = false ∧ y.pc = c.pc ∧ y.loops = c.loops) ∧
      (∀ d' t' g', genKey d' t' g' ≠ genKey u.die u.tile x.toNat → t.gen d' t' g' = s2.gen d' t' g') ∧ t.mem = s2.mem
    c.st ≠ .run →
    (da.toNat % 16 ≠ 0 → exec (.gload g x a off) s = .next (takeFault s0 u { cls := 3, detail := 1, addr := da })) ∧
    (da.toNat % 16 = 0 → readLoads s0 (s0.req u) da 4 = (s1, .ok hd) → hd.length = 32 →
      (¬ good → exec (.gload g x a off) s =
        .next (takeFault s1 u { cls := 0x0C, detail := 6, addr := 0, info0 := c.bad, info1 := nat64 c.emit })) ∧
      (good → readLoads s1 (s1.req u) (da + 32) ((count + 1) / 2) = (s2, .ok bs) → bs.length = size →
        (∀ k, badWord words = some k → exec (.gload g x a off) s = .next (takeFault s2 u
          { cls := 0x0C, detail := 1, addr := 0, info0 := nat64 k, info1 := nat64 (badField (words.getD k 0)) })) ∧
        (badWord words = none → installs s2))) ∧
    (da.toNat % 16 = 0 → hd = tileBytes s u da 32 → InTile s u da (32 + size) → Sound s u da (32 + size) → good →
      bs = tileBytes s u (da + 32) size → badWord words = none → installs s)

/-- R137, R138: GRUN, GRUN.T and GINV on a context that does not run and a token that is IDLE or DONE begin a run: the context is in RUN
with EMIT, CLIP and STEPS zero, the token is BUSY, GRUN and GINV take x0 and x1 from s[B] and begin the program at PC 0 with no loop open
and x2 to x15 zero (log entry 118), a GRUN holds the producer role of its FIFO, and
GINV clears WALK. An EMPTY context, or GRUN.T without a walk, raises GEN detail 0x05 with GBAD and EMIT, a BUSY or ERROR token TOKEN detail 0x01 or 0x02, a context in
RUN TOKEN detail 0x09, a GINV whose table address is no multiple of 8 APERTURE detail 0x08 with that address as ADDR (the model's
choice of ADDR, log entry 116). -/
def Sys2Proof.Claims.GeneratorRuns : Prop :=
  ∀ (s : State) (d n k : Nat) (g : Guard) (sc : ScopeCode) (x : GReg) (b a : SReg) (f : FReg) (t : TokIx) (cap : BitVec 18),
    let u := Agent.strand d n k
    let s0 := noteIssue s u
    let c := s.gen d n x.toNat
    let v := s.getS u b
    let tok := (s.getTok u t.toNat).st
    let empty (i : Instr) : Prop :=
      exec i s = .next (takeFault s0 u { cls := 0x0C, detail := 5, addr := 0, info0 := c.bad, info1 := nat64 c.emit })
    let begun (i : Instr) (kind : OpKind) (p : State → Gen → Prop) : Prop := ∃ s' : State, exec i s = .next (s'.retire u) ∧
      (s'.getTok u t.toNat).st = .busy ∧ (∃ o, s'.op u t.toNat = some o ∧ o.kind = kind ∧ o.scope = sc ∧ o.st = .started) ∧
      s'.mem = s.mem ∧ (let y := s'.gen d n x.toNat
        y.st = .run ∧ y.emit = 0 ∧ y.clip = 0 ∧ y.steps = 0 ∧ y.prog = c.prog ∧ p s' y)
    let args (y : Gen) : Prop := y.pc = 0 ∧ y.loops = [] ∧ y.getX 0 = v.extractLsb' 0 32 ∧ y.getX 1 = v.extractLsb' 32 32 ∧ ∀ r : XReg, 2 ≤ r.toNat → y.getX r = 0
    let traps (i : Instr) (cls det : Nat) : Prop := exec i s = .next (takeFault s0 u { cls := cls, detail := det, addr := 0 })
    Issues s u g →
    (c.st = .run → traps (.grun g sc x b f t) 0x0B 9 ∧ traps (.grunT g sc x f t) 0x0B 9 ∧ traps (.ginv g sc x b a cap t) 0x0B 9) ∧
    (c.st ≠ .run → ownRegion s u ≠ none →
      (tok = .busy → traps (.grun g sc x b f t) 0x0B 1 ∧ traps (.grunT g sc x f t) 0x0B 1 ∧ traps (.ginv g sc x b a cap t) 0x0B 1) ∧
      (tok = .error → traps (.grun g sc x b f t) 0x0B 2 ∧ traps (.grunT g sc x f t) 0x0B 2 ∧ traps (.ginv g sc x b a cap t) 0x0B 2)) ∧
    (c.st ≠ .run → tok = .idle ∨ tok = .done → ownRegion s u ≠ none →
      ((agentFifo s u f.toNat).producer ≠ none → traps (.grun g sc x b f t) 1 0x33 ∧ traps (.grunT g sc x f t) 1 0x33) ∧
      ((agentFifo s u f.toNat).producer = none →
        (c.st = .empty → empty (.grun g sc x b f t) ∧ empty (.grunT g sc x f t)) ∧
        (c.st = .ready → c.walk = false → empty (.grunT g sc x f t)) ∧
        (c.st = .ready → reportPending s u t.toNat = false →
          begun (.grun g sc x b f t) (.grun x) (fun s' y => args y ∧ y.mode = .push u f t ∧
            (agentFifo s' u f.toNat).producer = some (.gen (genKey d n x.toNat))) ∧
          (c.walk = true → begun (.grunT g sc x f t) (.grunT x) (fun s' y => (∀ r, y.getX r = c.getX r) ∧ y.pc = c.pc ∧ y.loops = c.loops ∧ y.mode = .transposed u f t 0 ∧
            (agentFifo s' u f.toNat).producer = some (.gen (genKey d n x.toNat))))))) ∧
    (c.st = .ready → tok = .idle ∨ tok = .done → reportPending s u t.toNat = false →
      ((s.ctx u).apTile.toNat % 2 = 1 → (s.ctx u).apTile.toNat / 2 ^ 20 = (s.getS u a).toNat / 2 ^ 20 → (s.getS u a).toNat % 8 = 0 →
        (s.getS u a).toNat % 2 ^ 20 + 8 * cap.toNat ≤ 2 ^ 20 →
        begun (.ginv g sc x b a cap t) (.ginv x) (fun _ y => args y ∧ y.mode = .collect u t cap.toNat ∧ y.walk = false ∧ y.walkAt = s.getS u a)) ∧
      ((s.getS u a).toNat % 8 ≠ 0 →
        exec (.ginv g sc x b a cap t) s = .next (takeFault s0 u { cls := 6, detail := 8, addr := s.getS u a })))

/-- R131, R134, R137, R138, R140: how runs go on and end, while the tile is in no gear or spine change. A stalled emitter goes on when its FIFO has room; a transposed run pushes the table's next
entry with row and column exchanged; at its end a run releases its FIFO, its token is DONE and its context READY; GINV writes the
collected coordinates, by column and then by row, and sets WCNT, EMIT and WALK; 2^32 words without an end are GEN detail 0x04, with the token in
ERROR. -/
def Sys2Proof.Claims.GeneratorRunEnds : Prop :=
  (∀ (s : State) (d n g : Nat) (a : Agent) (f : FReg) (t : TokIx) (o : EngOp),
    let x := s.gen d n g
    let ends (i : Instr) (s' : State) : Prop := exec i s = .next s' ∧ (s'.getTok a t.toNat).st = .done ∧ s'.op a t.toNat = none
    x.st = .run → a.isHub = false → s.op a t.toNat = some o → opRuns s o = true → (s.tile a.die a.tile).st = .run → s.shake = false →
    (∀ e es, x.mode = .push a f t → x.todo = e :: es → 0 < (agentFifo s a f.toNat).room →
      exec (.coordinatePush d n g) s = .next (emitAll d n g (e :: es) s)) ∧
    (∀ k s1 bs, x.mode = .transposed a f t k → k < x.wcnt → 0 < (agentFifo s a f.toNat).room →
      readGen s (s.opReq o) (x.walkAt + nat64 (8 * k)) 8 = (s1, .ok bs) → bs.length = 8 → ∃ s' : State,
        exec (.coordinatePush d n g) s = .next s' ∧ s'.gen d n g = { x with emit := min (x.emit + 1) (2 ^ 32 - 1), mode := .transposed a f t (k + 1) } ∧
        (ownRegion s1 a ≠ none → (agentFifo s' a f.toNat).entries = (agentFifo s1 a f.toNat).entries ++
          [{ w := BitVec.ofNat 80 (numOf bs / 2 ^ 32 + numOf bs % 2 ^ 32 * 2 ^ 32), sb := 0x7F }])) ∧
    (x.mode = .push a f t → x.todo = [] → x.ended = true → ∃ s' : State, ends (.grunComplete d n g) s' ∧ (s'.gen d n g).st = .ready ∧ s'.mem = s.mem) ∧
    (∀ k, x.mode = .transposed a f t k → x.wcnt ≤ k → ∃ s' : State, ends (.grunComplete d n g) s' ∧ (s'.gen d n g).st = .ready ∧ s'.mem = s.mem) ∧
    (∀ cap s1, x.mode = .collect a t cap → x.todo = [] → x.ended = true → x.got ≠ [] →
      writeGen s (s.opReq o) x.walkAt ((sortCols x.got).flatMap (fun e => bytesOf 8 (e.1.toNat + e.2.toNat * 2 ^ 32))) = (s1, .ok ()) →
      ∃ s' : State, ends (.ginvComplete d n g) s' ∧ s'.mem = s1.mem ∧ (let y := s'.gen d n g
        y.st = .ready ∧ y.wcnt = x.got.length ∧ y.emit = x.got.length ∧ y.walk = true ∧ y.walkAt = x.walkAt)) ∧
    (∀ cap, x.mode = .collect a t cap → x.todo = [] → x.ended = true → x.got = [] →
      ∃ s' : State, ends (.ginvComplete d n g) s' ∧ s'.mem = s.mem ∧ (let y := s'.gen d n g
        y.st = .ready ∧ y.wcnt = 0 ∧ y.emit = 0 ∧ y.walk = true ∧ y.walkAt = x.walkAt)) ∧
    (x.mode = .push a f t → x.todo = [] → x.ended = false → x.got = [] → 2 ^ 32 ≤ x.steps → ∃ s' : State, exec (.genRunaway d n g) s = .next s' ∧
      (s'.getTok a t.toNat) = ⟨.error, 1⟩ ∧ (s'.gen d n g).st = .ready ∧ ∃ o' fi, s'.op a t.toNat = some o' ∧ o'.fault = some fi ∧
        fi.cls = 0x0C ∧ fi.detail = 4)) ∧
  (∀ l : List (Half × Half), (sortCols l).Perm l ∧
    (sortCols l).Pairwise (fun e e' => e.2.toNat < e'.2.toNat ∨ (e.2 = e'.2 ∧ e.1.toNat ≤ e'.1.toNat)))

/-- R139: GSAVE writes the 512-byte image of a context that does not run, GREST reads one back: its program, tables, bounds, PC, counts and
walk are those of the image, whose fields and words are checked; both need a multiple of 64. Through a TILE window the image is the
512 bytes that the window shows, and no other byte changes. -/
def Sys2Proof.Claims.GeneratorImages : Prop :=
  ∀ (s s1 s2 : State) (u : Agent) (g : Guard) (x : GReg) (a : SReg) (off : BitVec 29) (ps : List Place) (bs : List Byte) (y : Gen), Issues s u g →
    let s0 := noteIssue s u
    let da := int64 ((s.getS u a).toNat + off.toInt)
    let c := s.gen u.die u.tile x.toNat
    let f (lo n : Nat) : Nat := numOf ((bs.drop lo).take n)
    c.st ≠ .run →
    (da.toNat % 64 ≠ 0 →
      exec (.gsave g x a off) s = .next (takeFault s0 u { cls := 3, detail := 1, addr := da }) ∧
      exec (.grest g x a off) s = .next (takeFault s0 u { cls := 3, detail := 1, addr := da })) ∧
    (da.toNat % 64 = 0 → route s0 (s0.req u) .store da 512 = (s1, .ok ps) → writeStores (s1.req u) s1 da (genImage c) 64 = (s2, .ok ()) →
      exec (.gsave g x a off) s = .next (s2.retire u)) ∧
    (da.toNat % 64 = 0 → readLoads s0 (s0.req u) da 64 = (s1, .ok bs) → genOfImage bs c = .ok y →
      exec (.grest g x a off) s = .next ((s1.setGen u.die u.tile x.toNat y).retire u) ∧
      (bs.length = 512 → y.prog.length = f 344 8 % 128 ∧ y.pc = f 344 8 / 2 ^ 7 % 128 ∧ y.nr.toNat = f 336 4 ∧ y.nc.toNat = f 340 4 ∧
        y.kt0.toNat = f 320 8 ∧ y.kt1.toNat = f 328 8 ∧ y.emit = f 416 4 ∧ y.walkAt.toNat = f 424 8 ∧ y.wcnt = f 432 4 ∧
        y.steps = f 440 8 ∧ y.loops.length = f 344 8 / 2 ^ 14 % 8 ∧ (∀ n : XReg, (y.getX n).toNat = f (4 * n.toNat) 4))) ∧
    (da.toNat % 64 = 0 → InTile s u da 512 → Memory.wf s.mem = true → ∃ t : State, exec (.gsave g x a off) s = .next (t.retire u) ∧
      t.ctxs = s.ctxs ∧ t.gens = s.gens ∧ (∀ b, b < 512 → mget t.mem (tileLoc u da + b) = (genImage c).getD b 0) ∧
      (∀ b, b < tileLoc u da ∨ tileLoc u da + 512 ≤ b → mget t.mem b = mget s.mem b)) ∧
    (da.toNat % 64 = 0 → InTile s u da 512 → Sound s u da 512 → genOfImage (tileBytes s u da 512) c = .ok y →
      exec (.grest g x a off) s = .next ((s0.setGen u.die u.tile x.toNat y).retire u))

end Generator

namespace Sys2Proof.Claims

open Sys2Proof.Machine

/-- Bits [hi:lo] of a descriptor. -/
def descBits (d : BitVec 512) (hi lo : Nat) : Nat := d.toNat / 2 ^ lo % 2 ^ (hi + 1 - lo)

end Sys2Proof.Claims

section Engines

open Sys2Proof Sys2Proof.Machine Sys2Proof.Claims

/-- R91, R95, R96, R99: CPY, CPYX and COLL read 64 bytes at an address that is a multiple of 64 as loads, check the token and then the
descriptor, and start the operation that KIND names: its token is BUSY, it has the descriptor as it was read, and no memory changes. A
BUSY or ERROR token raises TOKEN detail 0x01 or 0x02, a KIND that the instruction does not accept ILLEGAL detail 0x20, a set reserved bit or
reserved SCOPE 0x21, a bad ratio of a transform 0x22, a misaligned NADDR ALIGN, a transform without a region TOKEN detail 0x05. The fields of a
collective are checked before its members and its extents. Four points are the model's choice: that a transform's own fields come before its region
and its region before its extents (log entry 25), the order of a collective's checks (log entry 24), the outcome of an extent that has a whole window
between its ends (log entry 129), and that a member that cannot be reached at issue is LINK (log entry 130). -/
def Sys2Proof.Claims.CopyIssue : Prop :=
  ∀ (s s1 : State) (u : Agent) (g : Guard) (t : TokIx) (a : SReg) (off : BitVec 29) (bs : List Byte), Issues s u g →
    let s0 := noteIssue s u
    let da := int64 ((s.getS u a).toNat + off.toInt)
    let d := BitVec.ofNat 512 (numOf bs)
    let kind := descBits d 323 320
    let rsvd : Prop := descBits d 383 333 ≠ 0 ∨ descBits d 326 324 = 0 ∨ descBits d 326 324 = 7
    let naddr : Word := nat64 (descBits d 511 448)
    let ntf : Bool := d.getLsbD 327
    let traps (s' : State) (i : Instr) (cls det : Nat) (x : Word) : Prop :=
      exec i s = .next (takeFault s' u { cls := cls, detail := det, addr := x })
    let issued (i : Instr) (k : OpKind) : Prop := ∃ s' : State, exec i s = .next (s'.retire u) ∧ (s'.getTok u t.toNat).st = .busy ∧
      s'.mem = s1.mem ∧ (∀ r, s'.getS u r = s.getS u r) ∧
      ∃ o n, s'.op u t.toNat = some o ∧ o.kind = k ∧ o.desc = d ∧ o.st = .queued n ∧ o.scope.toNat = descBits d 326 324 ∧ o.agent = u
    let tok := (s1.getTok u t.toNat).st
    (da.toNat % 64 ≠ 0 → traps s0 (.cpy g t a off) 3 1 da ∧ traps s0 (.cpyx g t a off) 3 1 da ∧ traps s0 (.coll g t a off) 3 1 da) ∧
    (da.toNat % 64 = 0 → Fetches s u da 8 s1 bs →
      (tok = .busy → traps s1 (.cpy g t a off) 0x0B 1 0 ∧ traps s1 (.cpyx g t a off) 0x0B 1 0 ∧ traps s1 (.coll g t a off) 0x0B 1 0) ∧
      (tok = .error → traps s1 (.cpy g t a off) 0x0B 2 0 ∧ traps s1 (.cpyx g t a off) 0x0B 2 0 ∧ traps s1 (.coll g t a off) 0x0B 2 0) ∧
      (tok = .idle ∨ tok = .done → reportPending s1 u t.toNat = false →
        (1 < kind → traps s1 (.cpy g t a off) 1 0x20 0) ∧ (kind ≠ 2 → traps s1 (.cpyx g t a off) 1 0x20 0) ∧
        (kind ≠ 3 → traps s1 (.coll g t a off) 1 0x20 0) ∧
        (kind ≤ 1 → (rsvd ∨ descBits d 447 384 ≠ 0) → traps s1 (.cpy g t a off) 1 0x21 0) ∧
        (kind = 2 → (rsvd ∨ descBits d 447 432 ≠ 0) → traps s1 (.cpyx g t a off) 1 0x21 0) ∧
        (kind = 3 → (rsvd ∨ descBits d 447 442 ≠ 0) → traps s1 (.coll g t a off) 1 0x21 0) ∧
        (kind ≤ 1 → ¬ rsvd → descBits d 447 384 = 0 → ntf = true → naddr.toNat % 8 ≠ 0 → traps s1 (.cpy g t a off) 3 1 naddr) ∧
        ((ntf = true → naddr.toNat % 8 = 0) → ¬ rsvd →
          (kind ≤ 1 → descBits d 447 384 = 0 →
            (∀ f, copyExtentFault s1 (s1.req u) d = some f → exec (.cpy g t a off) s = .next (takeFault s1 u f)) ∧
            (copyExtentFault s1 (s1.req u) d = none → dEmpty d = false → issued (.cpy g t a off) (if kind = 0 then .copy else .fill)) ∧
            (dEmpty d = true → ntf = false → ∃ s' : State, exec (.cpy g t a off) s = .next (s'.retire u) ∧
              (s'.getTok u t.toNat).st = .done ∧ s'.op u t.toNat = none ∧ s'.mem = s1.mem)) ∧
          (kind = 2 → descBits d 447 432 = 0 →
            let ratio : Prop := let rout := descBits d 431 416; let rin := descBits d 415 400; let len := descBits d 159 128
              rout ≠ 0 ∧ rin ≠ 0 ∧ len ≠ 0 ∧ len % 8 = 0 ∧ len * rout % (8 * rin) = 0
            (¬ ratio → traps s1 (.cpyx g t a off) 1 0x22 0) ∧
            (ratio → ownRegion s1 u = none → traps s1 (.cpyx g t a off) 0x0B 5 0) ∧
            (ratio → ownRegion s1 u ≠ none → copyExtentFault s1 (s1.req u) d = none → dEmpty d = false →
              issued (.cpyx g t a off) .xform)) ∧
          (kind = 3 → descBits d 447 442 = 0 →
            let ends (f : FaultInfo) (s' : State) : Prop := exec (.coll g t a off) s = .next (takeFault s' u f)
            (∀ f, collOwnFault d = some f → ends f s1) ∧
            (∀ s2 p ml, collOwnFault d = none → groupEntry s1 (s1.req u) d = (s2, .ok (p, ml)) →
              (∀ f, collFieldFault d p = some f → ends f s2) ∧
              (∀ s3 m, collFieldFault d p = none → groupMembers s2 (s1.req u) ml p = (s3, .ok m) →
                (∀ f, collExtentFault s3 (s1.req u) d p = some f → ends f s3) ∧
                (∀ f, collExtentFault s3 (s1.req u) d p = none → collLink s3 u.die m p = some f → ends f s3) ∧
                (collExtentFault s3 (s1.req u) d p = none → collLink s3 u.die m p = none → ∃ s' : State, exec (.coll g t a off) s = .next (s'.retire u) ∧
                  (s'.getTok u t.toNat).st = .busy ∧ s'.mem = s3.mem ∧
                  ∃ o, s'.op u t.toNat = some o ∧ o.kind = .coll ∧ o.desc = d ∧ o.num = p ∧ o.data = m)))))))

/-- R89, R92, R99: an engine of the die takes the operation that has queued longest. A COPY of one row moves its bytes in order from where
its source reads to where its destination routes, and writes nothing else; a FILL repeats its 8-byte pattern; then the token is DONE. Through an enabled TILE window both complete whatever the rest of the package holds,
row by row of every plane: byte i of row r of plane p stands at the base plus p times the plane stride, r times the row stride and i, on each side. -/
def Sys2Proof.Claims.CopyPerforms : Prop :=
  ∀ (s : State) (u : Agent) (t die : Nat) (o : EngOp),
    (enginesBusy s die + (s.die die).lost < 32 → oldestQueued s (fun x => opFreezeKind x.kind == 1 && x.agent.die == die && opRuns s x) = some o →
      exec (.copyEngineStart die) s = .next (s.setOp o.agent o.tok.toNat { o with st := .started })) ∧
    (s.op u t = some o → o.agent = u → o.tok.toNat = t → o.st = .started → opRuns s o = true → dNtf o.desc = false → dLen o.desc ≠ 0 →
      (∀ p ∈ s.pend, p.agent ≠ u) → o.apTile = (s.ctx u).apTile →
      let ends (s' : State) : Prop := exec (.copyComplete u t) s = .next s' ∧ (s'.getTok u t).st = .done ∧ s'.op u t = none
      let n := dLen o.desc
      let isRow (x : Nat × Nat) : Prop := x.1 < dPlanes o.desc ∧ x.2 < dRows o.desc
      let src (x : Nat × Nat) : Word := dSrc o.desc + int64 (x.1 * (BitVec.ofNat 32 (descBits o.desc 287 256)).toInt + x.2 * (BitVec.ofNat 32 (descBits o.desc 223 192)).toInt)
      let dst (x : Nat × Nat) : Word := dDst o.desc + int64 (x.1 * (BitVec.ofNat 32 (descBits o.desc 319 288)).toInt + x.2 * (BitVec.ofNat 32 (descBits o.desc 255 224)).toInt)
      let apart (a b : Word) : Prop := tileLoc u a + n ≤ tileLoc u b ∨ tileLoc u b + n ≤ tileLoc u a
      (∀ x, isRow x → InTile s u (dst x) n) → (∀ x y, isRow x → isRow y → x ≠ y → apart (dst x) (dst y)) →
      (o.kind = .copy → dKind o.desc = 0 → (∀ x, isRow x → InTile s u (src x) n ∧ Sound s u (src x) n) →
        (∀ x y, isRow x → isRow y → apart (src x) (dst y)) → ∃ s' : State, ends s' ∧
          (∀ x i, isRow x → i < n → mget s'.mem (tileLoc u (dst x) + i) = mget s.mem (tileLoc u (src x) + i)) ∧
          (∀ a, (∀ x, isRow x → a < tileLoc u (dst x) ∨ tileLoc u (dst x) + n ≤ a) → mget s'.mem a = mget s.mem a)) ∧
      (o.kind = .fill → dKind o.desc = 1 → ∃ s' : State, ends s' ∧
          (∀ x i, isRow x → i < n → mget s'.mem (tileLoc u (dst x) + i) = BitVec.ofNat 8 ((dSrc o.desc).toNat / 256 ^ (i % 8))) ∧
          (∀ a, (∀ x, isRow x → a < tileLoc u (dst x) ∨ tileLoc u (dst x) + n ≤ a) → mget s'.mem a = mget s.mem a))) ∧
    (s.op u t = some o → o.agent = u → o.tok.toNat = t → o.st = .started → opRuns s o = true → dRows o.desc = 1 → dPlanes o.desc = 1 →
      dLen o.desc ≠ 0 → dNtf o.desc = false →
      let q := s.opReq o
      let ends (s' : State) : Prop := exec (.copyComplete u t) s = .next s' ∧ (s'.getTok u t).st = .done ∧ s'.op u t = none
      let n := dLen o.desc
      let pattern : List Byte := (List.range n).map (fun i => BitVec.ofNat 8 ((dSrc o.desc).toNat / 256 ^ (i % 8)))
      let home : Prop := o.apTile = (s.ctx u).apTile ∧ ∀ p ∈ s.pend, p.agent ≠ u
      let src := tileLoc u (dSrc o.desc)
      let dst := tileLoc u (dDst o.desc)
      (o.kind = .copy → dKind o.desc = 0 → home → InTile s u (dSrc o.desc) n → Sound s u (dSrc o.desc) n → InTile s u (dDst o.desc) n →
        src + n ≤ dst ∨ dst + n ≤ src → ∃ s' : State, ends s' ∧
          ∀ y, mget s'.mem y = if dst ≤ y ∧ y < dst + n then mget s.mem (src + (y - dst)) else mget s.mem y) ∧
      (o.kind = .fill → dKind o.desc = 1 → home → InTile s u (dDst o.desc) n → ∃ s' : State, ends s' ∧ s'.mem = mwrite s.mem dst pattern) ∧
      (∀ s1 s2 ps pd, o.kind = .copy → dKind o.desc = 0 → route s q .load (dSrc o.desc) n = (s1, .ok ps) → waitsNow s1 q ps = false →
        partFault s1 true (dSrc o.desc) ps = none → route s1 q .store (dDst o.desc) n = (s2, .ok pd) → waitsNow s2 q pd = false →
        partFault s2 false (dDst o.desc) pd = none →
        (locsOf pd).Nodup → (∀ x ∈ locsOf ps, x ∉ locsOf pd) → (∀ x ∈ locsOf pd, boxBusy s2 x = false) → ∃ s' : State, ends s' ∧
          (∀ (i x y : Nat), (locsOf ps)[i]? = some x → (locsOf pd)[i]? = some y → mget s'.mem y = mget s.mem x) ∧
          (∀ y, y ∉ locsOf pd → mget s'.mem y = mget s.mem y)) ∧
      (∀ s1, o.kind = .fill → dKind o.desc = 1 → writeGen s q (dDst o.desc) pattern = (s1, .ok ()) → ∃ s' : State, ends s' ∧ s'.mem = s1.mem))

/-- R101-R105: CPYS of a good table starts its slot, a slot in RUN or WAITTOK raises TOKEN detail 0x04 and a bad header ILLEGAL detail 0x25;
STAGE adds to a slot's counter, up to 255. A slot whose counter has reached the stage of the entry at its cursor starts that entry's operation
and moves on; before that stage nothing happens. Of the entry's token, BUSY waits in WAITTOK and ERROR stops the slot, before the entry is looked
at further; a set reserved bit of an entry whose token is free stops the slot with the token in ERROR, cause 0x01. A slot whose table could not be
read when its strand started reads it now (R329). A misaligned table raises ALIGN before the slot's state is looked at: the model's choice, log
entry 108. -/
def Sys2Proof.Claims.CopySchedules : Prop :=
  (∀ (s s1 : State) (u : Agent) (g : Guard) (k : BitVec 3) (a : SReg) (off : BitVec 29) (inc : BitVec 8) (h : List Byte), Issues s u g →
    let s0 := noteIssue s u
    let ta := int64 ((s.getS u a).toNat + off.toInt)
    let x := (s.ctx u).getSch k.toNat
    let busy : Prop := x.st = .run ∨ x.st = .waittok
    let n := numOf h
    exec (.stage g k inc) s = .next ((s0.modCtx u (fun c => c.putSch k.toNat { x with ctr := min 255 (x.ctr + inc.toNat) })).retire u) ∧
    (ta.toNat % 16 ≠ 0 → exec (.cpys g k a off) s = .next (takeFault s0 u { cls := 3, detail := 1, addr := ta })) ∧
    (ta.toNat % 16 = 0 → busy → exec (.cpys g k a off) s = .next (takeFault s0 u { cls := 0x0B, detail := 4, addr := 0 })) ∧
    (ta.toNat % 16 = 0 → ¬ busy → Fetches s u ta 2 s1 h →
      (1 ≤ n → n ≤ 256 → exec (.cpys g k a off) s = .next (((clearProbes s1 u (8 + k.toNat)).modCtx u (fun c => c.putSch k.toNat
        { st := .run, ctr := 0, cursor := 0, count := n, table := ta })).retire u)) ∧
      (n = 0 ∨ 256 < n → exec (.cpys g k a off) s = .next (takeFault s1 u { cls := 1, detail := 0x25, addr := 0 })))) ∧
  (∀ (s s1 s2 : State) (u : Agent) (k : Nat) (hb eb bs : List Byte),
    let x := (s.ctx u).getSch k
    let e := numOf eb
    let da : Word := nat64 (e % 2 ^ 64)
    let d := BitVec.ofNat 512 (numOf bs)
    let t := descBits d 330 328
    let ends (s' : State) : Prop := exec (.scheduleRelease u k) s = .next s'
    let leaves (b : State) (st : SchSt) : State := b.modCtx u (fun c => c.putSch k { c.getSch k with st := st })
    let entry := readLoads s (schReq s u k) (x.table + 16 + nat64 (16 * x.cursor)) 2
    x.st = .run ∨ x.st = .waittok → mayProceed s u = true →
    (x.count = 0 → x.table.toNat % 16 = 0 → readLoads s (schReq s u k) x.table 2 = (s1, .ok hb) → 1 ≤ numOf hb → numOf hb ≤ 256 →
      ends ((clearProbes s1 u (8 + k)).modCtx u (fun c => c.putSch k { st := .run, ctr := 0, cursor := 0, count := numOf hb, table := x.table }))) ∧
    (x.cursor < x.count → entry = (s1, .later) → ends (s.waiting s1)) ∧
    (x.cursor < x.count → entry = (s1, .ok eb) →
      (x.ctr < e / 2 ^ 64 % 2 ^ 8 → ends s) ∧
      (e / 2 ^ 64 % 2 ^ 8 ≤ x.ctr → readLoads s1 (schReq s1 u k) da 8 = (s2, .ok bs) →
        ((s2.getTok u t).st = .busy → ends (leaves s2 .waittok)) ∧
        ((s2.getTok u t).st = .error → ends (leaves s2 .stopped)) ∧
        ((s2.getTok u t).st = .idle ∨ (s2.getTok u t).st = .done →
          (e / 2 ^ 72 % 2 ^ 56 ≠ 0 → ∃ s' : State, ends s' ∧ s'.getTok u t = ⟨.error, 1⟩ ∧ ((s'.ctx u).getSch k).st = .stopped) ∧
          (∀ s3 o, e / 2 ^ 72 % 2 ^ 56 = 0 → da.toNat % 64 = 0 → reportPending s2 u t = false →
            admitDesc s2 (schReq s2 u k) (BitVec.ofNat 3 t) d (fun _ => true) = (s3, .ok o) → dEmpty d = false →
            ∃ s' : State, ends s' ∧ (s'.getTok u t).st = .busy ∧
              ((s'.ctx u).getSch k).cursor = ((s3.ctx u).getSch k).cursor + 1 ∧
              ((s'.ctx u).getSch k).st = (if ((s3.ctx u).getSch k).cursor + 1 = ((s3.ctx u).getSch k).count then .done else .run) ∧
              ∃ n, s'.op u t = some { o with st := .queued n, seq := n })))))

/-- R107-R109: a collective whose ranks have all issued reads every source and writes every rank's result in this package, after which the rank's
token is DONE; ranks that disagree end in ERROR with cause 0x03. What a rank of another package gives, and whether it agrees, this package does not
see: free values, log entry 109; while a member cannot be reached the collective waits (log entry 130). An element of an all-reduce is the left fold of
the reduction over the ranks' elements in rank order, a reduce-scatter gives rank j the elements of segment j of it, an all-gather the sources in
rank order, a broadcast the root's source, and an all-to-all gives rank j the segments j of the sources in rank order. INT32 elements are added mod
2^32. -/
def Sys2Proof.Claims.Collectives : Prop :=
  (∀ (s s0 s1 s2 : State) (u : Agent) (t : Nat) (o o2 : EngOp) (os : List (Option EngOp)) (srcs : List (List Byte)) (x y : Option EngOp),
    s.op u t = some o → o.agent = u → o.tok.toNat = t → o.kind = .coll → o.st ≠ .written → opRuns s o = true →
    let set := collSet s o
    let differs : Prop := ∃ s' : State, exec (.collectiveComplete u t) s = .next s' ∧ s'.getTok u t = ⟨.error, 3⟩
    (set.any (collDiffer o) = true → differs) ∧
    (∀ e, set.any (collDiffer o) = false → collRanks s set o = some os → collCut s o = some e →
      ∃ s' : State, exec (.collectiveComplete u t) s = .next s' ∧ s'.ctxs = s.ctxs ∧ s'.ops = s.ops ∧ s'.mem = s.mem) ∧
    (set.any (collDiffer o) = false → collRanks s set o = some os → collCut s o = none →
      (none ∉ os → farDiffers s os = (false, s)) ∧
      (farDiffers s os = (true, s0) → differs) ∧
      (farDiffers s os = (false, s0) → collRead o.desc s0 0 os = (s1, .ok srcs, x) →
        collWrite srcs s1 os = (s2, .ok (), y) → s2.op u t = some o2 → o2.agent = u → o2.tok.toNat = t → dNtf o2.desc = false →
        ∃ s' : State, exec (.collectiveComplete u t) s = .next s' ∧ (s'.getTok u t).st = .done ∧ s'.op u t = none ∧ s'.mem = s2.mem))) ∧
  (∀ (d e : BitVec 512) (p : Nat) (srcs : List (List Byte)), 0 < p → srcs ≠ [] → (∀ b ∈ srcs, b.length = dLen d) →
    dLen d % (p * elemBytes (dEfmt d)) = 0 →
    let n := elemBytes (dEfmt d)
    let elem (b : List Byte) (i : Nat) : Nat := numOf ((b.drop (i * n)).take n)
    let folded (i : Nat) : Nat := (srcs.tail.map (fun b => elem b i)).foldl (collOp (dEfmt d) (dRop d)) (elem (srcs.head?.getD []) i)
    (dCop d = 0 → ∀ j, collResult d p j srcs = (List.range (dLen d / n)).flatMap (fun i => bytesOf n (folded i))) ∧
    (dCop d = 1 → ∀ j, j < p → collResult d p j srcs =
      (List.range (dLen d / p / n)).flatMap (fun i => bytesOf n (folded (j * (dLen d / p / n) + i)))) ∧
    (dCop d = 4 → ∀ j, collResult d p j srcs = srcs.flatMap (fun b => (b.drop (dLen d / p * j)).take (dLen d / p))) ∧
    (∀ a b, a < 2 ^ 32 → b < 2 ^ 32 → collOp 0 0 a b = (a + b) % 2 ^ 32 ∧
      collOp 0 1 a b = (if (BitVec.ofNat 32 a).toInt < (BitVec.ofNat 32 b).toInt then a else b) ∧
      collOp 0 2 a b = (if (BitVec.ofNat 32 a).toInt < (BitVec.ofNat 32 b).toInt then b else a)) ∧
    (dCop d = 0 → dCop e = 1 → dEfmt e = dEfmt d → dRop e = dRop d →
      collResult d p 0 srcs = (List.range p).flatMap (fun j => collResult e p j srcs)) ∧
    (dCop d = 2 → ∀ j, collResult d p j srcs = srcs.flatten) ∧
    (dCop d = 3 → ∀ j b, srcs[dRoot d]? = some b → collResult d p j srcs = b))

end Engines

section Ports

open Sys2Proof Sys2Proof.Machine Sys2Proof.Claims

/-- R240, R378-R380: the commands of a configuration port. STAGE of the right count and CRC32C for a region that the tile's task has replaces the
staging; COMMIT installs the staged words in the slot of the region, each for the element and context that its index gives, and drops the staging,
after a BLOAD into that slot that still waits for the mapper; DISCARD drops it; another command or a set reserved bit
is rejected with ILLEGAL detail 0x03; a wrong count with ILLEGAL detail 0x17, a wrong checksum with MAP detail 0x04. The end of the command
writes its status and SEQ. That every other reserved bit of the mailbox is checked too, and that COMMIT takes its slot and quads from the staging,
are the model's choices (log entry 52), and so is that an installed word works in stage 0 (log entry 61). -/
def Sys2Proof.Claims.ConfigurationPorts : Prop :=
  ∀ (s : State) (d t : Nat) (w : Word) (r : RegionId) (x : Region), d < 4 → t < 144 →
    let c := (s.tile d t).cfg
    let op := w.toNat % 2 ^ 8
    let m : BitVec 4 := BitVec.ofNat 4 (w.toNat / 2 ^ 12 % 2 ^ 4)
    let slot := w.toNat / 2 ^ 8 % 2 ^ 2
    let ii := w.toNat / 2 ^ 16 % 2 ^ 5 + 1
    let n := boxField s d t 16 4
    let bytes := devRead s d (boxSrc s d t) (16 * n)
    let ended (i : Instr) (r : Nat × Nat × Nat) (stg : Option Staging) : Prop := ∃ s' : State, exec i s = .next s' ∧
      (s'.tile d t).cfg.result = some r ∧ (s'.tile d t).cfg.staging = stg ∧ (s'.tile d t).cfg.cmd = some w ∧ s'.ctxs = s.ctxs
    (c.cmd = some w → c.result = none →
      (boxBad s d t w = true → ended (.cfgInvalid d t) (0x80, 1, 3) c.staging) ∧
      (boxBad s d t w = false →
        (op = 3 → ended (.cfgDiscard d t) (4, 0, 0) none) ∧
        (op = 1 → tileFailed s d t = false → portTarget s d t m = some r →
          (n ≠ (maskQuads m).length * 64 * ii → ended (.cfgStage d t) (0x80, 1, 0x17) c.staging) ∧
          (n = (maskQuads m).length * 64 * ii → (crc32c bytes).toNat ≠ boxField s d t 20 4 → ended (.cfgStage d t) (0x80, 0x0D, 4) c.staging) ∧
          (n = (maskQuads m).length * 64 * ii → (crc32c bytes).toNat = boxField s d t 20 4 →
            ended (.cfgStage d t) (2, 0, 0) (some ⟨slot, m, ii, (elemsOf 16 bytes).map (BitVec.ofNat 128)⟩))) ∧
        (op = 1 → portTarget s d t m = none → ended (.cfgStage d t) (0x80, 0x0D, 3) c.staging) ∧
        (op = 2 → c.staging = none → ended (.cfgCommit d t) (0x80, 0x0D, 3) none) ∧
        (∀ y, op = 2 → c.staging = some y → portTarget s d t y.quads = some r → s.region r = some x →
          let loading : Prop := ∃ m, x.mapping = some m ∧ m.slot = y.slot
          (loading → exec (.cfgCommit d t) s = .next s) ∧
          (¬ loading → slotHeld x y.slot = true → ended (.cfgCommit d t) (0x80, 1, 0x38) c.staging) ∧
          (¬ loading → slotHeld x y.slot = false → ended (.cfgCommit d t) (3, 0, 0) none ∧
            ∀ s', exec (.cfgCommit d t) s = .next s' → ∃ z b, s'.region r = some z ∧ tfind z.slots y.slot = some b ∧ b.block.img = true ∧
              b.image.ii = y.ii ∧ b.image.words.Pairwise (fun p q => wordKey p ≤ wordKey q) ∧
              (∀ p, p ∈ b.image.words ↔ ∃ n v, y.words[n]? = some v ∧ v ≠ 0 ∧
                let k := n / y.ii / 64
                let e := n / y.ii % 64
                p = ⟨k / x.qcols * 8 + e / 8, k % x.qcols * 8 + e % 8, n % y.ii, 0, some n, v⟩) ∧
              ∀ k, k ≠ y.slot → tfind z.slots k = tfind x.slots k)))) ∧
    (∀ res cls det, c.cmd = some w → c.result = some (res, cls, det) → res < 256 → cls < 256 → det < 2 ^ 16 →
      ∃ s' : State, exec (.configPortCommandDone d t) s = .next s' ∧ s'.ctxs = s.ctxs ∧
        mnat s'.mem (boxLoc d t 32) 8 = res + cls * 2 ^ 8 + det * 2 ^ 16 + w.toNat / 2 ^ 32 * 2 ^ 32)

/-- R354, R381: a ring of its doorbell wakes the service loop of the security hub core, which clears the bit and serves a pending verify request: a
CMD other than 1 or a KEYSEL above 3 is answered with 0x80, ILLEGAL detail 0x03; a message whose signature verifies under a modulus whose SHA-256 is
the selected key's hash with 2; any other with 0x80, MAP detail 0x05; each with the request's SEQ. Then it serves a presented mailbox request. That
the reads are accesses of hub core 3 is the model's choice (log entry 50). -/
def Sys2Proof.Claims.VerifyService : Prop :=
  ∀ (s s1 s2 : State) (msg tail : List Byte),
    let u := Agent.hub 0 3
    let s0 := s.modDie 0 (fun y => { y with hdoor := y.hdoor &&& 7 })
    let r := verifyDword s 0
    let ks := r / 2 ^ 8 % 2 ^ 8
    let hd := devRead s 0 s.doe.base 8
    let answers (base : State) (res cls det : Nat) : Prop := ∃ s' : State, exec .verify s = .next s' ∧ s'.ctxs = base.ctxs ∧
      (s'.die 0).hdoor.getLsbD 3 = false ∧
      mnat s'.mem (dbLoc 0 239 32) 8 = res + cls * 2 ^ 8 + det * 2 ^ 16 + verifyDword base 0 / 2 ^ 32 * 2 ^ 32
    (s.ctx u).run = .running → (s.ctx u).frozen = false → (∀ p ∈ s.pend, p.agent ≠ u) →
    ((s.die 0).hdoor.getLsbD 3 = false → exec .verify s = .next s) ∧
    ((s.die 0).hdoor.getLsbD 3 = true →
      (verifyPending s = false → s.doe.present = false → exec .verify s = .next s0) ∧
      (verifyPending s = false → s.doe.present = true → numOf (hd.take 1) ≠ 0x10 ∨ numOf ((hd.drop 1).take 1) < 0x83 ∨ 0x87 < numOf ((hd.drop 1).take 1) →
        ∃ s' bs, exec .verify s = .next s' ∧ s'.doe.present = false ∧ s'.doe.out = s.doe.out ++ [bs] ∧ bs.length = 24) ∧
      (verifyPending s = true → s.doe.present = false →
        (r % 2 ^ 8 ≠ 1 ∨ 3 < ks → answers s 0x80 1 3) ∧
        (r % 2 ^ 8 = 1 → ks ≤ 3 → readGen s0 (s0.req u) (nat64 (verifyDword s 1)) (verifyDword s 2) = (s1, .ok msg) →
          readGen s1 (s1.req u) (nat64 (verifyDword s 3)) 768 = (s2, .ok tail) →
          (sha256 (tail.drop 384) = Config.keyHash ks → Config.rsaVerify (tail.take 384) msg (tail.drop 384) = true → answers s2 2 0 0) ∧
          (¬ (sha256 (tail.drop 384) = Config.keyHash ks ∧ Config.rsaVerify (tail.take 384) msg (tail.drop 384) = true) →
            answers s2 0x80 0x0D 5))))

/-- R45, R323, R349, R350, R355, R356, R359-R363: what the host does. Writes into a posting window are kept; one that covers bytes 248 to 255
commits the record, which is queued, discarded before bring-up, or counted in DROP when the queue is full, the interface locked or the function frozen; the PF's writes
of MGBASE and MSTAT take effect, and free frames reach their pool (log entry 34); a read of a queue page's QSTAT answers it (a form of this row by log entry 51); a write outside a
locked interface's queue pages, a configuration write or a failed stream puts the interface in ERROR; an AtomicOp is Unsupported; SPDM requests and
snapshots are answered and an obeyed RESET zeroes the counters; an access that does not complete in 10,000,000 ticks raises HOST detail 0x03. In
recovery only the DOE mailbox answers. Three points are the model's choice: that a full queue counts the saved tasks at its head (log entry 45), the
layout of the signature of a RESET (log entry 49), and the codes of what the SPDM responder reports (log entry 119). -/
def Obligations.HostActions : Prop :=
  ∀ (s : State) (f k off d q : Nat) (bs : List Byte) (nonce value : Word) (i : Nat) (p : Pending) (lpd : Bool) (fs : List Nat),
    let up : Prop := s.power = .bringup ∨ s.power = .ready
    (pageQueue s f k = some (d, q) → up → (1 ≤ f → vfDead (s.vf f) = false) →
      let x := windowWrite (s.queue d q) off bs
      let locked : Prop := 1 ≤ f ∧ ((s.vf f).st = .locked ∨ (s.vf f).frozen = true)
      (¬ (off ≤ 248 ∧ 256 ≤ off + bs.length) → exec (.hostPostingWrite f k off bs) s = .next (s.setQueue d q x)) ∧
      (off ≤ 248 → 256 ≤ off + bs.length →
        ((s.die d).rdy = false → exec (.launchCommit f k off bs) s = .next (s.setQueue d q x)) ∧
        ((s.die d).rdy = true → locked ∨ 64 ≤ x.recs.length + x.saved.length → ∃ y, exec (.launchCommit f k off bs) s = .next (s.setQueue d q y) ∧
          y.recs = x.recs ∧ y.drop.toNat = min 0xFFFFFFFF (x.drop.toNat + 1)) ∧
        ((s.die d).rdy = true → ¬ locked → x.recs.length + x.saved.length < 64 →
          exec (.launchCommit f k off bs) s = .next (s.setQueue d q { x with recs := x.recs ++ [windowRecord x] })))) ∧
    (¬ up → exec (.hostPostingWrite f k off bs) s = .next s ∧ exec (.launchCommit f k off bs) s = .next s ∧
      exec (.hostBarWriteOutside f off) s = .next s ∧ ∀ r, exec (.hostConfigWrite r value) s = .next s) ∧
    (1 ≤ f → f ≤ 256 → (s.vf f).st = .locked ∨ (s.vf f).st = .run → (s.vf f).stopping = false →
      (up → off < vfBar0Size → pageQueue s f (off / 4096) = none → ∃ t : State, exec (.hostBarWriteOutside f off) s = .next t ∧ (t.vf f).st = .error) ∧
      (up → ∃ t : State, exec (.hostConfigWrite (.header f off) value) s = .next t ∧ (t.vf f).st = .error) ∧
      (up → ∃ t : State, exec (.hostConfigWrite (.sriov off) value) s = .next t ∧ (t.vf f).st = .error) ∧
      ((k, f) ∈ s.ide → ∃ t : State, exec (.ideStreamFailure k) s = .next t ∧ (t.vf f).st = .error)) ∧
    (up → exec (.hostConfigWrite (.management 0 0) value) s = .next { s with mgbase := value &&& ~~~0xFFF#64 } ∧
      ∀ d, d < 4 →
        (∃ t : State, exec (.hostConfigWrite (.management d 16) value) s = .next t ∧ (t.die d).err = ((s.die d).err && !value.getLsbD 1) ∧
          (∀ j, j < 4 → (t.die d).dblf.getLsbD j = ((s.die d).dblf.getLsbD j && !value.getLsbD (12 + j))) ∧ t.mem = s.mem ∧ t.ctxs = s.ctxs ∧
          t.tasks = s.tasks) ∧
        ∃ t : State, exec (.hostConfigWrite (.freeFrames d lpd fs) value) s = .next t ∧ t.mem = s.mem ∧
          let key := d * 2 + (if lpd then 1 else 0)
          ∀ x, x ∈ tget t.pools key [] ↔ x ∈ tget s.pools key [] ∨ (x ∈ fs ∧ locPkg (x * 65536) = s.pkg.toNat ∧ locDie (x * 65536) = d ∧
            locLpd (x * 65536) = lpd ∧ (x * 65536).testBit 52 = false ∧ inCapacity (x * 65536) 65536 = true)) ∧
    (up → f ≤ 256 →
      (off < bar0Size f → exec (.hostConfigWrite (.bar0 f off (.atomic bs)) value) s = .next { s with hostOut := s.hostOut ++ [[]] }) ∧
      (1 ≤ f → vfDead (s.vf f) = false → pageQueue s f k = some (d, q) → 4096 * k + 256 < vfBar0Size →
        exec (.hostConfigWrite (.bar0 f (4096 * k + 256) (.read 8)) value) s = .next { s with hostOut := s.hostOut ++ [bytesOf 8 (qstat (s.queue d q))] })) ∧
    (s.power = .ready → f ≤ 256 → off < vfBar2Size →
      exec (.hostBar2Access f (nat64 off) (.atomic bs)) s = .next { s with hostOut := s.hostOut ++ [[]] } ∧
      (1 ≤ f → vfDead (s.vf f) = true →
        exec (.hostBar2Access f (nat64 off) (.read k)) s = .next { s with hostOut := s.hostOut ++ [List.replicate k 0xFF] } ∧
        exec (.hostBar2Access f (nat64 off) (.write bs)) s = .next s) ∧
      (∀ o s1, (1 ≤ f → vfDead (s.vf f) = false ∧ (s.vf f).frozen = false ∧ (s.vf f).st ≠ .locked) → funcOwner s f = some o →
        (∀ x, readGen s (ownerReq 0 o) (nat64 off) k = (s1, .ok x) →
          exec (.hostBar2Access f (nat64 off) (.read k)) s = .next { s1 with hostOut := s1.hostOut ++ [x] }) ∧
        (writeGen s (ownerReq 0 o) (nat64 off) bs = (s1, .ok ()) → exec (.hostBar2Access f (nat64 off) (.write bs)) s = .next s1))) ∧
    (s.power ≠ .off →
      (∃ t : State, exec (.spdmRequest bs) s = .next t ∧ t.doe.out = s.doe.out ++ [Config.spdmResponse s.free (spdmFacts s) bs] ∧ t.mem = s.mem ∧ t.ctxs = s.ctxs) ∧
      (∃ y, exec (.spdmSnapshot f nonce) s = .next { s with doe := { s.doe with out := s.doe.out ++ [y] } } ∧
        y = snapshotBytes s f nonce ++ Config.identitySign (snapshotBytes s f nonce)) ∧
      (resetObeyed s f nonce bs = true → exec (.spdmReset f nonce bs) s = .next (s.setToll f { s.toll f with tt := 0, hbm := 0, lpd := 0, uj := 0 })) ∧
      (resetObeyed s f nonce bs = false → exec (.spdmReset f nonce bs) s = .next s)) ∧
    (∀ b, s.pend[i]? = some p → p.kind = .store b → p.host = true → p.orphan = false → p.stale = false → p.answered = false → p.failed = none → 10000000 ≤ p.ticks →
      (s.ctx p.agent).stall = .access → mayProceed s p.agent = true →
      exec (.hostCompletionTimeout i) s =
        .next (takeFault ({ s with pend := s.pend.eraseIdx i }.modCtx p.agent (fun c => { c with stall := .none })) p.agent
          { cls := 0x17, detail := 3, addr := partAddr p (fun l _ => isHost l) }))

end Ports

namespace Sys2Proof.Claims

open Sys2Proof.Machine

/-- Index k of the n-th element of a walk, dimension 0 innermost (R113). -/
def walkIdx (ds : List (BitVec 32 × BitVec 32)) (n k : Nat) : Nat :=
  n / ((ds.take k).map (fun d => d.1.toNat)).foldl (· * ·) 1 % ((ds[k]?).map (fun d => d.1.toNat)).getD 1

/-- The byte offset of the n-th element of a walk: the sum of index times stride (R113). -/
def walkOff (ds : List (BitVec 32 × BitVec 32)) (n : Nat) : Int :=
  ((List.range ds.length).map (fun k => (walkIdx ds n k : Int) * ((ds[k]?).map (fun d => d.2.toInt)).getD 0)).sum

/-- The number of elements of a walk. -/
def walkLen (ds : List (BitVec 32 × BitVec 32)) : Nat := (ds.map (fun d => d.1.toNat)).foldl (· * ·) 1

/-- A stream after its next element is taken: N rises, END[k] says that every index up to k stood at its last value, EXH that it was the
last element (R113, R115). -/
def tookNext (x y : Stream) : Prop :=
  y = { x with n := x.n + 1, ends := y.ends, exh := decide (x.n + 1 = walkLen x.dims) } ∧
  ∀ k, k < 5 → (y.ends.getLsbD k = true ↔ k < x.dims.length ∧
    ∀ j, j ≤ k → walkIdx x.dims x.n j + 1 = ((x.dims[j]?).map (fun d => d.1.toNat)).getD 0)

end Sys2Proof.Claims

section Streams

open Sys2Proof Sys2Proof.Machine Sys2Proof.Claims

/-- R114, R117-R119: QSET binds q[D] to a 64-byte descriptor that is read as loads, at position 0 with every flag clear: a READ at once; a
FEED or DRAIN with its region, token and FIFO role, starting its operation. QIND binds a snapshot of a READ stream's base, stride, count and
size as the table of an index stream. An active stream raises TOKEN detail 0x08, a bad descriptor ILLEGAL detail 0x30, a bad table or index
stream 0x32, a taken role 0x33. -/
def Sys2Proof.Claims.StreamBinding : Prop :=
  ∀ (s s1 : State) (u : Agent) (g : Guard) (q qa qb : QReg) (a : SReg) (off : BitVec 29) (bs : List Byte) (z : Bool) (f : FReg) (t : TokIx),
    Issues s u g →
    let s0 := noteIssue s u
    let da := int64 ((s.getS u a).toNat + off.toInt)
    let d := BitVec.ofNat 512 (numOf bs)
    let B := descBits d
    let y : Stream := {
      mode := if B 390 389 = 0 then .read else if B 390 389 = 1 then .feed else .drain
      esize := BitVec.ofNat 2 (B 385 384), base := nat64 (B 63 0), fifo := BitVec.ofNat 3 (B 393 391), tok := BitVec.ofNat 3 (B 396 394)
      dims := (List.range (B 388 386)).map (fun k =>
        (BitVec.ofNat 32 (B (95 + 64 * k) (64 + 64 * k)), BitVec.ofNat 32 (B (127 + 64 * k) (96 + 64 * k)))) }
    let w : Stream := { mode := .read, esize := ((s.ctx u).getQ qa.toNat).esize, base := ((s.ctx u).getQ qa.toNat).base,
                        dims := ((s.ctx u).getQ qa.toNat).dims.take 1, ind := some ⟨z, qb⟩ }
    let begun (i : Instr) (b : State) (y : Stream) : Prop := ∃ s' : State, exec i s = .next (s'.retire u) ∧ (s'.ctx u).getQ q.toNat = y ∧
      (s'.getTok u y.tok.toNat).st = .busy ∧ s'.mem = b.mem ∧
      (∃ o, s'.op u y.tok.toNat = some o ∧ o.kind = (if y.mode = .feed then .feed q else .drain q) ∧ o.st = .started) ∧
      (if y.mode = .feed then (agentFifo s' u y.fifo.toNat).producer else (agentFifo s' u y.fifo.toNat).consumer) = some (.stream u q.toNat)
    let role (b : State) (y : Stream) : Option Claim :=
      if y.mode = .feed then (agentFifo b u y.fifo.toNat).producer else (agentFifo b u y.fifo.toNat).consumer
    let ready (b : State) (y : Stream) : Prop := ownRegion b u ≠ none ∧
      ((b.getTok u y.tok.toNat).st = .idle ∨ (b.getTok u y.tok.toNat).st = .done)
    let free (b : State) (y : Stream) : Prop := ready b y ∧ reportPending b u y.tok.toNat = false ∧ role b y = none
    let wf : Stream := { w with mode := .feed, fifo := f, tok := t }
    let okTable : Prop := ((s.ctx u).getQ qa.toNat).mode = .read ∧ ((s.ctx u).getQ qa.toNat).ind = none ∧
      ((s.ctx u).getQ qb.toNat).mode = .read ∧ q ≠ qb
    (streamActive s u q.toNat = true →
      (∀ i, i = Instr.qset g q a off ∨ i = .qind g z q qa qb ∨ i = .qindFeed g z q qa qb f t →
        exec i s = .next (takeFault s0 u { cls := 0x0B, detail := 8, addr := 0 }))) ∧
    (streamActive s u q.toNat = false → da.toNat % 64 ≠ 0 →
      exec (.qset g q a off) s = .next (takeFault s0 u { cls := 3, detail := 1, addr := da })) ∧
    (streamActive s u q.toNat = false → da.toNat % 64 = 0 → Fetches s u da 8 s1 bs →
      (B 511 397 ≠ 0 ∨ B 388 386 = 0 ∨ 6 ≤ B 388 386 ∨ B 390 389 = 3 ∨ (∃ k, k < B 388 386 ∧ B (95 + 64 * k) (64 + 64 * k) = 0) →
        exec (.qset g q a off) s = .next (takeFault s1 u { cls := 1, detail := 0x30, addr := 0 })) ∧
      (streamDescBad d = false →
        (B 390 389 = 0 → exec (.qset g q a off) s = .next ((s1.modCtx u (fun c => c.putQ q.toNat y)).retire u)) ∧
        (B 390 389 ≠ 0 → free s1 y → begun (.qset g q a off) s1 y) ∧
        (B 390 389 ≠ 0 → ready s1 y → role s1 y ≠ none →
          exec (.qset g q a off) s = .next (takeFault s1 u { cls := 1, detail := 0x33, addr := 0 })) ∧
        (B 390 389 ≠ 0 → ownRegion s1 u = none →
          exec (.qset g q a off) s = .next (takeFault s1 u { cls := 0x0B, detail := 5, addr := 0 })))) ∧
    (streamActive s u q.toNat = false → ¬ okTable →
      exec (.qind g z q qa qb) s = .next (takeFault s0 u { cls := 1, detail := 0x32, addr := 0 }) ∧
      exec (.qindFeed g z q qa qb f t) s = .next (takeFault s0 u { cls := 1, detail := 0x32, addr := 0 })) ∧
    (streamActive s u q.toNat = false → okTable →
      exec (.qind g z q qa qb) s = .next ((s0.modCtx u (fun c => c.putQ q.toNat w)).retire u) ∧
      (free s wf → begun (.qindFeed g z q qa qb f t) s0 wf) ∧
      (ready s wf → role s wf ≠ none →
        exec (.qindFeed g z q qa qb f t) s = .next (takeFault s0 u { cls := 1, detail := 0x33, addr := 0 })))

/-- R113, R115, R118, R119: QRD of a READ stream reads the element at base plus the sum of index times stride, extends it into s[D] and takes
it; an exhausted stream gives 0; a stream in no READ mode is ILLEGAL detail 0x31. Through an index stream the element is the
table's, and an index beyond the table gives 0 or APERTURE detail 0x07, whose ADDR is 0 (the model's choice, log entry 116). -/
def Sys2Proof.Claims.StreamReads : Prop :=
  ∀ (s s1 s2 : State) (u : Agent) (g : Guard) (sx : Bool) (d : SReg) (q : QReg) (bs vs : List Byte) (i : Indirect), Issues s u g →
    let s0 := noteIssue s u
    let x := (s.ctx u).getQ q.toNat
    let n := 2 ^ x.esize.toNat
    let ext (bs : List Byte) : Word := if sx then int64 (signedOf (numOf bs) (8 * n)) else nat64 (numOf bs)
    let qrd := Instr.qrd g sx d q
    (x.mode ≠ .read → exec qrd s = .next (takeFault s0 u { cls := 1, detail := 0x31, addr := 0 })) ∧
    (x.mode = .read → x.ind = none → x.exh = true → exec qrd s = .next (wrote s u d 0)) ∧
    (x.mode = .read → x.ind = none → x.exh = false → bs.length = n →
      ReadsAt s u (x.base + int64 (walkOff x.dims x.n)) n s1 bs → ∃ y, tookNext x y ∧
        exec qrd s = .next (((s1.modCtx u (fun c => c.putQ q.toNat y)).putS u d (ext bs)).retire u)) ∧
    (let z := (s.ctx u).getQ i.qb.toNat
     x.mode = .read → x.ind = some i → z.mode = .read → z.ind = none →
      (z.exh = true → exec qrd s = .next (wrote s u d 0)) ∧ (z.exh = false → vs.length = 2 ^ z.esize.toNat →
      ReadsAt s u (z.base + int64 (walkOff z.dims z.n)) (2 ^ z.esize.toNat) s1 vs →
      ∀ c st rest, x.dims = (c, st) :: rest → ∃ y, tookNext z y ∧
        (let sq := s1.modCtx u (fun k => k.putQ i.qb.toNat y)
         (c.toNat ≤ numOf vs → i.zero = true → exec qrd s = .next ((sq.putS u d 0).retire u)) ∧
         (c.toNat ≤ numOf vs → i.zero = false →
            exec qrd s = .next (takeFault (sq.setCtx u (s.ctx u)) u { cls := 6, detail := 7, addr := 0 })) ∧
         (numOf vs < c.toNat → bs.length = n → readGen sq (s0.req u) (x.base + int64 (numOf vs * st.toInt)) n = (s2, .ok bs) →
            exec qrd s = .next ((s2.putS u d (ext bs)).retire u)))))

/-- R118, R119: QPOS.GET, QPOS.SET, QFLAG and QCLR. A stream bound through an index stream has the position and the flags of that one, down to
the stream that walks memory itself. A position set to n is Min(n, T), exhausted when that is T, with no END flag; BOUND is tested
of any stream, the other flags of a bound one; QCLR unbinds, ending a stream whose operation holds its token with that token DONE, and QCLR.FLUSH
empties the FIFO. Two points are the model's reading: QCLR ends a token only when the stream's own operation holds it (log entry 26), and QCLR.FLUSH
takes the retained and uncommitted entries too (log entry 28). -/
def Sys2Proof.Claims.StreamControl : Prop :=
  ∀ (s : State) (u : Agent) (g : Guard) (q : QReg) (d b : SReg) (p : PReg) (k : BitVec 3) (fl : Bool), Issues s u g →
    let s0 := noteIssue s u
    let x := (s.ctx u).getQ q.toNat
    let r := baseStream (s.ctx u) chainFuel q.toNat
    let y := (s.ctx u).getQ r
    let n := (s.getS u b).toNat
    let runs : Prop := streamActive s u q.toNat = true ∧ ∃ o, s.op u x.tok.toNat = some o ∧ (o.kind = .feed q ∨ o.kind = .drain q)
    (x.ind = none → r = q.toNat) ∧
    (∀ i, x.ind = some i → ((s.ctx u).getQ i.qb.toNat).ind = none → r = i.qb.toNat) ∧
    (x.mode = .unbound → k.toNat ≤ 5 →
      (∀ i, i = Instr.qposGet g d q ∨ i = .qposSet g q b ∨ i = .qflag g p q k →
        exec i s = .next (takeFault s0 u { cls := 1, detail := 0x31, addr := 0 }))) ∧
    (x.mode ≠ .unbound →
      exec (.qposGet g d q) s = .next (wrote s u d (nat64 y.n)) ∧
      (streamActive s u q.toNat = true → exec (.qposSet g q b) s = .next (takeFault s0 u { cls := 0x0B, detail := 8, addr := 0 })) ∧
      (streamActive s u q.toNat = false → exec (.qposSet g q b) s = .next ((s0.modCtx u (fun c => c.putQ r
        { y with n := min n (walkLen y.dims), ends := 0, exh := decide (walkLen y.dims ≤ n) })).retire u)) ∧
      (k.toNat < 5 → exec (.qflag g p q k) s = .next (wrotePred s u p (y.ends.getLsbD k.toNat))) ∧
      (k = 5 → exec (.qflag g p q k) s = .next (wrotePred s u p y.exh))) ∧
    (k = 6 → exec (.qflag g p q k) s = .next (wrotePred s u p (decide (x.mode ≠ .unbound)))) ∧
    (∃ t : State, exec (.qclr g fl q) s = .next (t.retire u) ∧ ((t.ctx u).getQ q.toNat).mode = .unbound ∧ t.mem = s.mem ∧
      (∀ r : QReg, r ≠ q → (t.ctx u).getQ r.toNat = (s.ctx u).getQ r.toNat) ∧
      (runs → (t.getTok u x.tok.toNat).st = .done ∧ t.op u x.tok.toNat = none) ∧
      (¬ runs → t.ops = s.ops) ∧
      (fl = true → x.mode = .feed ∨ x.mode = .drain → (agentFifo t u x.fifo.toNat).entries = []) ∧
      (fl = false → ∀ f, (agentFifo t u f).entries = (agentFifo s u f).entries))

/-- R117, R173: a FEED takes the elements of one entry and pushes them packed from bit 0, with side-band 0x7F, while its FIFO has room, and one
that is exhausted ends; a DRAIN writes the elements of the first readable entry that it has not written, and the entry then leaves the FIFO; the
operation ends DONE with the last element. A DRAIN that waits on an empty FIFO for HOLDTO ticks ends in ERROR. Through an enabled TILE window
the step of a stream of 8-byte elements completes whatever the rest of the package holds. -/
def Sys2Proof.Claims.StreamTransfers : Prop :=
  ∀ (s s1 : State) (u : Agent) (q : Nat) (o : EngOp) (vs : List Nat) (v : Val) (rest : List Val) (n : Nat) (k : Task),
    let c := s.ctx u
    let x := c.getQ q
    let b := baseStream c chainFuel q
    let f := x.fifo.toNat
    let per := if x.esize = 0 then 10 else if x.esize = 1 then 5 else if x.esize = 2 then 2 else 1
    let size := 2 ^ x.esize.toNat
    let wrote := x.n % max 1 (((x.dims[0]?).map (fun d => d.1.toNat)).getD 1) % per
    let a : Word := x.base + int64 (walkOff x.dims x.n)
    let done (s' : State) : Prop := (s'.getTok u x.tok.toNat).st = .done ∧ s'.op u x.tok.toNat = none
    let pushes (s1 : State) (e : Val) : Prop := ∃ s' : State, exec (.feedPush u q) s = .next s' ∧
      (agentFifo s' u f).entries = (agentFifo s1 u f).entries ++ [e] ∧
      (((s1.ctx u).getQ b).exh = true → done s') ∧ (((s1.ctx u).getQ b).exh = false → s'.getTok u x.tok.toNat = s1.getTok u x.tok.toNat)
    q < 16 → streamOp s u q = some o → ownRegion s u ≠ none → x.dims ≠ [] →
    (x.mode = .feed → (c.getQ b).exh = true → ∃ s' : State, exec (.feedPush u q) s = .next s' ∧ done s' ∧ s'.mem = s.mem) ∧
    (x.mode = .feed → (c.getQ b).exh = false → 0 < (agentFifo s u f).room → packEntry (s.opReq o) q b per s = (s1, .ok vs) →
      pushes s1 { w := BitVec.ofNat 80 (vs.zipIdx.map (fun e => e.1 * 256 ^ (size * e.2))).sum, sb := 0x7F }) ∧
    (x.mode = .feed → x.ind = none → x.exh = false → x.esize = 3 → 0 < (agentFifo s u f).room → AtIssue s u o → InTile s u a 8 → Sound s u a 8 →
      ∃ y, tookNext x y ∧ pushes (s.modCtx u (fun c => c.putQ q y)) { w := BitVec.ofNat 80 (numOf (tileBytes s u a 8)), sb := 0x7F }) ∧
    (x.mode = .drain → (agentFifo s u f).readable = v :: rest →
      unpackEntry (s.opReq o) q (per - wrote) (v.w.toNat / 256 ^ (size * wrote)) s = (s1, .ok ()) →
      ∃ s' : State, exec (.drainWrite u q) s = .next s' ∧ s'.mem = s1.mem ∧
        (agentFifo s' u f).entries = (agentFifo s1 u f).entries.eraseIdx (agentFifo s1 u f).retained ∧
        (((s1.ctx u).getQ q).exh = true → done s')) ∧
    (x.mode = .drain → x.esize = 3 → (agentFifo s u f).readable = v :: rest → AtIssue s u o → InTile s u a 8 →
      ∃ s' : State, exec (.drainWrite u q) s = .next s' ∧ s'.mem = mwrite s.mem (tileLoc u a) (bytesOf 8 (v.w.toNat % 2 ^ 64)) ∧
        (agentFifo s' u f).entries = (agentFifo s u f).entries.eraseIdx (agentFifo s u f).retained) ∧
    (x.mode = .drain → (agentFifo s u f).readable = [] → s.taskOf u = some n → s.task n = some k →
      (if recBits k.lrec 991 960 = 0 then 1000000 else recBits k.lrec 991 960) ≤ x.ticks →
      ∃ s' : State, exec (.drainWatchdogExpiry u q) s = .next s' ∧ s'.getTok u x.tok.toNat = ⟨.error, 1⟩ ∧ s'.mem = s.mem)

/-- R100, R240, R275: a transformed copy borrows its strand's region when no run of it is BUSY: its block, found in the map cache or by the mapper, becomes
the region's run, or the copy waits for the mapper. The engine feeds source words and writes the block's words in order. The mapper's
answer to a BLOAD, a mapping or a failure that the spec allows, the same for the same record and shape, fills the slot and ends the stall; no
placement is MAP detail 0x01, no answer in 4,000,000 ticks MAP detail 0x06. When the copy's block has ended and all that it made is written, the region is
given back and the copy's token is DONE, or, where the words that the block consumed and made are not in the ratio RIN to ROUT, in ERROR with
cause 0x02 and TOKEN detail 0x07. A copy never reads what it wrote itself: what it reads is the old byte wherever it has written,
and no write of its own changes that (R275). Three points are the model's choice: which answer the mapper gives within the rules (log entry 62), that
R275 holds for the words of a transformed copy (log entry 125), and which of several waiting copies goes first (log entry 134). -/
def Obligations.TransformedCopies : Prop :=
  (∀ (s s1 s2 s3 : State) (r : RegionId) (x : Region) (o : EngOp) (n : Nat) (k : Task) (e : List Byte) (h : Nat) (b : Block),
    let q := s.opReq o
    s.region r = some x → xformWaiting s r = some o → regionBusy x = false → x.mapping = none → s.taskOf o.agent = some n → s.task n = some k →
    readGen s q (nat64 (recBits k.lrec 191 128 + 8 * descBits o.desc 399 384)) 8 = (s1, .ok e) → (nat64 (numOf e)).toNat % 64 = 0 →
    readRecord s1 q (nat64 (numOf e)) = (s2, .ok (.ok (h, b))) → b.img = false →
    (∀ y, lookUp s2 r q 4 (nat64 (numOf e)) h b x = (s3, .ok (.ok (y, none))) → y.region r ≠ none → ∃ s' z, exec (.regionLendBegin r) s = .next s' ∧
      s'.region r = some z ∧ z.lent = some o.tok.toNat) ∧
    (∀ y img st, lookUp s2 r q 4 (nat64 (numOf e)) h b x = (s3, .ok (.ok (y, some img))) → y.region r = some x →
      (xformRun y o x ⟨b, img, nat64 (numOf e)⟩).cur = some st → runIssueFault y r (y.opReq o) x (xformRun y o x ⟨b, img, nat64 (numOf e)⟩) = none →
      xformTaken st x = false → ∃ s' z, exec (.regionLendBegin r) s = .next s' ∧ s'.region r = some z ∧ z.lent = some o.tok.toNat ∧ z.run.isSome = true)) ∧
  (∀ (s s1 : State) (u : Agent) (t f : Nat) (r : RegionId) (x : Region) (o : EngOp) (bs : List Byte) (v : Val) (rest : List Val),
    xformOp s u t = some (r, x, o) →
    (claimedFifo x (xformClaim o) true = some f → o.st = .started → x.run.isSome = true → 0 < (x.fifo f).room →
      o.num < xformWords o.desc (dLen o.desc) →
      readGenOwn s (s.opReq o) o.own (xformAddr o.desc (dSrc o.desc) (dLen o.desc) (dStride o.desc 192) (dStride o.desc 256) o.num) 8 = (s1, .ok bs) →
      ∃ s' : State, exec (.feedPush u (16 + t)) s = .next s' ∧ s'.op u t = some { o with num := o.num + 1 } ∧
        s'.region r = some (x.setFifo f ((x.fifo f).push { w := BitVec.ofNat 80 (numOf bs), sb := 0x7F }))) ∧
    (claimedFifo x (xformClaim o) false = some f → (x.fifo f).readable = v :: rest → o.made < xformWords o.desc (xformLen o.desc) →
      let a := xformAddr o.desc (dDst o.desc) (xformLen o.desc) (dStride o.desc 224) (dStride o.desc 288) o.made
      writeGen s { s.opReq o with tok := some (16 + t) } a (bytesOf 8 v.w.toNat) = (s1, .ok ()) →
      ∃ s' : State, exec (.drainWrite u (16 + t)) s = .next s' ∧ s'.mem = s1.mem ∧
        s'.op u t = some { o with made := o.made + 1, own := noteOwn s (s.opReq o) o.own a 8 })) ∧
  (∀ (s : State) (u : Agent) (t : Nat) (r : RegionId) (x : Region) (o : EngOp), xformOp s u t = some (r, x, o) → o.agent = u → o.tok.toNat = t →
    o.st = .written → xformDrained x o = true → (∀ k, k < 4 → namedLayout (s.ctx (.strand u.die u.tile k)) = none) →
    let consumed := o.num - xformLeft x o
    let back (s' : State) : Prop := ∃ z, s'.region r = some z ∧ z.lent = none ∧ z.quads = x.quads ∧
      ∀ f, f < 8 → (z.fifo f).producer ≠ some (xformClaim o) ∧ (z.fifo f).consumer ≠ some (xformClaim o)
    (consumed * dRout o.desc = o.made * dRin o.desc → dNtf o.desc = false → ∃ s' : State, exec (.copyComplete u t) s = .next s' ∧ back s' ∧
      (s'.getTok u t).st = .done ∧ s'.op u t = none ∧ s'.mem = s.mem) ∧
    (consumed * dRout o.desc ≠ o.made * dRin o.desc → ∃ s' o' f, exec (.copyComplete u t) s = .next s' ∧ back s' ∧ s'.mem = s.mem ∧
      s'.getTok u t = ⟨.error, 2⟩ ∧ s'.op u t = some o' ∧ o'.fault = some f ∧ f.cls = 0x0B ∧ f.detail = 7)) ∧
  (∀ (s s1 : State) (u : Agent) (o : EngOp) (own : Tab Byte) (a : Word) (bs : List Byte), AtIssue s u o →
    let byte (s : State) (own : Tab Byte) (b : Nat) : Byte := (tfind own b).getD (mget s.mem b)
    (∀ n, InTile s u a n → Sound s u a n → ∃ s', readGenOwn s (s.opReq o) own a n =
      (s', .ok ((List.range n).map (fun i => byte s own (tileLoc u a + i)))) ∧ s'.mem = s.mem) ∧
    (writeGen s (s.opReq o) a bs = (s1, .ok ()) → ∀ b, byte s1 (noteOwn s (s.opReq o) own a bs.length) b = byte s own b)) ∧
  (∀ (s : State) (d n k : Nat) (x : Region) (m : Mapping) (img : MapImage),
    let u := Agent.strand d n k
    let r : RegionId := ⟨d, n, k⟩
    s.region r = some x → x.mapping = some m → m.slot < 4 → (s.ctx u).stall = .mapper → mayProceed s u = true →
    let answers (res : Option MapImage) : Prop := m.ticks < 4000000 ∧
      ((∃ e, answerOf s m.block x = some e ∧ e.result = res) ∨ (answerOf s m.block x = none ∧ mayAnswer m.block x.nrows x.ncols res = true))
    (∀ res, ¬ answers res → exec (.mapperResult u res) s = .next s) ∧
    (answers (some img) → ∃ s' z i, exec (.mapperResult u (some img)) s = .next s' ∧
      s'.region r = some z ∧ z.mapping = none ∧ tfind z.slots m.slot = some i ∧ i.image.words = sortWords img.words ∧
      (s'.ctx u).stall = .none ∧ s'.mem = s.mem) ∧
    (answers none → ∃ s' f, exec (.mapperResult u none) s = .next s' ∧ (s'.ctx u).fault = some f ∧ f.cls = 0x0D ∧ f.detail = 1) ∧
    (4000000 ≤ m.ticks → ∃ s' f, exec (.mapperTimeout u) s = .next s' ∧ (s'.ctx u).fault = some f ∧ f.cls = 0x0D ∧ f.detail = 6))

end Streams

section Irregular

open Sys2Proof Sys2Proof.Machine Sys2Proof.Claims

/-- R120, R122-R126: MERGE, ROUTE, HACC and HFLUSH read a 64-byte descriptor at a multiple of 64, check the token and then the
descriptor, and queue their operation on the tile's engine with the token BUSY. A field out of range is ILLEGAL detail 0x34, a table that
does not lie in the issuing tile's buffer at a multiple of its size APERTURE detail 0x08. An idle engine takes its oldest operation. Two points are
the model's choice: ADDR of APERTURE 0x08 is the table's address (log entry 116), and LOG2S runs from 4 to 15 (log entry 140). -/
def Sys2Proof.Claims.IrregularIssue : Prop :=
  (∀ (s s1 : State) (u : Agent) (g : Guard) (comb : BitVec 3) (cb : BitVec 2) (kz vf tof keep : Bool) (sc : ScopeCode) (t : TokIx) (a : SReg)
      (off : BitVec 29) (bs : List Byte), Issues s u g →
    let s0 := noteIssue s u
    let da := int64 ((s.getS u a).toNat + off.toInt)
    let d := BitVec.ofNat 512 (numOf bs)
    let B := descBits d
    let merge := Instr.merge g comb kz vf tof sc t a off
    let route := Instr.route g sc t a off
    let hacc := Instr.hacc g cb vf sc t a off
    let hflush := Instr.hflush g keep sc t a off
    let tok := (s1.getTok u t.toNat).st
    let traps (s' : State) (i : Instr) (cls det : Nat) (x : Word) : Prop := exec i s = .next (takeFault s' u { cls := cls, detail := det, addr := x })
    let issued (i : Instr) (k : OpKind) : Prop := ∃ (s' : State) (o : EngOp) (n : Nat), exec i s = .next (s'.retire u) ∧ (s'.getTok u t.toNat).st = .busy ∧
      s'.op u t.toNat = some o ∧ o.kind = k ∧ o.desc = d ∧ o.scope = sc ∧ o.st = .queued n ∧ s'.mem = s1.mem ∧ ∀ r, s'.getS u r = s1.getS u r
    let here : Prop := ownBuffer s1 (s1.req u) (nat64 (B 63 0)) (8 * 2 ^ B 323 320) (8 * 2 ^ B 323 320) ≠ none
    (da.toNat % 64 ≠ 0 → ∀ i ∈ [merge, route, hacc, hflush], traps s0 i 3 1 da) ∧
    (da.toNat % 64 = 0 → Fetches s u da 8 s1 bs →
      (tok = .busy → ∀ i ∈ [merge, route, hacc, hflush], traps s1 i 0x0B 1 0) ∧
      (tok = .error → ∀ i ∈ [merge, route, hacc, hflush], traps s1 i 0x0B 2 0) ∧
      (tok = .idle ∨ tok = .done → reportPending s1 u t.toNat = false →
        (B 511 448 % 8 ≠ 0 ∨ (tof = true ∧ (B 319 256 ≠ 0 ∨ B 383 323 ≠ 0)) → traps s1 merge 1 0x34 0) ∧
        (B 511 448 % 8 = 0 → tof = false → issued merge (.merge comb kz vf false)) ∧
        (B 511 448 % 8 = 0 → tof = true → B 319 256 = 0 → B 383 323 = 0 →
          (ownRegion s1 u = none → traps s1 merge 0x0B 5 0) ∧
          (ownRegion s1 u ≠ none → (agentFifo s1 u (B 322 320)).producer ≠ none → traps s1 merge 1 0x33 0) ∧
          (ownRegion s1 u ≠ none → (agentFifo s1 u (B 322 320)).producer = none → issued merge (.merge comb kz vf true))) ∧
        (B 511 448 ≠ 0 ∨ B 447 432 = 0 ∨ B 431 416 = 0 ∨ 65536 < B 415 384 ∨ B 319 256 % 8 ≠ 0 ∨ B 191 128 % 8 ≠ 0 → traps s1 route 1 0x34 0) ∧
        (B 511 448 = 0 → B 447 432 ≠ 0 → B 431 416 ≠ 0 → B 415 384 ≤ 65536 → B 319 256 % 8 = 0 → B 191 128 % 8 = 0 → issued route .route) ∧
        (B 511 324 ≠ 0 ∨ B 323 320 < 4 → traps s1 hacc 1 0x34 0 ∧ traps s1 hflush 1 0x34 0) ∧
        (4096 < B 287 256 ∨ B 255 192 ≠ 0 → traps s1 hacc 1 0x34 0) ∧ (B 319 256 ≠ 0 → traps s1 hflush 1 0x34 0) ∧
        (B 511 324 = 0 → 4 ≤ B 323 320 → B 287 256 ≤ 4096 → B 255 192 = 0 →
          (here → issued hacc (.hacc cb vf)) ∧ (¬ here → traps s1 hacc 6 8 (nat64 (B 63 0)))) ∧
        (B 511 324 = 0 → 4 ≤ B 323 320 → B 319 256 = 0 →
          (here → issued hflush (.hflush keep)) ∧ (¬ here → traps s1 hflush 6 8 (nat64 (B 63 0))))))) ∧
  (∀ (s : State) (d t e : Nat) (o : EngOp), engineOp s d t e = none → oldestQueued s (fun x => onEngine d t e x && opRuns s x) = some o →
    exec (.irregularOpStart d t e) s = .next (s.setOp o.agent o.tok.toNat { o with st := .started }))

/-- R122: the merge of two lists whose indices rise strictly holds every index of either once, in rising order: with its own value where one
list has it, even a zero, and the combined value where both have it, unless that is zero and KZ is 0. A list whose indices do
not rise ends the merge in error, and add, first and second combine as the rule gives them. -/
def Sys2Proof.Claims.MergeOfSortedLists : Prop :=
  ∀ (comb : Nat) (kz vf : Bool) (A B : List (Nat × Nat)),
    let rising (l : List (Nat × Nat)) : Prop := l.Pairwise (fun x y => x.1 < y.1)
    let r := mergeLists comb kz vf (A.length + B.length + 1) none none A B
    (rising A → rising B → r.2 = false ∧ rising r.1 ∧ ∀ k v, (k, v) ∈ r.1 ↔
      ((k, v) ∈ A ∧ ∀ w, (k, w) ∉ B) ∨ ((k, v) ∈ B ∧ ∀ w, (k, w) ∉ A) ∨
      (∃ a b, (k, a) ∈ A ∧ (k, b) ∈ B ∧ v = combine comb vf a b ∧ (kz = true ∨ isZeroVal vf v = false))) ∧
    (¬ (rising A ∧ rising B) → r.2 = true) ∧
    (∀ a b, combine 0 false a b = (a + b) % 2 ^ 32 ∧ combine 3 vf a b = a ∧ combine 4 vf a b = b)

/-- R123: of the tokens in order, the first CAP that name an expert are put in its queue in turn, with flag 0; the others go down the detour
lane in order, with flag 1; accepted and offered tokens are counted. -/
def Sys2Proof.Claims.RouteDispatch : Prop :=
  ∀ (cap : Nat) (es : List Nat),
    let r := ((List.range es.length).zip es).foldl (routeToken cap) {}
    let before (i e : Nat) : Nat := ((es.take i).filter (fun x => x == e)).length
    r.flg.length = es.length ∧
    (∀ i e : Nat, es[i]? = some e → r.flg[i]? = some (if before i e < cap then 0 else 1) ∧ (before i e < cap → (e * cap + before i e, i) ∈ r.q)) ∧
    r.lane = (List.range es.length).filter (fun i => decide (cap ≤ before i (es.getD i 0))) ∧
    (∀ e, tget r.off e 0 = before es.length e ∧ tget r.acc e 0 = min cap (before es.length e))

/-- R124-R126: updates are taken by ascending key. Applying none leaves the table; key 0 and an absent key in a table at its limit stop it with the
number of updates applied; else the probed slot takes the pair, or the combined value where it holds the key, and the other slots
stay. -/
def Sys2Proof.Claims.HashUpdates : Prop :=
  (∀ l : List (Nat × Nat), (sortKeys l).Perm l ∧ (sortKeys l).Pairwise (fun x y => x.1 ≤ y.1)) ∧
  (∀ (comb l k v u i : Nat) (vf : Bool) (tbl us : List (Nat × Nat)), tbl.length = 2 ^ l → 4 ≤ l → l < 32 →
    let occ := (tbl.filter (fun x => x.1 != 0)).length
    let limit := 2 ^ l - 2 ^ l / 8
    let h := k * 0x2545F491 % 2 ^ 32 / 2 ^ (32 - l)
    let at_ (j : Nat) : Nat × Nat := tbl.getD ((h + j) % 2 ^ l) (0, 0)
    haccApply comb vf l tbl u [] = (tbl, .done) ∧
    haccApply comb vf l tbl u ((0, v) :: us) = (tbl, .rkey u) ∧
    (k ≠ 0 → i < 2 ^ l → (∀ j, j < i → (at_ j).1 ≠ k ∧ (at_ j).1 ≠ 0) →
      ((at_ i).1 = k → haccApply comb vf l tbl u ((k, v) :: us) =
        haccApply comb vf l (tbl.set ((h + i) % 2 ^ l) (k, if comb = 3 then v else combine comb vf (at_ i).2 v)) (u + 1) us) ∧
      ((at_ i).1 = 0 → occ = limit → haccApply comb vf l tbl u ((k, v) :: us) = (tbl, .full u)) ∧
      ((at_ i).1 = 0 → occ ≠ limit → haccApply comb vf l tbl u ((k, v) :: us) =
        haccApply comb vf l (tbl.set ((h + i) % 2 ^ l) (k, v)) (u + 1) us)))

/-- R116, R120-R127: what the operations of a tile's engines do when they finish: MERGE, whose entries are read in the order of its procedure, writes
its outputs and their count, or pushes to its FIFO those that it has not pushed and that fit; ROUTE its queues, lane, flags and counts, or raises
ROUTE for an expert that is not there and writes nothing; HACC the slots it
changed, and HASHST where it stopped, also by the fault of an access; HFLUSH the pairs by key and their count, and empties the table unless KEEP. Then the token is DONE, or ERROR
with the cause of the rule. That a MERGE into a FIFO that a halt has cut short goes on with the outputs that it has not pushed is the model's
choice (log entry 31). -/
def Sys2Proof.Claims.IrregularResults : Prop :=
  ∀ (s s1 s2 s3 : State) (d n : Nat) (o : EngOp) (f : FaultInfo) (ins : List (List Byte)) (comb : BitVec 3) (cb : BitVec 2) (kz vf keep : Bool) (ks vs tb : List Byte),
    let q := s.opReq o
    let B := descBits o.desc
    let w (lo : Nat) : Word := nat64 (B (lo + 63) lo)
    let done (i : Instr) (b : State) : Prop := ∃ s' : State, exec i s = .next s' ∧ (s'.getTok o.agent o.tok.toNat).st = .done ∧
      s'.op o.agent o.tok.toNat = none ∧ s'.mem = b.mem
    let error (i : Instr) (b : State) (cause : Byte) : Prop := ∃ s' : State, exec i s = .next s' ∧ s'.getTok o.agent o.tok.toNat = ⟨.error, cause⟩ ∧
      s'.mem = b.mem
    opRuns s o = true →
    (readAll q s (mergeReads o.desc) = (s1, .ok ins) → mergeInputs s q o.desc comb.toNat kz vf = (s1, .ok (mergeOut comb.toNat kz vf ins))) ∧
    (readAll q s (mergeReads o.desc) = (s1, .fault f) → mergeInputs s q o.desc comb.toNat kz vf =
      mergeGo q o.desc comb.toNat kz vf (B 415 384 + B 447 416 + 1) s 0 0 none none) ∧
    (∀ r, engineOp s d n 0 = some o → o.kind = .merge comb kz vf true → mergeInputs s q o.desc comb.toNat kz vf = (s1, .ok r) →
      ownRegion s o.agent ≠ none →
      let y := agentFifo s1 o.agent o.fifo.toNat
      let left := r.1.drop o.made
      let pushed (s' : State) (m : Nat) : Prop := (agentFifo s' o.agent o.fifo.toNat).entries =
        y.entries ++ (left.take m).map (fun p => { w := BitVec.ofNat 80 (p.1 + p.2 * 2 ^ 32), sb := 0x7F })
      (y.room < left.length → ∃ s' : State, exec (.mergeComplete d n) s = .next s' ∧ pushed s' y.room ∧ s'.mem = s1.mem ∧
        s'.op o.agent o.tok.toNat = some { o with made := o.made + y.room } ∧ s'.getTok o.agent o.tok.toNat = s1.getTok o.agent o.tok.toNat) ∧
      (left.length ≤ y.room → o.made ≤ r.1.length → AtIssue s o.agent o → InTile s o.agent (w 448) 8 →
        ∃ s' : State, exec (.mergeComplete d n) s = .next s' ∧ pushed s' left.length ∧
          s'.mem = mwrite s1.mem (tileLoc o.agent (w 448)) (bytesOf 8 r.1.length) ∧
          s'.getTok o.agent o.tok.toNat = (if r.2 then ⟨.error, 0x10⟩ else ⟨.done, 0⟩))) ∧
    (∀ r, engineOp s d n 0 = some o → o.kind = .merge comb kz vf false → mergeInputs s q o.desc comb.toNat kz vf = (s1, .ok r) →
      writeAll (s1.opReq o) s1 [(w 256, r.1.flatMap (fun p => bytesOf 4 p.1)), (w 320, r.1.flatMap (fun p => bytesOf 4 p.2))] = (s2, .ok ()) →
      writeGen s2 (s2.opReq o) (w 448) (bytesOf 8 r.1.length) = (s3, .ok ()) →
      (r.2 = false → done (.mergeComplete d n) s3) ∧ (r.2 = true → error (.mergeComplete d n) s3 0x10)) ∧
    (engineOp s d n 1 = some o → readAll q s [(w 0, 2 * B 415 384)] = (s1, .ok ins) →
      let es := elemsOf 2 ins.flatten
      (∀ e, e ∈ es → B 431 416 ≤ e → o.agent.isHub = false → s.op o.agent o.tok.toNat = some o → error (.routeComplete d n) s1 1) ∧
      ((∀ e ∈ es, e < B 431 416) →
        writeAll q s1 (routeWrites o.desc (((List.range es.length).zip es).foldl (routeToken (B 447 432)) {})) = (s2, .ok ()) →
        done (.routeComplete d n) s2)) ∧
    (engineOp s d n 2 = some o → o.kind = .hacc cb vf → fstatus f.cls f.detail = .fatal → o.agent.isHub = false →
      s.op o.agent o.tok.toNat = some o → readAll q s [(w 64, 4 * B 287 256), (w 128, 4 * B 287 256), (w 0, 8 * 2 ^ B 323 320)] = (s1, .fault f) →
      error (.haccComplete d n) s1 1 ∧ ∀ s', exec (.haccComplete d n) s = .next s' →
        (s'.ctx o.agent).hashst = nat64 (o.tok.toNat * 2 ^ 32 + o.start)) ∧
    (∀ r, engineOp s d n 2 = some o → o.kind = .hacc cb vf →
      readAll q s [(w 64, 4 * B 287 256), (w 128, 4 * B 287 256), (w 0, 8 * 2 ^ B 323 320)] = (s1, .ok [ks, vs, tb]) →
      haccApply cb.toNat vf (B 323 320) (tableSlots tb) o.start ((sortKeys ((elemsOf 4 ks).zip (elemsOf 4 vs))).drop o.start) = r →
      writeAll q s1 (writeSlots (w 0) 0 (tableSlots tb) r.1) = (s2, .ok ()) →
      (r.2 = .done → done (.haccComplete d n) s2) ∧
      (∀ u, r.2 = .rkey u → u < 4096 → error (.haccComplete d n) s2 0x14 ∧ ∀ s', exec (.haccComplete d n) s = .next s' →
        (s'.ctx o.agent).hashst.toNat = 2 ^ 62 + o.tok.toNat * 2 ^ 32 + u) ∧
      (∀ u, r.2 = .full u → u < 4096 → error (.haccComplete d n) s2 0x12 ∧ ∀ s', exec (.haccComplete d n) s = .next s' →
        (s'.ctx o.agent).hashst.toNat = 2 ^ 63 + o.tok.toNat * 2 ^ 32 + u)) ∧
    (engineOp s d n 2 = some o → o.kind = .hflush keep → readGen s q (w 0) (8 * 2 ^ B 323 320) = (s1, .ok tb) →
      let l := sortKeys ((tableSlots tb).filter (fun x => x.1 != 0))
      writeAll q s1 ([(w 64, l.flatMap (fun x => bytesOf 4 x.1)), (w 128, l.flatMap (fun x => bytesOf 4 x.2)), (w 192, bytesOf 8 l.length)] ++
        (if keep then [] else [(w 0, List.replicate (8 * 2 ^ B 323 320) 0)])) = (s2, .ok ()) → done (.hflushComplete d n) s2)

end Irregular

namespace Sys2Proof.Claims

open Sys2Proof.Machine

/-! Terms of the statements on the element operations -/

/-- The rational number that a finite exact value stands for. -/
def ratOf : XNum → Option Rat
  | .fin s m e => some ((if s then -1 else 1) * (m : Rat) * (2 : Rat) ^ e)
  | .inf _ | .nan _ => none

/-- The number that a code of a format stands for; 0 for a special. -/
def magOf (f : NFmt) (c : Nat) : Rat := (ratOf (valueOf f c)).getD 0

/-- The formats of R52, R54 and R56. -/
def formats : List NFmt :=
  [.int 2, .int 4, .int 6, .int 8, .int 16, .int 32, .nat 8, .nat 16, .k4x, e2m1, e2m3, e3m2, e4m3, e5m2, bf16, fp16, fp32]

/-- A magnitude code with a sign: a sign bit, two's complement, or 0 for a negative natural. -/
def signedCode (f : NFmt) (s : Bool) (c : Nat) : Nat :=
  match f with
  | .float .. => if s then 2 ^ (fmtWidth f - 1) + c else c
  | .nat _ => if s then 0 else c
  | .int _ | .k4x => if s then (2 ^ fmtWidth f - c) % 2 ^ fmtWidth f else c

/-- What a magnitude beyond MaxOf rounds to (R36). -/
def beyondMax (f : NFmt) (rnd : BitVec 2) (s : Bool) (z : Half) : Rounded :=
  if f ∈ [e5m2, bf16, fp16, fp32] ∧ rnd ≠ 2 then ⟨signedCode f s (maxCode f + 1), 1, z⟩ else ⟨signedCode f s (maxCode f), 1, z⟩

/-- Whether R36 takes the code above y for the magnitude q, which lies from y up to the next code. -/
def takesUpper (f : NFmt) (rnd : BitVec 2) (z : Half) (q : Rat) (y : Nat) : Bool :=
  let lo := q - magOf f y
  let hi := magOf f (y + 1) - q
  decide (lo ≠ 0) && (match rnd with
    | 0 => decide (hi ≤ lo)
    | 1 => decide (hi < lo) || (decide (hi = lo) && decide (y % 2 = 1))
    | 2 => false
    | _ => decide (((rsrStep z).toNat / 65536 : Int) < (lo / (lo + hi) * 65536).floor))

/-- A result for DST with its side-band, after `n` advancing cycles; a carousel slot is the physical one of the iteration (R166, R188, R189). -/
def resultAt (x : ElemIn) (n dst : Nat) (v : Val) : InFlight :=
  ⟨n, .write dst (if dst < 32 then (dst + x.j) % 32 else dst) (rLife x.w) v⟩

/-- The whole effect of an operation with these results: no flag, no draw, no fault. -/
def onlyResults (x : ElemIn) (o : List InFlight) : Issue :=
  { out := o, flg := 0, rsr := x.e.rsr, ovfl := false, trap := none, peek := false, sclc := none }

/-- Bits [hi:lo] of a lane word. -/
def vbits (v : Val) (hi lo : Nat) : Nat := v.w.toNat / 2 ^ lo % 2 ^ (hi + 1 - lo)

/-- Lane i of width w of a source, and the integer that it is read as. -/
def laneAt (v : Val) (w i : Nat) : Nat := v.w.toNat / 2 ^ (w * i) % 2 ^ w
def laneNum (v : Val) (w i : Nat) (nat : Bool) : Int := if nat then (laneAt v w i : Int) else signedOf (laneAt v w i) w

/-- The least and the greatest of a range of w bits. -/
def rangeLo (w : Nat) (nat : Bool) : Int := if nat then 0 else -(2 ^ (w - 1) : Int)
def rangeHi (w : Nat) (nat : Bool) : Int := if nat then 2 ^ w - 1 else 2 ^ (w - 1) - 1

/-- IntOut (R190): the lane, whether ISAT is set, whether SCHED detail 0x03 is raised. -/
def IntOutIs (t : Int) (w : Nat) (nat : Bool) (sat : BitVec 2) (o : IntRes) : Prop :=
  let wrap (v : Int) : Nat := (v % 2 ^ w).toNat
  let near : Int := if t < rangeLo w nat then rangeLo w nat else rangeHi w nat
  (rangeLo w nat ≤ t → t ≤ rangeHi w nat → o = ⟨wrap t, false, false⟩) ∧
  (t < rangeLo w nat ∨ rangeHi w nat < t →
    (sat = 0 → o = ⟨wrap t, false, false⟩) ∧ (sat = 1 → o = ⟨wrap near, false, false⟩) ∧ (sat = 2 → o = ⟨wrap near, true, false⟩) ∧
    (sat = 3 → o.fault = true))

/-- What a lane-wise integer operation does: lanes `f 0` to `f (n - 1)` of width w; ISAT once; a lane that faults makes the whole cycle fault. -/
def IntLanes (x : ElemIn) (w n : Nat) (f : Nat → IntRes) : Prop :=
  ((∃ i, i < n ∧ (f i).fault = true) → (elemExec x).ovfl = true) ∧
  ((∀ i, i < n → (f i).fault = false) → ∃ r : Lanes,
    elemExec x = { onlyResults x [resultAt x (rowLatency x.w) (rDst x.w) ⟨r, 0x7F⟩] with
      flg := if (List.range n).any (fun i => (f i).isat) then 8 else 0 } ∧
    r.toNat < 2 ^ (w * n) ∧ ∀ i, i < n → r.toNat / 2 ^ (w * i) % 2 ^ w = (f i).v % 2 ^ w)

/-- A value times 2^k. -/
def timesTwo (v : XNum) (k : Int) : XNum :=
  match v with
  | .fin s m e => .fin s m (e + k)
  | y => y

/-- A value with its sign inverted. -/
def negated : XNum → XNum
  | .fin s m e => .fin (!s) m e
  | .inf s => .inf !s
  | .nan s => .nan !s

/-- The exact product of two values as R182 and R212 take it. -/
def ProductIs (a b p : XNum) : Prop :=
  (xisNan a = true ∨ xisNan b = true ∨ (ratOf a = none ∧ ratOf b = some 0) ∨ (ratOf b = none ∧ ratOf a = some 0) → xisNan p = true) ∧
  (xisNan a = false → xisNan b = false → ratOf a = none ∨ ratOf b = none → ratOf a ≠ some 0 → ratOf b ≠ some 0 → p = .inf (xneg a != xneg b)) ∧
  (∀ q r, ratOf a = some q → ratOf b = some r → ratOf p = some (q * r) ∧ xneg p = (xneg a != xneg b))

/-- The sum of finite values; an infinity or a NaN counts as nothing. -/
def sumOf (us : List XNum) : Rat := (us.map (fun u => (ratOf u).getD 0)).foldr (· + ·) 0

/-- One rounding to FP32 of the exact sum of signed addends, with the rules of R212 for NaN, infinities and the sign of zero. -/
def RoundedSum (us : List XNum) (rnd : BitVec 2) (ftzo : Bool) (z : Half) (o : Rounded) : Prop :=
  let odd := (∃ u ∈ us, xisNan u = true) ∨ (XNum.inf false ∈ us ∧ XNum.inf true ∈ us)
  (odd → o = ⟨0x7FC00000, 0, z⟩) ∧
  (∀ s, ¬odd → XNum.inf s ∈ us → o = ⟨if s then 0xFF800000 else 0x7F800000, 0, z⟩) ∧
  ((∀ u ∈ us, ratOf u ≠ none) →
    (sumOf us = 0 → o = ⟨if us.all xneg then 0x80000000 else 0, 0, z⟩) ∧
    (sumOf us ≠ 0 → ∀ t, ratOf t = some (sumOf us) → o = roundNarrow t fp32 rnd ftzo z))

/-- The parts of an FP32 code, FlushIn on it, and its places in the order of numbers: in `place` +0 and -0 differ, in `worth` they do not. -/
def exp32 (c : Nat) : Nat := c / 2 ^ 23 % 256
def isNan32 (c : Nat) : Bool := decide (exp32 c = 255) && decide (c % 2 ^ 23 ≠ 0)
def flush32 (on : Bool) (c : Nat) : Nat := if on = true ∧ exp32 c = 0 then c / 2 ^ 31 * 2 ^ 31 else c
def place (c : Nat) : Int := if 2 ^ 31 ≤ c then -((c - 2 ^ 31 : Nat) : Int) - 1 else c
def worth (c : Nat) : Int := if 2 ^ 31 ≤ c then -((c - 2 ^ 31 : Nat) : Int) else c

/-- The FP32 value of a lane of a source, after FlushIn. -/
def laneVal (v : Val) (ftzi : Bool) (l : Nat) : XNum := flushIn fp32 ftzi (laneAt v 32 l)
/-- The FP32 code of a lane of a source, after FlushIn. -/
def laneCode (v : Val) (ftzi : Bool) (l : Nat) : Nat := flush32 ftzi (laneAt v 32 l)

/-- What an operation does whose two lanes are rounded in turn, each drawing after the one before. -/
def FloatLanes (x : ElemIn) (lane : Nat → Half → Rounded → Prop) : Prop :=
  ∀ o0 o1, lane 0 x.e.rsr o0 → lane 1 o0.rsr o1 →
    elemExec x = { onlyResults x [resultAt x (rowLatency x.w) (rDst x.w) ⟨BitVec.ofNat 80 (o0.code + o1.code * 2 ^ 32), 0x7F⟩] with
      flg := o0.flg ||| o1.flg, rsr := o1.rsr }

/-- A lane that neither rounds nor sets a flag. -/
def plainLane (f : Nat → Nat) (l : Nat) (z : Half) (o : Rounded) : Prop := o = ⟨f l, 0, z⟩

end Sys2Proof.Claims

section Elements

open Sys2Proof Sys2Proof.Machine Sys2Proof.Claims

/-- R36, R52, R53, R54, R55, R57, R60, R62: the formats and the values of their codes, FlushIn, the largest magnitudes and the NaN codes; the slots of a lane
word and the reading of K4X; and RoundNarrow: NaN, infinities, magnitudes beyond MaxOf, zeros, and between two codes the choice of each rounding,
with the flags and the RSR draw. -/
def Sys2Proof.Claims.NumberFormats : Prop :=
  ((List.range 16).map taggedFmt = [none, some (.int 2), some (.int 4), some (.int 6), some (.int 8), some (.int 16), some (.nat 8), some .k4x,
    some (.float 2 1 1 .none), some (.float 2 3 1 .none), some (.float 3 2 3 .none), some (.float 4 3 7 .nanOnly), some (.float 5 2 15 .ieee),
    some (.float 8 7 127 .ieee), some (.float 5 10 15 .ieee), none] ∧ laneFmt 0x10 = some (.float 8 23 127 .ieee) ∧ laneFmt 0x11 = some (.int 32) ∧
    laneFmt 0x12 = some (.nat 16)) ∧
  ((List.range 19).map laneSlots = [0, 40, 20, 13, 10, 5, 10, 20, 20, 13, 13, 10, 10, 5, 5, 0, 2, 2, 5]) ∧
  (∀ (eb mb bias c : Nat) (sp : Specials) (ftzi : Bool),
    let f := NFmt.float eb mb bias sp
    let s := decide (c / 2 ^ (eb + mb) % 2 = 1)
    let e := c / 2 ^ mb % 2 ^ eb
    let m := c % 2 ^ mb
    let sg : Rat := if s then -1 else 1
    (sp = .ieee → e = 2 ^ eb - 1 → valueOf f c = if m = 0 then .inf s else .nan s) ∧
    (sp = .nanOnly → e = 2 ^ eb - 1 → m = 2 ^ mb - 1 → valueOf f c = .nan s) ∧
    (¬(sp = .ieee ∧ e = 2 ^ eb - 1) → ¬(sp = .nanOnly ∧ e = 2 ^ eb - 1 ∧ m = 2 ^ mb - 1) → xneg (valueOf f c) = s ∧
      ratOf (valueOf f c) = some (if e = 0 then sg * (2 : Rat) ^ (1 - (bias : Int)) * ((m : Rat) / 2 ^ mb)
        else sg * (2 : Rat) ^ ((e : Int) - (bias : Int)) * (1 + (m : Rat) / 2 ^ mb))) ∧
    flushIn f ftzi c = if ftzi = true ∧ e = 0 ∧ m ≠ 0 then .fin s 0 0 else valueOf f c) ∧
  (∀ n c, 1 ≤ n → ratOf (valueOf (.int n) c) = some ((signedOf (c % 2 ^ n) n : Int) : Rat) ∧ ratOf (valueOf (.nat n) c) = some ((c % 2 ^ n : Nat) : Rat) ∧
    ratOf (valueOf .k4x c) = some ((signedOf (c % 16) 4 : Int) : Rat)) ∧
  (formats.map (fun f => ratOf (maxOf f)) = [some 1, some 7, some 31, some 127, some 32767, some 2147483647, some 255, some 65535, some 7, some 6,
    some (15 / 2), some 28, some 448, some 57344, some ((255 : Rat) * (2 : Rat) ^ 120), some 65504, some ((16777215 : Rat) * (2 : Rat) ^ 104)]) ∧
  ([e4m3, e5m2, bf16, fp16, fp32].map (fun f => (nanOf f false, nanOf f true)) =
    [(some 0x7F, some 0xFF), (some 0x7F, some 0xFF), (some 0x7FC0, some 0xFFC0), (some 0x7E00, some 0xFE00), (some 0x7FC00000, some 0xFFC00000)]) ∧
  (∀ c t, c ≠ 8 → k4xScan (c :: t) = .int c :: k4xScan t) ∧ (∀ x y t, k4xScan (8 :: x :: y :: t) = .esc (16 * x + y) :: .gone :: .gone :: k4xScan t) ∧
  (∀ t : List Nat, t.length ≤ 1 → k4xScan (8 :: t) = .bad :: k4xScan t) ∧
  (∀ (k : Nat) (f : NFmt) (ftzi : Bool) (v : Val), laneFmt k = some f → k ≠ 7 →
    wordVals k ftzi v.w = ((List.range (laneSlots k)).map (fun i => flushIn f ftzi (laneAt v (fmtWidth f) i)), false)) ∧
  (∀ (ftzi : Bool) (v : Val), wordVals 7 ftzi v.w =
    ((k4xScan ((List.range 20).map (laneAt v 4))).map (fun p => match p with
      | .int c => valueOf .k4x c
      | .esc c => flushIn e4m3 ftzi c
      | .gone | .bad => .fin false 0 0), (k4xScan ((List.range 20).map (laneAt v 4))).any (· == .bad))) ∧
  (∀ f ∈ formats, ∀ (rnd : BitVec 2) (ftzo s : Bool) (z : Half) (m : Nat) (e : Int),
    (roundNarrow (.nan s) f rnd ftzo z = match nanOf f s with
      | some c => ⟨c, 0, z⟩
      | none => ⟨if fmtIsFloat f then signedCode f s (maxCode f) else 0, 4, z⟩) ∧
    roundNarrow (.inf s) f rnd ftzo z = beyondMax f rnd s z ∧
    roundNarrow (.fin s 0 e) f rnd ftzo z = ⟨signedCode f s 0, 0, z⟩ ∧
    (0 < m → magOf f (maxCode f) < (m : Rat) * (2 : Rat) ^ e → roundNarrow (.fin s m e) f rnd ftzo z = beyondMax f rnd s z) ∧
    (∀ y, 0 < m → y ≤ maxCode f → magOf f y ≤ (m : Rat) * (2 : Rat) ^ e → (m : Rat) * (2 : Rat) ^ e ≤ magOf f (maxCode f) →
      (∀ k, y < k → k ≤ maxCode f → (m : Rat) * (2 : Rat) ^ e < magOf f k) →
      let q := (m : Rat) * (2 : Rat) ^ e
      let c := if takesUpper f rnd z q y then y + 1 else y
      let c := if ftzo && isSubnormal f c then 0 else c
      let z1 := if rnd = 3 ∧ magOf f y ≠ q then rsrStep z else z
      roundNarrow (.fin s m e) f rnd ftzo z =
        (if s = true ∧ c ≠ 0 ∧ (f = .nat 8 ∨ f = .nat 16) then ⟨0, 1, z1⟩ else ⟨signedCode f s c, if c = 0 ∨ isSubnormal f c = true then 2 else 0, z1⟩)))

/-- R158, R192, R193, R194, R195, R196, R197, R200, R202, R203, R204, R223, R188, R227, R229, R230: what the operations that move words do. EMPTY and HOLDIF do
nothing of their own; MOV, PASS, QIN, QOUT and ANCH move their sources with their side-bands; ACCR, ACCZ and ACCW read, clear and write
accumulators; SCLC gives its tracker's scale; CSWAP and CSWPD order two words by key and index; and TRAPIF traps on its condition. The latency of
every operation is that of R188 and R211. -/
def Sys2Proof.Claims.ElementMoves : Prop :=
  (∀ w : RowWord, rowLatency w = if rOp w ∈ [0x10, 0x11, 0x12, 0x43, 0x44] then 3
    else if rOp w ∈ [0x13, 0x14, 0x17, 0x22, 0x23, 0x40, 0x41, 0x42, 0x53, 0x59, 0x68] then 2 else if rOp w ∈ [0x4A, 0x4B, 0x4C, 0x4D] then 4 else 1) ∧
  ∀ x : ElemIn,
    let w := x.w
    let cond := xbits w 1 1 = 1
    let moved : Val := ⟨x.a.w, if xbits w 0 0 = 1 then BitVec.ofNat 8 (rConst w) else x.a.sb⟩
    let k := rAcc w % 4
    let pair := (rAcc w).testBit 2 = true
    let acc (i v : Nat) : InFlight := resultAt x 1 (38 + i) ⟨BitVec.ofNat 80 v, 0x7F⟩
    let key (v : Val) : Int :=
      let c := vbits v 31 0
      match xbits w 7 6 with
      | 0 => signedOf c 32
      | 1 => (c : Int)
      | _ => if c % 2 ^ 31 > 0x7F800000 then 2 ^ 32 else if 2 ^ 31 ≤ c then -((c - 2 ^ 31 : Nat) : Int) - 1 else c
    let bLower := key x.b < key x.a ∨ (key x.b = key x.a ∧ vbits x.b 63 32 < vbits x.a 63 32)
    let exp (i : Nat) : Nat := laneAt x.a 32 i / 2 ^ 23 % 256
    let isNan (i : Nat) : Prop := exp i = 255 ∧ laneAt x.a 32 i % 2 ^ 23 ≠ 0
    (rOp w = 0x00 ∨ rOp w = 0x6A → elemExec x = onlyResults x []) ∧
    (rOp w = 0x01 → elemExec x = onlyResults x [resultAt x 1 (rDst w) x.a]) ∧
    (rOp w = 0x02 → elemExec x = onlyResults x [resultAt x 1 (rDst w) x.a, resultAt x 1 (xbits w 5 0) x.b]) ∧
    (rOp w = 0x03 → elemExec x = { onlyResults x [resultAt x 1 (rDst w) moved] with peek := decide (cond ∧ vbits x.b 31 0 = 0) }) ∧
    (rOp w = 0x04 → elemExec x = onlyResults x (if cond ∧ vbits x.b 31 0 = 0 then [] else [resultAt x 1 (rDst w) moved])) ∧
    (rOp w = 0x05 → elemExec x = onlyResults x [⟨1, .anch (rAcc w / 4) (rAcc w % 4) x.a⟩]) ∧
    (rOp w = 0x15 → elemExec x = onlyResults x (resultAt x 1 (rDst w)
        ⟨BitVec.ofNat 80 ((x.e.getAcc k).toNat + if pair then (x.e.getAcc (k + 1)).toNat * 2 ^ 32 else 0), 0x7F⟩ ::
      (if (rAcc w).testBit 3 = true then acc k 0 :: (if pair then [acc (k + 1) 0] else []) else []))) ∧
    (rOp w = 0x16 → elemExec x = onlyResults x (((List.range 4).filter (fun i => (rAcc w).testBit i)).map (fun i => acc i 0))) ∧
    (rOp w = 0x18 → elemExec x = onlyResults x (acc k (vbits x.a 31 0) :: (if pair then [acc (k + 1) (vbits x.a 63 32)] else []))) ∧
    (rOp w = 0x56 → elemExec x = { onlyResults x [resultAt x 1 (rDst w) ⟨0, x.sclc (xbits w 3 0)⟩] with sclc := some (xbits w 3 0) }) ∧
    (rOp w = 0x60 ∨ rOp w = 0x61 → xbits w 7 6 ≠ 3 → elemExec x = onlyResults x
      (if rOp w = 0x60 ↔ bLower then [resultAt x 1 (rDst w) x.b, resultAt x 1 (xbits w 5 0) x.a]
        else [resultAt x 1 (rDst w) x.a, resultAt x 1 (xbits w 5 0) x.b])) ∧
    (rOp w = 0x6B → rAcc w ≤ 3 →
      let holds : Prop := match rAcc w with
        | 0 => vbits x.a 31 0 ≠ 0
        | 1 => vbits x.a 31 0 = 0
        | 2 => isNan 0 ∨ isNan 1
        | _ => exp 0 = 255 ∨ exp 1 = 255
      (holds → elemExec x = { onlyResults x [] with trap := some (xbits w 7 0) }) ∧ (¬holds → elemExec x = onlyResults x []))

/-- R190, R201, R206, R207, R208, R224, R228: the lane-wise integer operations at their SPLIT, each lane computed on exact integers and delivered by IntOut:
IADD to ISUBS, MULW and MACW with their halves, PACK and UNPK, and HSUM and HMAX in integer mode. -/
def Sys2Proof.Claims.ElementIntegers : Prop :=
  ∀ x : ElemIn,
    let rw := x.w
    let sp := rSplit rw
    let w := [32, 16, 8, 4][sp]!
    let n := [2, 5, 10, 20][sp]!
    let n2 := [1, 2, 5, 10][sp]!
    let sat := rSat rw
    let nat0 := decide (xbits rw 0 0 = 1)
    let nat2 := decide (xbits rw 2 2 = 1)
    let h := xbits rw 1 0
    let a (i : Nat) : Nat := laneAt x.a w i
    let b (i : Nat) : Nat := laneAt x.b w i
    let c (i : Nat) : Nat := laneAt x.c w i
    let ia (i : Nat) : Int := laneNum x.a w i nat0
    let ib (i : Nat) : Int := laneNum x.b w i nat0
    let ic (i : Nat) : Int := laneNum x.c w i nat0
    let sa (i : Nat) : Int := signedOf (a i) w
    let num (t : Int) : IntRes := ⟨(t % 2 ^ w).toNat, false, false⟩
    let out (t : Nat → Int) (nat : Bool) : Prop := ∀ f, (∀ i, i < n → IntOutIs (t i) w nat sat (f i)) → IntLanes x w n f
    let exact (t : Nat → Int) : Prop := IntLanes x w n (fun i => num (t i))
    let near (t : Int) : Int := max (rangeLo w nat0) (min (rangeHi w nat0) t)
    let sx (i : Nat) : Int := signedOf (b i) w
    let holds (i : Nat) : Bool := match rAcc rw with
      | 0 => decide (a i = b i)
      | 1 => decide (a i ≠ b i)
      | 2 => decide (sa i < sx i)
      | 3 => decide (sa i ≤ sx i)
      | 4 => decide (sx i < sa i)
      | 5 => decide (sx i ≤ sa i)
      | 6 => decide (a i < b i)
      | 7 => decide (a i ≤ b i)
      | 8 => decide (b i < a i)
      | _ => decide (b i ≤ a i)
    let pos := xbits rw 4 0
    let len := xbits rw 10 5
    (rOp rw = 0x20 → out (fun i => ia i + ib i) nat0) ∧ (rOp rw = 0x21 → out (fun i => ia i - ib i) nat0) ∧
    (rOp rw = 0x22 → out (fun i => ia i * ib i) nat0) ∧ (rOp rw = 0x23 → out (fun i => ia i * ib i + ic i) nat0) ∧
    (rOp rw = 0x24 → exact (fun i => if ia i ≤ ib i then ia i else ib i)) ∧ (rOp rw = 0x25 → exact (fun i => if ia i ≤ ib i then ib i else ia i)) ∧
    (rOp rw = 0x26 → out (fun i => ((sa i).natAbs : Int)) false) ∧ (rOp rw = 0x27 → out (fun i => -sa i) false) ∧
    (rOp rw = 0x28 → exact (fun i => ((a i &&& b i : Nat) : Int))) ∧ (rOp rw = 0x29 → exact (fun i => ((a i ||| b i : Nat) : Int))) ∧
    (rOp rw = 0x2A → exact (fun i => ((a i ^^^ b i : Nat) : Int))) ∧ (rOp rw = 0x2B → exact (fun i => 2 ^ w - 1 - (a i : Int))) ∧
    (rOp rw = 0x2C → exact (fun i => if b i < w then (a i : Int) * 2 ^ b i else 0)) ∧
    (rOp rw = 0x2D → exact (fun i => if b i < w then (a i : Int) / 2 ^ b i else 0)) ∧
    (rOp rw = 0x2E → exact (fun i => if b i < w then sa i / 2 ^ b i else if 0 ≤ sa i then 0 else -1)) ∧
    (rOp rw = 0x2F → rAcc rw ≤ 9 → exact (fun i => if holds i then 2 ^ w - 1 else 0)) ∧
    (rOp rw = 0x30 → exact (fun i => if c i ≠ 0 then (a i : Int) else b i)) ∧ (rOp rw = 0x31 → exact (fun i => min (max (ia i) (ib i)) (ic i))) ∧
    (rOp rw = 0x32 → exact (fun i => (((List.range w).filter (fun k => a i / 2 ^ k % 2 = 1)).length : Int))) ∧
    (rOp rw = 0x33 → ∀ z : Nat → Nat, (∀ i, i < n → z i ≤ w ∧ a i < 2 ^ (w - z i) ∧ (a i ≠ 0 → 2 ^ (w - z i - 1) ≤ a i) ∧ (a i = 0 → z i = w)) →
      exact (fun i => (z i : Int))) ∧
    (rOp rw = 0x34 → 1 ≤ len → pos + len ≤ w → exact (fun i =>
      let v := a i / 2 ^ pos % 2 ^ len
      if xbits rw 11 11 = 1 then signedOf v len else v)) ∧
    (∀ t : Nat → Int, (rOp rw = 0x35 ∧ t = fun i => ia i + ib i) ∨ (rOp rw = 0x36 ∧ t = fun i => ia i - ib i) →
      IntLanes x w n (fun i => ⟨(near (t i) % 2 ^ w).toNat, decide (sat = 2) && decide (near (t i) ≠ t i), false⟩)) ∧
    (∀ p : Nat → Int, (p = fun i => if h * n2 + i < n then laneNum x.a w (h * n2 + i) nat2 * laneNum x.b w (h * n2 + i) nat2 else 0) →
      (rOp rw = 0x13 → IntLanes x (2 * w) n2 (fun i => ⟨(p i % 2 ^ (2 * w)).toNat, false, false⟩)) ∧
      (rOp rw = 0x14 → ∀ f, (∀ i, i < n2 → if h * n2 + i < n then IntOutIs (p i + laneNum x.c (2 * w) i nat2) (2 * w) nat2 sat (f i) else f i = ⟨0, false, false⟩) →
        IntLanes x (2 * w) n2 f)) ∧
    (rOp rw = 0x57 → sp < 3 → ∀ f, (∀ i, i < 2 * n → IntOutIs (if i < n then laneNum x.a w i nat2 else laneNum x.b w (i - n) nat2) (w / 2) nat2 sat (f i)) →
      IntLanes x (w / 2) (2 * n) f) ∧
    (rOp rw = 0x58 → 1 ≤ sp → IntLanes x (2 * w) n2 (fun i => ⟨if h * n2 + i < n then (laneNum x.a w (h * n2 + i) nat2 % 2 ^ (2 * w)).toNat else 0, false, false⟩)) ∧
    (xbits rw 0 0 = 0 →
      let nat := decide (xbits rw 1 1 = 1)
      let ls := laneNum x.b 32 0 nat :: (List.range n).map (fun i => laneNum x.a w i nat)
      (rOp rw = 0x68 → ∀ o, IntOutIs ls.sum 32 nat sat o → IntLanes x 32 1 (fun _ => o)) ∧
      (rOp rw = 0x69 → ∀ m ∈ ls, (∀ v ∈ ls, v ≤ m) → ∀ o, IntOutIs m 32 nat sat o → IntLanes x 32 1 (fun _ => o)))

/-- R210, R211, R212, R213, R214, R215, R216, R228: the float lanes. Each sum or product is exact and rounded once; FMIN and FMAX choose by the order of
numbers with -0 below +0; FRND takes one of the two integers about its source; RSQS and RCPS round the exact root or reciprocal to 12 binary
digits and then to FP32. Of EX2S and LG2S the special cases and the arguments with exact results are stated. -/
def Sys2Proof.Claims.ElementFloats : Prop :=
  ∀ x : ElemIn,
    let w := x.w
    let op := rOp w
    let ftzi := rFtzi w
    let ftzo := rFtzo w
    let va (l : Nat) : XNum := laneVal x.a ftzi l
    let vb (l : Nat) : XNum := laneVal x.b ftzi l
    let vc (l : Nat) : XNum := laneVal x.c ftzi l
    let a (l : Nat) : Nat := laneCode x.a ftzi l
    let b (l : Nat) : Nat := laneCode x.b ftzi l
    let sum (us : Nat → List XNum) : Prop := FloatLanes x (fun l z o => RoundedSum (us l) (rRnd w) ftzo z o)
    let most (c d : Nat) : Nat := if isNan32 c || isNan32 d then 0x7FC00000 else flush32 ftzo (if place c < place d then d else c)
    let least (c d : Nat) : Nat := if isNan32 c || isNan32 d then 0x7FC00000 else flush32 ftzo (if place c < place d then c else d)
    let ord (l : Nat) : Bool := !(isNan32 (a l) || isNan32 (b l))
    let cmp (l : Nat) : Bool := match rAcc w with
      | 0 => ord l && decide (worth (a l) = worth (b l))
      | 1 => !ord l || decide (worth (a l) ≠ worth (b l))
      | 2 => ord l && decide (worth (a l) < worth (b l))
      | 3 => ord l && decide (worth (a l) ≤ worth (b l))
      | 4 => ord l && decide (worth (b l) < worth (a l))
      | 5 => ord l && decide (worth (b l) ≤ worth (a l))
      | 6 => !ord l
      | _ => ord l
    let seed (l : Nat) (v : Nat) (f : BitVec 5) : Prop := ∀ z, floatLane x l z = ⟨v, f, z⟩
    let nan := 0x7FC00000
    let inf := 0x7F800000
    (op = 0x40 → sum (fun l => [va l, vb l])) ∧ (op = 0x41 → sum (fun l => [va l, negated (vb l)])) ∧
    (∀ p : Nat → XNum, (∀ l, ProductIs (va l) (vb l) (p l)) → (op = 0x42 → sum (fun l => [p l])) ∧ (op = 0x43 → sum (fun l => [p l, vc l])) ∧
      (op = 0x44 → sum (fun l => [vc l, negated (p l)]))) ∧
    (op = 0x45 → FloatLanes x (plainLane (fun l => least (a l) (b l)))) ∧ (op = 0x46 → FloatLanes x (plainLane (fun l => most (a l) (b l)))) ∧
    (op = 0x47 → FloatLanes x (plainLane (fun l => if isNan32 (a l) then nan else flush32 ftzo (a l % 2 ^ 31)))) ∧
    (op = 0x48 → FloatLanes x (plainLane (fun l =>
      if isNan32 (a l) then (if a l < 2 ^ 31 then 0xFFC00000 else nan) else flush32 ftzo (if a l < 2 ^ 31 then a l + 2 ^ 31 else a l - 2 ^ 31)))) ∧
    (op = 0x49 → rAcc w ≤ 7 → FloatLanes x (plainLane (fun l => if cmp l then 0xFFFFFFFF else 0))) ∧
    (op = 0x4F → FloatLanes x (plainLane (fun l =>
      let c := a l
      if isNan32 c then 2 ^ 8
      else if exp32 c = 255 then (if 2 ^ 31 ≤ c then 2 ^ 0 else 2 ^ 7)
      else if c % 2 ^ 31 = 0 then (if 2 ^ 31 ≤ c then 2 ^ 3 else 2 ^ 4)
      else if exp32 c = 0 then (if 2 ^ 31 ≤ c then 2 ^ 2 else 2 ^ 5) else if 2 ^ 31 ≤ c then 2 ^ 1 else 2 ^ 6))) ∧
    (op = 0x4E → FloatLanes x (fun l z o =>
      let c := a l
      let q := magOf fp32 (c % 2 ^ 31)
      let u := (rsrStep z).toNat / 65536
      if isNan32 c then o = ⟨nan, 0, z⟩
      else if 150 ≤ exp32 c then o = ⟨c, 0, z⟩
      else ∃ y : Nat, (y : Rat) ≤ q ∧ q < y + 1 ∧ o.flg = 0 ∧ o.rsr = (if rRnd w = 3 ∧ (y : Rat) ≠ q then rsrStep z else z) ∧ o.code < 2 ^ 32 ∧ exp32 o.code < 255 ∧
        o.code / 2 ^ 31 = c / 2 ^ 31 ∧
        (let up : Bool := decide ((y : Rat) ≠ q) && (match rRnd w with
          | 0 => decide (y + 1 - q ≤ q - y)
          | 1 => decide (y + 1 - q < q - y) || (decide (y + 1 - q = q - y) && decide (y % 2 = 1))
          | 2 => false
          | _ => decide ((u : Int) < ((q - y) * 65536).floor))
        magOf fp32 (o.code % 2 ^ 31) = (if up then y + 1 else y : Nat)))) ∧
    (xbits w 0 0 = 1 →
      (op = 0x68 → ∀ o, RoundedSum [va 0, va 1, vb 0] (rRnd w) ftzo x.e.rsr o →
        elemExec x = { onlyResults x [resultAt x 2 (rDst w) ⟨BitVec.ofNat 80 o.code, 0x7F⟩] with flg := o.flg, rsr := o.rsr }) ∧
      (op = 0x69 → elemExec x = onlyResults x [resultAt x 1 (rDst w) ⟨BitVec.ofNat 80
        (if isNan32 (a 0) || isNan32 (a 1) || isNan32 (b 0) then nan
          else flush32 ftzo (let m := if place (a 0) < place (a 1) then a 1 else a 0
            if place m < place (b 0) then b 0 else m)), 0x7F⟩])) ∧
    (0x4A ≤ op → op ≤ 0x4D → FloatLanes x (fun l z o => o = floatLane x l z)) ∧
    (∀ l, l < 2 →
      let c := a l
      let neg := decide (2 ^ 31 ≤ c)
      (0x4A ≤ op → op ≤ 0x4D → isNan32 c = true → seed l nan 0) ∧
      (op = 0x4A → (c = inf → seed l 0 0) ∧ (c = inf + 2 ^ 31 → seed l nan 0) ∧ (c = 0 → seed l inf 0) ∧ (c = 2 ^ 31 → seed l (inf + 2 ^ 31) 0) ∧
        (exp32 c < 255 → 2 ^ 31 < c → seed l nan 0)) ∧
      (op = 0x4B → (c = inf → seed l 0 0) ∧ (c = inf + 2 ^ 31 → seed l (2 ^ 31) 0) ∧ (c = 0 → seed l inf 0) ∧ (c = 2 ^ 31 → seed l (inf + 2 ^ 31) 0)) ∧
      (op = 0x4C → (c = inf → seed l inf 0) ∧ (c = inf + 2 ^ 31 → seed l 0 0) ∧ (c = 0 ∨ c = 2 ^ 31 → seed l 0x3F800000 0) ∧
        (∀ q, ratOf (va l) = some q → (128 ≤ q → seed l inf 1) ∧ (q < -150 → seed l 0 2) ∧
          (∀ n : Int, q = n → -126 ≤ n → n ≤ 127 → seed l ((n + 127).toNat * 2 ^ 23) 0))) ∧
      (op = 0x4D → (c = inf → seed l inf 0) ∧ (c = inf + 2 ^ 31 → seed l nan 0) ∧ (c = 0 ∨ c = 2 ^ 31 → seed l (inf + 2 ^ 31) 0) ∧
        (exp32 c < 255 → 2 ^ 31 < c → seed l nan 0) ∧
        (∀ n : Int, ratOf (va l) = some ((2 : Rat) ^ n) → ∃ v, magOf fp32 v = n ∧ v < 2 ^ 32 ∧ (n = 0 → v = 0) ∧ seed l v 0)) ∧
      (∀ (k : Nat) (j : Int) (z : Half), let q := magOf fp32 (c % 2 ^ 31)
        2 ^ 11 ≤ k → k ≤ 2 ^ 12 → exp32 c < 255 → 0 < q →
        (op = 0x4B → (2 : Rat) ^ (j + 11) * q ≤ 1 → 1 < (2 : Rat) ^ (j + 12) * q → (2 * k - 1) * (2 : Rat) ^ (j - 1) * q ≤ 1 →
          1 ≤ (2 * k + 1) * (2 : Rat) ^ (j - 1) * q →
          floatLane x l z = roundNarrow (.fin neg k j) fp32 1 ftzo z) ∧
        (op = 0x4A → neg = false → (2 : Rat) ^ (2 * j + 22) * q ≤ 1 → 1 < (2 : Rat) ^ (2 * j + 24) * q →
          (2 * k - 1) ^ 2 * (2 : Rat) ^ (2 * j - 2) * q ≤ 1 → 1 ≤ (2 * k + 1) ^ 2 * (2 : Rat) ^ (2 * j - 2) * q →
          floatLane x l z = roundNarrow (.fin false k j) fp32 1 ftzo z)))

/-- R64, R66, R67, R219, R220, R221, R222, R225, R226: the conversions. FCNV, I2F and F2I round slot by slot into a copy of SB; QNT divides by its scale and
marks a NaN group; DQT multiplies by it; AMAX takes the largest magnitude; K4XE forms and K4XD decodes K4X words with their escapes; QNT and
AMAX feed the tracker that they name. -/
def Sys2Proof.Claims.ElementConversions : Prop :=
  ∀ x : ElemIn,
    let w := x.w
    let op := rOp w
    let rnd := rRnd w
    let ftzi := rFtzi w
    let ftzo := rFtzo w
    let so := xbits w 15 10
    let dto := xbits w 21 16
    let a (l : Nat) : Nat := laneCode x.a ftzi l
    let canon (c : Nat) : Nat := if isNan32 c then 0x7FC00000 else c
    (op = 0x50 ∨ op = 0x51 ∨ op = 0x52 → ∀ (fs fd : NFmt) (z : Nat → Half),
      let n := min (laneSlots (xbits w 9 5)) (laneSlots (xbits w 4 0))
      let o (i : Nat) : Rounded := roundNarrow (flushIn fs ftzi (laneAt x.a (fmtWidth fs) (so + i))) fd rnd ftzo (z i)
      laneFmt (xbits w 9 5) = some fs → laneFmt (xbits w 4 0) = some fd → dto + n ≤ laneSlots (xbits w 4 0) → z 0 = x.e.rsr →
      (∀ i, i < n → z (i + 1) = (o i).rsr) →
      ∃ r : Val, elemExec x = { onlyResults x [resultAt x 1 (rDst w) r] with flg := (List.range n).foldl (fun f i => f ||| (o i).flg) 0, rsr := z n } ∧
        r.sb = x.a.sb ∧ (fmtWidth fd = 6 → r.w.toNat < 2 ^ 78) ∧
        ∀ k, k < laneSlots (xbits w 4 0) → laneAt r (fmtWidth fd) k = if dto ≤ k ∧ k < dto + n then (o (k - dto)).code else laneAt x.b (fmtWidth fd) k) ∧
    (op = 0x53 → ∀ f : NFmt, taggedFmt (xbits w 4 0) = some f → xbits w 23 22 ≠ 3 → dto + 2 ≤ laneSlots (xbits w 4 0) →
      let trk := xbits w 27 24
      let scl : Byte := if xbits w 23 22 = 0 then x.b.sb else if xbits w 23 22 = 1 then x.lastscl trk else BitVec.ofNat 8 (rConst w)
      let k : Int := 127 - (scl.toNat : Int)
      let o0 := roundNarrow (timesTwo (laneVal x.a ftzi 0) k) f rnd ftzo x.e.rsr
      let o1 := roundNarrow (timesTwo (laneVal x.a ftzi 1) k) f rnd ftzo o0.rsr
      let feed (sat unf : Nat) : List InFlight := if xbits w 28 28 = 1 ∨ xbits w 23 22 = 1 then
        [⟨2, .feed trk (BitVec.ofNat 32 (canon (a 0))) (BitVec.ofNat 32 (canon (a 1))) (if xbits w 23 22 = 1 then sat else 0)
          (if xbits w 23 22 = 1 then unf else 0)⟩] else []
      let sat (o : Rounded) : Nat := if o.flg.getLsbD 0 then 1 else 0
      let unf (c : Nat) (o : Rounded) : Nat := if c % 2 ^ 31 ≠ 0 ∧ ratOf (valueOf f o.code) = some 0 then 1 else 0
      (scl = 0xFF ∨ isNan32 (a 0) = true ∨ isNan32 (a 1) = true → elemExec x = onlyResults x (resultAt x 2 (rDst w) ⟨0, 0xFF⟩ :: feed 0 0)) ∧
      (scl ≠ 0xFF → isNan32 (a 0) = false → isNan32 (a 1) = false → ∃ r : Val,
        elemExec x = { onlyResults x (resultAt x 2 (rDst w) r :: feed (sat o0 + sat o1) (unf (a 0) o0 + unf (a 1) o1)) with
          flg := o0.flg ||| o1.flg, rsr := o1.rsr } ∧ r.sb = scl ∧
        ∀ i, i < laneSlots (xbits w 4 0) →
          laneAt r (fmtWidth f) i = if i = dto then o0.code else if i = dto + 1 then o1.code else laneAt x.b (fmtWidth f) i)) ∧
    (op = 0x54 →
      let vs := wordVals (xbits w 9 5) ftzi x.a.w
      let lane (i : Nat) (z : Half) (o : Rounded) : Prop := ∀ v, vs.1[so + i]? = some v →
        o = if x.a.sb = 0xFF ∨ xisNan v = true then ⟨0x7FC00000, 0, z⟩ else roundNarrow (timesTwo v ((x.a.sb.toNat : Int) - 127)) fp32 rnd ftzo z
      so + 2 ≤ vs.1.length → ∀ o0 o1, lane 0 x.e.rsr o0 → lane 1 o0.rsr o1 →
        elemExec x = { onlyResults x [resultAt x 1 (rDst w) ⟨BitVec.ofNat 80 (o0.code + o1.code * 2 ^ 32), 0x7F⟩] with
          flg := o0.flg ||| o1.flg ||| (if vs.2 then 16 else 0), rsr := o1.rsr }) ∧
    (op = 0x55 →
      let b0 := laneCode x.b ftzi 0
      let m := if isNan32 (a 0) || isNan32 (a 1) || isNan32 b0 then 0x7FC00000 else max (max (a 0 % 2 ^ 31) (a 1 % 2 ^ 31)) (b0 % 2 ^ 31)
      elemExec x = onlyResults x (resultAt x 1 (rDst w) ⟨BitVec.ofNat 80 m, 0x7F⟩ :: (if xbits w 4 4 = 1 then
        [⟨1, .feed (xbits w 3 0) (BitVec.ofNat 32 (canon (a 0) % 2 ^ 31)) (BitVec.ofNat 32 (canon (a 1) % 2 ^ 31)) 0 0⟩] else []))) ∧
    (op = 0x59 →
      let code (v : Val) (i : Nat) : XNum := flushIn e4m3 ftzi (laneAt v 8 i)
      let bad := x.a.sb = 0xFF ∨ x.b.sb = 0xFF ∨ ∃ i, i < 10 ∧ (xisNan (code x.a i) = true ∨ xisNan (code x.b i) = true)
      let p := k4xePack rnd ftzo ((List.range 20).map (fun i =>
        if i < 10 then code x.a i else timesTwo (code x.b (i - 10)) ((x.b.sb.toNat : Int) - x.a.sb.toNat))) x.e.rsr
      (bad → elemExec x = onlyResults x [resultAt x 2 (rDst w) ⟨0, 0xFF⟩]) ∧
      (¬bad → ∃ r : Val, elemExec x = { onlyResults x [resultAt x 2 (rDst w) r] with flg := p.2.1, rsr := p.2.2 } ∧ r.sb = x.a.sb ∧
        ∀ i, i < 20 → p.1[i]? = some (laneAt r 4 i))) ∧
    (∀ (q : XNum) (r : Rat) (t : List XNum) (z : Half), ratOf q = some r →
      let o := roundNarrow q .k4x rnd false z
      let e := roundNarrow q e4m3 rnd ftzo z
      (-7 ≤ r ∧ r ≤ 7 ∨ t.length ≤ 1 → k4xePack rnd ftzo (q :: t) z =
        (o.code :: (k4xePack rnd ftzo t o.rsr).1, o.flg ||| (k4xePack rnd ftzo t o.rsr).2.1, (k4xePack rnd ftzo t o.rsr).2.2)) ∧
      (∀ u v y, t = u :: v :: y → r < -7 ∨ 7 < r → k4xePack rnd ftzo (q :: t) z =
        (8 :: e.code / 16 :: e.code % 16 :: (k4xePack rnd ftzo y e.rsr).1, e.flg ||| (k4xePack rnd ftzo y e.rsr).2.1, (k4xePack rnd ftzo y e.rsr).2.2)) ∧
      k4xePack rnd ftzo [] z = ([], 0, z)) ∧
    (op = 0x5A →
      let ps := k4xScan ((List.range 20).map (laneAt x.a 4))
      let fl (on : Bool) (c : Nat) : Nat := if on = true ∧ c / 8 % 16 = 0 then c / 128 * 128 else c
      let sub (c : Nat) : Bool := decide (c / 8 % 16 = 0) && decide (c % 8 ≠ 0)
      ∃ r : Val, r.sb = x.a.sb ∧ elemExec x = { onlyResults x [resultAt x 1 (rDst w) r] with
          flg := (if ps.any (· == .bad) then 16 else 0) |||
            (if ((ps.drop (10 * xbits w 0 0)).take 10).any (fun p => match p with
              | .esc c => sub (fl ftzi c)
              | _ => false) then 2 else 0) } ∧
        ∀ i, i < 10 → match ps[10 * xbits w 0 0 + i]? with
          | some (.int c) => ratOf (valueOf e4m3 (laneAt r 8 i)) = ratOf (valueOf .k4x c)
          | some (.esc c) => laneAt r 8 i = fl ftzo (fl ftzi c)
          | _ => laneAt r 8 i = 0)

/-- R58, R65, R158, R180, R181, R182, R183, R184, R185, R186, R199, R200, R205: the dot products. Each output sums the exact products of its A slots with its B slots, in
integer mode as an integer, in float mode exactly, or with BF16 or FP16 operands truncated below the largest by 56 bits; a forward of a word takes
one cycle; ACCM adds lanes; and an accumulation, made at the landing on the accumulator as it then is, rounds once. -/
def Sys2Proof.Claims.DotProducts : Prop :=
  (∀ x : ElemIn, isDot x.w = true →
    let w := x.w
    let f := x.shape
    let M := if rOp w = 0x11 then 1 else fwNout f
    let U := fwU f
    let j0 := xbits w 5 0
    let bw (m : Nat) : Val := if rOp w = 0x11 then x.b else x.e.anchorVal m
    let A := wordVals (fwA f) (rFtzi w) x.a.w
    let B (m : Nat) : List XNum × Bool := wordVals (fwB f) (rFtzi w) (bw m).w
    let fwd (k : Nat) (v : Val) : List InFlight := if k = 2 then [resultAt x 1 32 v] else if k = 3 then [resultAt x 1 33 v] else []
    let k (m : Nat) : Nat := rDst w - 38 + m
    let nanScale (m : Nat) : Bool := x.a.sb == 0xFF || (bw m).sb == 0xFF
    ∃ S : Nat → Int, ∃ V : Nat → XNum,
      elemExec x = { onlyResults x ((List.range M).map (fun m =>
          if fwFloat f then ⟨3, .accFloat (k m) (rOp w == 0x12) (V m) (rFtzo w)⟩
          else ⟨3, .accInt (k m) (rOp w == 0x12) (S m) (if fwAccp f = 1 then 16 else 32) (rSat w)⟩) ++
          (fwd (rAcc w % 4) x.a ++ if rOp w = 0x11 then fwd (rAcc w / 4) x.b else [])) with
        flg := (List.range M).foldl (fun g m => g ||| if fwFloat f then (if A.2 || (B m).2 then 16 else 0) else if nanScale m then 4 else 0) 0 } ∧
      ∀ m, m < M → j0 + U ≤ A.1.length → (B m).1 ≠ [] → ∀ p : Nat → XNum,
        (∀ i, i < U → ∃ av bv, A.1[j0 + i]? = some av ∧ (B m).1[(j0 + i) % (B m).1.length]? = some bv ∧ ProductIs av bv (p i)) →
        let ps := (List.range U).map p
        let odd := nanScale m = true ∨ (∃ q ∈ ps, xisNan q = true) ∨ (XNum.inf false ∈ ps ∧ XNum.inf true ∈ ps)
        let wide := 8 < taggedWidth (fwA f) ∨ 8 < taggedWidth (fwB f)
        let scale : Rat := (2 : Rat) ^ ((x.a.sb.toNat : Int) + (bw m).sb.toNat - 254)
        (fwFloat f = false → fwA f ≤ 6 → fwB f ≤ 6 → 1 ≤ fwA f → 1 ≤ fwB f → (S m : Rat) = if nanScale m then 0 else sumOf ps) ∧
        (fwFloat f = true → (odd → xisNan (V m) = true) ∧ (∀ s, ¬odd → XNum.inf s ∈ ps → V m = .inf s) ∧
          (¬odd → (∀ q ∈ ps, ratOf q ≠ none) →
            (¬wide → (sumOf ps = 0 → ratOf (V m) = some 0 ∧ xneg (V m) = false) ∧ (sumOf ps ≠ 0 → ratOf (V m) = some (sumOf ps * scale))) ∧
            (wide → ((∀ q ∈ ps, ratOf q = some 0) → ratOf (V m) = some 0 ∧ xneg (V m) = false) ∧
              (∀ E : Int, (∀ q ∈ ps, ∀ r, ratOf q = some r → -((2 : Rat) ^ (E + 1)) < r ∧ r < (2 : Rat) ^ (E + 1)) →
                (∃ q ∈ ps, ∃ r, ratOf q = some r ∧ (r ≤ -((2 : Rat) ^ E) ∨ (2 : Rat) ^ E ≤ r)) →
                let unit := (2 : Rat) ^ (E - 56)
                let cut (r : Rat) : Int := if r < 0 then -((-r / unit).floor) else (r / unit).floor
                let T : Rat := ((ps.map (fun q => cut ((ratOf q).getD 0))).sum : Int) * unit
                let sticky := ∃ q ∈ ps, ∀ r, ratOf q = some r → (cut r : Rat) * unit ≠ r
                (T = 0 → ratOf (V m) = some 0 ∧ xneg (V m) = false) ∧
                (T ≠ 0 → ¬sticky → ratOf (V m) = some (T * scale)) ∧
                (T ≠ 0 → sticky → ratOf (V m) = some ((T + (if T < 0 then -1 else 1) * (unit / 2)) * scale))))))) ∧
  (∀ x : ElemIn, rOp x.w = 0x17 →
    let k := rAcc x.w % 4
    let one (i : Nat) : InFlight := ⟨2, if xbits x.w 0 0 = 1 then .accInt (k + i) false (signedOf (laneAt x.a 32 i) 32) 32 (rSat x.w)
      else .accFloat (k + i) false (laneVal x.a (rFtzi x.w) i) (rFtzo x.w)⟩
    elemExec x = onlyResults x (one 0 :: if (rAcc x.w).testBit 2 = true then [one 1] else [])) ∧
  (∀ (e : Elem) (col k : Nat) (fresh ftzo : Bool) (v : XNum),
    let acc : XNum := valueOf fp32 (if fresh then 0 else (e.getAcc k).toNat)
    let lands (c : Nat) (g : BitVec 5) : Prop := land e col (.accFloat k fresh v ftzo) = ({ e with acc := tset e.acc k (BitVec.ofNat 32 c) }, g, none, [])
    (∀ o : Rounded, RoundedSum [acc, v] 1 ftzo 1 o → lands o.code o.flg)) ∧
  (∀ (e : Elem) (col k : Nat) (fresh : Bool) (t : Int) (l : Nat) (sat : BitVec 2) (o : IntRes), l = 16 ∨ l = 32 →
    IntOutIs ((if fresh then 0 else (e.getAcc k).toInt) + t) l false sat o →
    let a := land e col (.accInt k fresh t l sat)
    (o.fault = true → a.2.2.1 = some (38 + k)) ∧
    (o.fault = false → a = ({ e with acc := tset e.acc k (BitVec.ofInt 32 (signedOf o.v l)) }, if o.isat then 8 else 0, none, [])))

end Elements

section Blocks

open Sys2Proof Sys2Proof.Machine Sys2Proof.Claims

/-- R100, R240, R241, R246, R330: BLOAD of a record at a multiple of 64 into a slot that no run holds fills the slot with the block and the mapping that
the map cache holds or that a pre-routed image gives; with neither, the strand stalls for the mapper. Without a region it is TOKEN
detail 0x05. While the region is lent to a transformed copy the strand stalls, before the checks that follow (the place of the stall among
them is the model's choice, log entry 127). At another address it is ALIGN, into a held slot ILLEGAL detail 0x38, and a fault of the record or its
mapping is taken. -/
def Sys2Proof.Claims.BlockLoads : Prop :=
  ∀ (s s1 s2 : State) (d n j : Nat) (g : Guard) (k : BitVec 2) (a : SReg) (off : BitVec 29) (x : Region) (h : Nat) (b : Block),
    let u := Agent.strand d n j
    let r : RegionId := ⟨d, n, j⟩
    let s0 := noteIssue s u
    let q := s0.req u
    let da := int64 ((s.getS u a).toNat + off.toInt)
    let i := Instr.bload g k a off
    Issues s u g →
    (s.region r = none → exec i s = .next (takeFault s0 u { cls := 0x0B, detail := 5, addr := 0 })) ∧
    (s.region r = some x → x.lent ≠ none → exec i s = .next s0) ∧
    (s.region r = some x → x.lent = none →
      (da.toNat % 64 ≠ 0 → exec i s = .next (takeFault s0 u { cls := 3, detail := 1, addr := da })) ∧
      (da.toNat % 64 = 0 → slotHeld x k.toNat = true → exec i s = .next (takeFault s0 u { cls := 1, detail := 0x38, addr := 0 })) ∧
      (da.toNat % 64 = 0 → slotHeld x k.toNat = false →
        (∀ f, readRecord s0 q da = (s1, .fault f) ∨ readRecord s0 q da = (s1, .ok (.error f)) → exec i s = .next (takeFault s1 u f)) ∧
        (readRecord s0 q da = (s1, .ok (.ok (h, b))) →
          (b.img = true → ∀ s3, loadImage s1 r q k.toNat da h b x = (s2, .ok (.ok s3)) → exec i s = .next (s3.retire u)) ∧
          (b.img = false → ∀ s3 img, lookUp s1 r q k.toNat da h b x = (s2, .ok (.ok (s3, some img))) → s3.region r ≠ none →
            ∃ t z, exec i s = .next (State.retire t u) ∧ t.region r = some z ∧ z.hit = true ∧
              tfind z.slots k.toNat = some ⟨b, img, da⟩ ∧ t.mem = s3.mem) ∧
          (b.img = false → ∀ s3, lookUp s1 r q k.toNat da h b x = (s2, .ok (.ok (s3, none))) → exec i s = .next (s3.stallOn u .mapper)))))

/-- R100, R241, R244, R246, R330: BRUN and BSWAP of filled slots whose checks pass make the token BUSY, and their run is the region's run, or the pending one while
another is active; with a run pending already the strand waits. An empty slot is ILLEGAL detail 0x38, a token not free TOKEN, a
BSWAP of one slot or of more than 32 cycles in all ILLEGAL detail 0x03, a block whose gear the tile does not run GEAR detail 0x20, and any other
check of R246 that fails its own fault. Without a region it is TOKEN detail 0x05 (R330). While the region is lent to a transformed copy the strand
waits, before those checks but that of BSWAP's mask (R100; the place of the stall among them is the model's choice, log entry 127). -/
def Sys2Proof.Claims.BlockRuns : Prop :=
  ∀ (s : State) (d n j : Nat) (g : Guard) (sc : ScopeCode) (t : TokIx) (k : BitVec 2) (mask : BitVec 4) (x : Region) (is : List Install),
    let u := Agent.strand d n j
    let r : RegionId := ⟨d, n, j⟩
    let s0 := noteIssue s u
    let tok := (s.getTok u t.toNat).st
    let ks (swap : Bool) : List Nat := if swap then (List.range 4).filter (fun i => mask.getLsbD i) else [k.toNat]
    let instr (swap : Bool) : Instr := if swap then .bswap g sc t mask else .brun g sc t k
    let stages (swap : Bool) : List Stage := ((ks swap).zip is).map (fun e => newStage (s.ctx u) x e.1 e.2)
    let v (swap : Bool) : Run := { tok := t, scope := sc, shared := swap, stages := stages swap,
                                   apTile := (s.ctx u).apTile, apClus := (s.ctx u).apClus, apDie := (s.ctx u).apDie }
    let traps (swap : Bool) (cls det : Nat) : Prop := exec (instr swap) s = .next (takeFault s0 u { cls := cls, detail := det, addr := 0 })
    Issues s u g → (s.region r ≠ none → (ks true).length < 2 → traps true 1 3) ∧ ∀ swap, (swap = true → 2 ≤ (ks true).length) →
      (s.region r = none → traps swap 0x0B 5) ∧
      (s.region r = some x → x.lent ≠ none → exec (instr swap) s = .next s0) ∧
      (s.region r = some x → x.lent = none →
        (tok = .busy → traps swap 0x0B 1) ∧ (tok = .error → traps swap 0x0B 2) ∧
        (tok = .idle ∨ tok = .done →
          ((∃ m ∈ ks swap, tfind x.slots m = none) → traps swap 1 0x38) ∧
          ((ks swap).mapM (fun m => tfind x.slots m) = some is →
            (swap = true → 32 < ((stages swap).map (fun z => z.ii)).foldl (· + ·) 0 → traps swap 1 3) ∧
            ((swap = true → ((stages swap).map (fun z => z.ii)).foldl (· + ·) 0 ≤ 32) →
              (∀ f, runIssueFault s0 r (s0.req u) x (v swap) = some f → exec (instr swap) s = .next (takeFault s0 u f)) ∧
              ((∃ z ∈ is, (z.block.greq = 1 ∧ (s.tile d n).gear = false) ∨ (z.block.greq = 2 ∧ (s.tile d n).gear = true)) → traps swap 0x10 0x20) ∧
              (runIssueFault s0 r (s0.req u) x (v swap) = none → reportPending s u t.toNat = false →
                (x.pend ≠ none → exec (instr swap) s = .next s0) ∧
                (x.pend = none → ∃ s' z, exec (instr swap) s = .next (State.retire s' u) ∧ (s'.getTok u t.toNat).st = .busy ∧ s'.region r = some z ∧
                  (x.run = none → z = { x with run := some (v swap) }) ∧ (x.run ≠ none → z = { x with pend := some (v swap) }) ∧
                  s'.mem = s.mem ∧ s'.elems = s.elems))))))

/-- R168, R246, R247, R330: BARG writes the argument file, and an update of a running block that lists the argument is pending; BDRAIN marks the run
draining; BSTAT reads RUNSTAT, ITER and MAPINFO, with ITER and WPCNT those of all stages of the run, zero without a region; BKILL ends the active and the pending run, their tokens in ERROR with
cause 0x20. -/
def Sys2Proof.Claims.BlockControl : Prop :=
  ∀ (s : State) (d n j : Nat) (g : Guard) (a : BitVec 6) (b dst : SReg) (x : Region),
    let u := Agent.strand d n j
    let r : RegionId := ⟨d, n, j⟩
    let s0 := noteIssue s u
    let v : Half := (s.getS u b).truncate 32
    Issues s u g →
    (s.region r = none → (∀ i, i = Instr.barg g a b ∨ i = .bdrain g ∨ i = .bkill g →
        exec i s = .next (takeFault s0 u { cls := 0x0B, detail := 5, addr := 0 })) ∧
      (∀ sel : BitVec 2, sel ≠ 3 → exec (.bstat g dst sel) s = .next (wrote s u dst 0))) ∧
    exec (.bstat g dst 3) s = .next (takeFault s0 u { cls := 1, detail := 3, addr := 0 }) ∧
    (s.region r = some x →
      (x.argPend ≠ none → exec (.barg g a b) s = .next s0) ∧
      (x.argPend = none → exec (.barg g a b) s = .next ((s0.setRegion r { x with
        args := tset x.args a.toNat v
        argPend := match x.run with
          | none => none
          | some w => if w.started && w.stages.any (fun z => z.inst.block.args.any (fun e => e.1 == a.toNat)) then some (a.toNat, v, false)
            else none }).retire u)) ∧
      (x.lent = none → ∃ t z, exec (.bdrain g) s = .next (State.retire t u) ∧ t.region r = some z ∧ (x.run = none → z.run = none) ∧
        (∀ w, x.run = some w → ∃ y, z.run = some y ∧ y.draining = true ∧ y.tok = w.tok) ∧ t.mem = s.mem ∧ t.elems = s.elems) ∧
      (∃ v : Word, exec (.bstat g dst 0) s = .next (wrote s u dst v) ∧
        (x.run = none → v.toNat / 2 ^ 60 = 0 ∧ v.getLsbD 59 = x.pend.isSome ∧ v.getLsbD 48 = x.lent.isSome ∧
          ∀ k, k < 4 → v.getLsbD (49 + k) = (tfind x.slots k).isSome) ∧
        (∀ w st, x.run = some w → w.cur = some st → 1 ≤ st.ii → st.ii ≤ 32 →
          v.toNat / 2 ^ 62 = (if w.shared then 3 else if w.started = true ∧ st.t ≤ st.j then 2 else 1) ∧ v.toNat / 2 ^ 60 % 4 = st.slot % 4 ∧
          v.getLsbD 59 = x.pend.isSome ∧ v.getLsbD 58 = st.inst.image.fb ∧ v.toNat / 2 ^ 53 % 32 + 1 = st.ii ∧
          v.toNat / 2 ^ 32 % 2 ^ 16 = min 0xFFFF (w.stages.map (fun y => y.wpcnt)).sum)) ∧
      exec (.bstat g dst 1) s = .next (wrote s u dst (nat64 (match x.run with
        | none => x.lastIter
        | some w => (w.stages.map (fun y => y.iter)).sum))) ∧
      exec (.bstat g dst 2) s = .next (wrote s u dst (nat64 ((if x.hit then 2 ^ 63 else 0) + (if x.mapFb then 2 ^ 62 else 0) + min x.relays 65535))) ∧
      (x.lent = none → ∃ t z, exec (.bkill g) s = .next (State.retire t u) ∧ t.region r = some z ∧ z.run = none ∧ z.pend = none ∧ t.mem = s.mem ∧
        (∀ w, x.run = some w ∨ x.pend = some w → t.getTok u w.tok.toNat = ⟨.error, 0x20⟩)))

/-- R245, R340: REFORM waits until every strand of the task on the tile that has not halted has come to it. When the last one comes and all that do not
stand parked name one layout, and no region of the tile is busy, the layout applies: a region that keeps its quads and its strand stays as it is, every
other strand with quads gets a new region, one without quads none; strands with a region go on and the others are parked. A layout whose quads
form no rectangle for a strand, a region that spans tiles, and a changed region with a FIFO that is not empty or is claimed are ILLEGAL detail
0x36, and two different layouts ILLEGAL detail 0x37, both of the last arrival and with every region as it was. While a region is busy all wait. -/
def Sys2Proof.Claims.RegionReform : Prop :=
  ∀ (s : State) (d n j : Nat) (g : Guard) (use : BitVec 4) (own : BitVec 8),
    let u := Agent.strand d n j
    let live := liveStrands s (s.ctx u).task d n
    let c (k : Nat) : Ctx := s.ctx (.strand d n k)
    let qs (k : Nat) : List Nat := layoutQuads use own k
    let i := Instr.reform g use own
    let s0 := (noteIssue s u).stallOn u (.reform use own (nextArrival s d n))
    let traps (k : Nat) : Prop := exec i s = .next (takeFault s0 u { cls := 1, detail := k, addr := 0 })
    let fits : Prop := ∀ k, k < 4 → qs k = [] ∨ ∃ z, quadRect (qs k) = some z
    let within : Prop := ∀ e ∈ s.regions, e.1 / 576 = d → (∃ q ∈ e.2.quads, q.1 = n) → ∀ q ∈ e.2.quads, q.1 = n
    let busy : Prop := ∃ k x, k < 4 ∧ s.region ⟨d, n, k⟩ = some x ∧ regionBusy x = true
    let pinned : Prop := ∃ k x, k < 4 ∧ s.region ⟨d, n, k⟩ = some x ∧ x.quads ≠ (qs k).map (fun q => (n, q)) ∧ fifosFree x = false
    Issues s u g →
    (∀ k q, q ∈ qs k ↔ q < 4 ∧ use.getLsbD q = true ∧ own.toNat / 4 ^ q % 4 = k) ∧
    ((∃ k ∈ live, k ≠ j ∧ insideReform (c k) = false) → exec i s = .next s0) ∧
    (∀ k ∈ live, insideReform (c k) = true → arrivalOf (c k) < nextArrival s d n) ∧
    ((∀ k ∈ live, k ≠ j → insideReform (c k) = true) → (∀ k ∈ live, s.halted (.strand d n k) = false) →
      ((∃ k ∈ live, k ≠ j ∧ ∃ l, namedLayout (c k) = some l ∧ l ≠ (use, own)) → traps 0x37) ∧
      ((∀ k ∈ live, k ≠ j → ∀ l, namedLayout (c k) = some l → l = (use, own)) →
        (¬fits ∨ ¬within → traps 0x36) ∧ (fits → within → busy → exec i s = .next s0) ∧ (fits → within → ¬busy → pinned → traps 0x36) ∧
        (fits → within → ¬busy → ¬pinned → ∃ t, exec i s = .next t ∧ t.mem = s.mem ∧ ∀ k, k < 4 →
          (∀ x, s.region ⟨d, n, k⟩ = some x → x.quads = (qs k).map (fun q => (n, q)) → t.region ⟨d, n, k⟩ = some x) ∧
          ((∀ x, s.region ⟨d, n, k⟩ = some x → x.quads ≠ (qs k).map (fun q => (n, q))) →
            (qs k = [] → t.region ⟨d, n, k⟩ = none) ∧
            (∀ h w, quadRect (qs k) = some (h, w) → t.region ⟨d, n, k⟩ = some { quads := (qs k).map (fun q => (n, q)), qrows := h, qcols := w })) ∧
          (k ∈ live → t.ctx (.strand d n k) = if t.region ⟨d, n, k⟩ ≠ none then ({ c k with stall := .none, ticks := 0 } : Ctx).retire
            else { c k with stall := .parked, ticks := 0 })))) ∧
    (∀ f, (takeFault s0 u { cls := 1, detail := f, addr := 0 }).regions = s.regions)

/-- R143, R144, R150, R156, R237, R241, R284: the steps of a run between its cycles. A run that is due starts with its counter at 0 once its preloads and
first anchors are read, with a shadow of each stage; a decode port reads bank words of the line where it stands, in one step or in several (which words a step reads
is a free choice: the model's reading, log entry 113), and a line that is complete sets no flag until a cycle takes its words, while a line that
faults waits for the words of earlier lines to be consumed; an encode port writes its oldest line; a pending anchor load is made; and a run with
nothing left to do ends, its token DONE and the pending run active, or, with a row partly filled, raises FMT detail 0x06. -/
def Sys2Proof.Claims.RunSteps : Prop :=
  (∀ (s s1 s2 s3 : State) (r : RegionId) (x : Region) (u : Run),
    let w : Run := { u with stages := u.stages.map (startStage x u.draining) }
    let q := runReq s r u
    s.region r = some x → x.run = some u → u.started = false → runMoves s r u = true →
    (∀ f ∈ runFifos u 0, (x.fifo f).consumer = none) → (∀ f ∈ runFifos u 3, (x.fifo f).producer = none) → portsTaken s r x u = false →
    s1 = putElems r x s (x.coords.map (fun e => (e.1, e.2, freshElem x.seed e.1 e.2 (s.elem r x e.1 e.2)))) →
    preloadStages q r x s1 w.stages = (s2, .ok ()) → firstAnchors q r x s2 w.stages = (s3, .ok ()) →
    ∃ t z v, exec (.runStart r) s = .next t ∧ t.region r = some z ∧ z.run = some v ∧ v.started = true ∧ v.act = 0 ∧ v.tok = u.tok ∧
      (∀ st ∈ v.stages, st.c = 0 ∧ st.j = 0 ∧ st.iter = 0) ∧ (∀ k, k < u.stages.length → (tfind z.shadows k).isSome = true) ∧ t.mem = s3.mem) ∧
  (∀ (s s1 : State) (q : Req) (v : Word × Word) (i : Nat) (own : Tab Byte) (p : DecPort) (ws : Tab (List Byte)) (o : Option (List Byte)),
    readPart s q own v i p = (s1, .ok (ws, o)) →
    (∀ k, k < 8 → ∀ b, tfind p.early k = some b → tfind ws k = some b) ∧
    (∀ k, k < 8 → (∀ m, m < 8 → (tfind p.early m = none ↔ m = k)) → ∃ b, readView s q own v p.at_.step i (8 * p.at_.line + k) 1 = (s1, .ok b) ∧ tfind ws k = some b) ∧
    ((∃ k, k < 8 ∧ tfind p.early k = none) → ∃ k, k < 8 ∧ tfind p.early k = none ∧ tfind ws k ≠ none) ∧
    ((∃ k, k < 8 ∧ tfind ws k = none) → o = none) ∧
    (∀ w : Nat → List Byte, (∀ k, k < 8 → tfind ws k = some (w k)) → o = some ((List.range 8).flatMap w))) ∧
  (∀ (s s1 : State) (r : RegionId) (port : Nat) (x : Region) (u : Run) (st : Stage) (p : DecPort) (b : Binding) (v : Word × Word) (ws : Tab (List Byte))
      (bs : List Byte) (o : LineOut) (pos : Nat),
    portStage s r port = some (x, u, st) → tfind x.dec port = some p → st.bind p.bind = some (b, v) → st.j < st.total →
    p.at_.step < st.steps b.tlvl → p.at_.line < eLines b.edge →
    (readPart s (runReq s r u) u.own v (port % 64) p = (s1, .ok (ws, none)) →
      exec (.decodeLineRead r port) s = .next (s1.setRegion r { x with dec := tset x.dec port { p with early := ws } })) ∧
    (readPart s (runReq s r u) u.own v (port % 64) p = (s1, .ok (ws, some bs)) →
    (∀ k, portLine (fwA ((st.inst.block.shapes[b.shp]?).getD 0)) b.edge p.at_ bs = .error k →
      (p.words = [] → exec (.decodeLineRead r port) s = .next (runFault s1 r (lineFault k (port % 64) 0 st p.at_.line p.at_.pos))) ∧
      (p.words ≠ [] → exec (.decodeLineRead r port) s = .next s)) ∧
    (portLine (fwA ((st.inst.block.shapes[b.shp]?).getD 0)) b.edge p.at_ bs = .ok (o, pos) → ∃ t z y, exec (.decodeLineRead r port) s = .next t ∧
      t.region r = some z ∧ tfind z.dec port = some y ∧ y.words.map (fun e => e.w) =
        p.words.map (fun e => e.w) ++ o.words.drop p.skip ∧ y.early = [] ∧ y.rsr = p.rsr ∧ z.numflg = x.numflg ∧ z.rovf = x.rovf ∧ t.mem = s1.mem))) ∧
  (∀ (s s1 : State) (r : RegionId) (port : Nat) (x : Region) (u : Run) (st : Stage) (p : EncPort) (b : Binding) (v : Word × Word) (l : EncLine)
      (ls : List EncLine) (own : Tab Byte),
    portStage s r port = some (x, u, st) → tfind x.enc port = some p → st.bind p.bind = some (b, v) → p.lines = l :: ls →
    writeView s (runReq s r u) u.own v l.row (port % 64) (8 * l.line) (bankWords l.bytes) = (s1, .ok own) →
    ∃ t z, exec (.encodeLineWrite r port) s = .next t ∧ t.region r = some z ∧ z.run = some { u with own := own } ∧ tfind z.enc port = some { p with lines := ls } ∧ t.mem = s1.mem) ∧
  (∀ (s s1 : State) (r : RegionId) (x : Region) (u : Run) (st : Stage) (n k : Nat) (b : Binding),
    s.region r = some x → x.run = some u → u.cur = some st → u.started = true → runMoves s r u = true → nextAnchor st = some (n, b, k) →
    stepUntried x st b.tlvl k = false → loadAnchors (runReq s r u) u.own r x st b ((st.views[n]?).getD (0, 0)) k s x.coords = (s1, .ok ()) →
    ∃ t z v y, exec (.anchorLoad r) s = .next t ∧ t.region r = some z ∧ z.run = some v ∧ v.cur = some y ∧ tget y.anchors n 0 = k + 1 ∧
      t.elems = s1.elems ∧ t.mem = s1.mem) ∧
  (∀ (s : State) (r : RegionId) (x : Region) (u : Run), s.region r = some x → x.run = some u → u.started = true → runMoves s r u = true →
    runOver s r x u = true →
    (∀ k l pos st, partlyFilled u x = some (k, l, pos) → u.cur ≠ none → u.stages[k / 64]? = some st →
      exec (.blockRunComplete r) s = .next (runFault s r (lineFault 6 (x.nrows - 1) (k % 64) st l pos))) ∧
    (partlyFilled u x = none ↔ ∀ e ∈ x.enc, ∀ st b v, u.stages[e.1 / 64]? = some st → st.bind e.2.bind = some (b, v) →
      e.2.count % max 1 (eK b.edge) = 0) ∧
    (partlyFilled u x = none → (∀ k, k < 4 → namedLayout (s.ctx (.strand r.die r.tile k)) = none) →
    ∃ t z, exec (.blockRunComplete r) s = .next t ∧ t.region r = some z ∧ z.run = x.pend ∧ z.pend = none ∧ t.mem = s.mem ∧
      (x.lent = none → (t.getTok r.strand u.tok.toNat).st = .done) ∧
      (∀ k o, x.lent = some k → s.op r.strand k = some o → t.op r.strand k = some { o with st := .written })))

/-- R27, R161-R169, R171, R172, R186, R188, R189, R230, R243: the fabric cycles of a run that may take cycles. With its duty bit 0 a cycle is empty: only the
duty index rises. With a row that holds, nothing else happens. Otherwise every row issues what its operation computes from its sources, all read at the
start of the cycle; at the end FIFOs are popped, slots freed, the results due landed in their element, in FIFOs, ports and trackers, and the
counter goes to the next context, or from the last to the next iteration until every iteration has begun, with the hairpin lines shifted
and a waypoint taken where one is due. A row that reads a dead slot, two results at one destination or in a live slot, an overflow, a row that
needs what is not ready and a TRAPIF whose condition holds are faults of the run, and the cycle has no effect. A bound FIFO with only pinned entries is SCHED detail 0x05; a run held for HOLDTO ticks is HOLDTO detail 0x01; a
delivered argument update is pending no longer and is applied at the end of an iteration. -/
def Sys2Proof.Claims.FabricCycles : Prop :=
  (∀ (s : State) (r : RegionId) (g : Sight) (is : List RowIssue) (es : List (Nat × Nat × Elem)) (fl : BitVec 5) (out : List Landed),
    let bumped : Region := { g.x with dutyIdx := g.x.dutyIdx + 1 }
    cycleSight s r = some g →
    (dutyBit g.x = false → exec (.emptyCycle r) s = .next (g.s.setRegion r bumped)) ∧
    (∀ f, dutyBit g.x = true → pinnedFifo g = some f →
      exec (.heldCycle r) s = .next (runFault g.s r (cycleFault 8 5 0 0 g.st f)) ∧
      exec (.advancingCycle r) s = .next (runFault g.s r (cycleFault 8 5 0 0 g.st f))) ∧
    (dutyBit g.x = true → pinnedFifo g = none → g.holds = true →
      exec (.heldCycle r) s = .next (g.s.setRegion r { bumped with heldNow := true }) ∧ exec (.advancingCycle r) s = .next s) ∧
    (dutyBit g.x = true → pinnedFifo g = none → g.holds = false → g.rows.find? (rowStarves g (fifoCount g g.rows)) = none →
      (∀ f, issueRows g g.rows = .error f → exec (.advancingCycle r) s = .next (runFault g.s r f)) ∧
      (∀ f, issueRows g g.rows = .ok is → endElems g is (stageElems g.x g.st) = .error f → exec (.advancingCycle r) s = .next (runFault g.s r f)) ∧
      (∀ k i, issueRows g g.rows = .ok is → endElems g is (stageElems g.x g.st) = .ok (es, fl, out) → firstTrap is = some (k, i) →
        exec (.advancingCycle r) s = .next (runFault g.s r (cycleFault 0x14 k i.row i.col g.st i.dst))) ∧
      (issueRows g g.rows = .ok is → endElems g is (stageElems g.x g.st) = .ok (es, fl, out) → firstTrap is = none →
        ∃ t z v st, exec (.advancingCycle r) s = .next t ∧ t.region r = some z ∧ z.run = some v ∧ v.cur = some st ∧
          z.dutyIdx = g.x.dutyIdx + 1 ∧ z.heldNow = false ∧ z.holdTicks = 0 ∧
          (g.st.c + 1 < g.st.ii → st.c = g.st.c + 1 ∧ st.j = g.st.j) ∧
          (g.st.ii ≤ g.st.c + 1 → st.c = 0 ∧ st.j = if g.st.j < g.st.total then g.st.j + 1 else g.st.j) ∧
          t.elems = (putElems g.r g.x g.s es).elems ∧ t.mem = g.s.mem ∧
          (let flags : BitVec 5 := is.foldl (fun a i => a ||| i.iss.flg) fl
            let y := consumePorts g.u (cycleFifos g.x is out) is
            let landed := landOut r g.u g.st (sclcAll r ((putElems r g.x g.s es).setRegion r { y with numflg := y.numflg ||| flags }) is) out
            let way := atWaypoint st = true ∧ g.st.c + 1 = g.st.ii ∧ g.st.j < g.st.total
            z.dec = y.dec ∧ z.zwords = y.zwords ∧ t.trks = landed.trks ∧
            (∀ y1, landed.region r = some y1 → z.enc = y1.enc ∧ z.numflg = y1.numflg ∧ z.rovf = y1.rovf) ∧
            (¬way → z.fifos = y.fifos ∧ z.shadows = g.x.shadows) ∧
            (way → z.fifos = (commitFifos st y).fifos ∧ ∃ h, tfind z.shadows g.u.act = some h ∧ h.stage.j = st.j ∧
              h.elems = g.x.coords.map (fun rc => (elemKey rc.1 rc.2, t.elem r g.x rc.1 rc.2)))))) ∧
    (∀ p ∈ g.rows, rowStarves g (fifoCount g g.rows) p = true → dutyBit g.x = true → pinnedFifo g = none → g.holds = false →
      ∃ p ∈ g.rows, rowStarves g (fifoCount g g.rows) p = true ∧ exec (.advancingCycle r) s = .next (runFault g.s r (cycleFault 8 4 p.row p.col g.st (rDst p.word))))) ∧
  (∀ (g : Sight) (p : PlacedWord) (a b c : Val),
    let (ra, rb, rc) := rowReads p.word
    let e := g.s.elem g.r g.x p.row p.col
    let x : ElemIn := { w := p.word, shape := (g.st.inst.block.shapes[rShp p.word]?).getD 0, j := g.st.j, a := if ra then a else {}, b := if rb then b else {},
                        c := if rc then c else {}, e := e, lastscl := fun n => (g.s.trk g.r.die g.r.tile n).lastscl,
                        sclc := fun n => (g.s.trk g.r.die g.r.tile n).scale.1 }
    (ra = true → readSrc g p.word p.row p.col (rSA p.word) = .ok a) → (rb = true → readSrc g p.word p.row p.col (rSB p.word) = .ok b) →
    (rc = true → readSrc g p.word p.row p.col (rSC p.word) = .ok c) →
    (∃ i, issueRow g p = .ok i ∧ i.row = p.row ∧ i.col = p.col ∧ i.dst = rDst p.word ∧ i.iss = elemExec x ∧
      ∀ f, f < 8 → (f ∈ i.pops ↔ 320 + f ∈ (if (elemExec x).peek then (if rb then [rSB p.word] else []) ++ (if rc then [rSC p.word] else []) else readFields p.word))) ∧
    (issueRows g [] = .ok []) ∧
    (∀ ps, ((elemExec x).ovfl = true → issueRows g (p :: ps) = .error (cycleFault 8 3 p.row p.col g.st (rDst p.word))) ∧
      (∀ i is, (elemExec x).ovfl = false → issueRow g p = .ok i → issueRows g ps = .ok is → issueRows g (p :: ps) = .ok (i :: is)) ∧
      (∀ i f, (elemExec x).ovfl = false → issueRow g p = .ok i → issueRows g ps = .error f → issueRows g (p :: ps) = .error f))) ∧
  (∀ (g : Sight) (p : PlacedWord) (ps : List PlacedWord) (k : Nat), issueRow g p = .error k →
    issueRows g (p :: ps) = .error (cycleFault 8 1 p.row p.col g.st k)) ∧
  (∀ (g : Sight) (w : RowWord) (i j : Nat), let e := g.s.elem g.r g.x i j
    let src (v : Nat) (z : Val) : Prop := readSrc g w i j v = .ok z
    let used (a b : Nat) : Prop := a < g.x.nrows ∧ b < g.x.ncols ∧ g.u.stages.any (fun st => occupied st a b) = true
    (∀ k, k < 2 → (∀ a, i = a + 1 → used a j → src k ((g.s.elem g.r g.x a j).latch k)) ∧ (used i (j + 1) → src (2 + k) ((g.s.elem g.r g.x i (j + 1)).latch k)) ∧
      (used (i + 1) j → src (4 + k) ((g.s.elem g.r g.x (i + 1) j).latch k)) ∧ (∀ b, j = b + 1 → used i b → src (6 + k) ((g.s.elem g.r g.x i b).latch k)) ∧
      (i = 0 ∨ ¬used (i - 1) j → src k {}) ∧ (¬used i (j + 1) → src (2 + k) {}) ∧ (¬used (i + 1) j → src (4 + k) {}) ∧
      (j = 0 → src (6 + k) (((portHead g i).map (·.w.v)).getD {})) ∧ src (384 + k) (e.latch k)) ∧
    (∀ k, k < 32 → (∀ c, tfind e.car ((k + g.st.j) % 32) = some c → src (64 + k) c.v) ∧
      (tfind e.car ((k + g.st.j) % 32) = none → readSrc g w i j (64 + k) = .error k)) ∧
    (∀ h k, h < 4 → k < 16 → src (128 + 16 * h + k) (tget (tget e.hair h {}).stages k {})) ∧
    (∀ k, k < 4 → src (256 + k) ⟨(e.getAcc k).zeroExtend 80, 0x7F⟩) ∧
    (∀ f, f < 8 → src (320 + f) (((g.x.fifo f).readable.head?).getD {}) ∧ src (328 + f) (((g.x.fifo f).readable.head?).getD {})) ∧
    src 192 ⟨BitVec.ofNat 80 (rConst w), 0x7F⟩ ∧ src 194 ⟨(BitVec.ofNat 32 (rConst w)).signExtend 80, 0x7F⟩ ∧ src 448 {} ∧ src 451 (e.anchorVal 0) ∧
    (∀ v f, (v = 193 ∧ f = fun _ : Nat => rConst w) ∨ (v = 449 ∧ f = fun l : Nat => l) ∨ (v = 450 ∧ f = fun _ : Nat => g.st.j) → ∃ z : Val, src v z ∧ z.sb = 0x7F ∧
      z.w.toNat < 2 ^ ([32, 16, 8, 4][rSplit w]! * [2, 5, 10, 20][rSplit w]!) ∧
      ∀ l, l < [2, 5, 10, 20][rSplit w]! → laneAt z [32, 16, 8, 4][rSplit w]! l = f l % 2 ^ [32, 16, 8, 4][rSplit w]!)) ∧
  (∀ (g : Sight) (is : List RowIssue) (row col : Nat),
    let e := g.s.elem g.r g.x row col
    let mine := is.find? (fun i => i.row == row && i.col == col)
    let fly := e.flight ++ ((mine.map (·.iss.out)).getD [])
    let due := (fly.filter (fun f => decide (f.left ≤ 1))).map (·.eff)
    let dests := due.flatMap effDests
    let alive (p : Nat) : Prop := ∃ c, tfind (ageCar e.car) p = some c
    let wrap := g.st.c + 1 = g.st.ii ∧ g.st.j < g.st.total
    ((∃ d, 2 ≤ dests.count d) ∨ (∃ d ∈ dests, d < 32 ∧ alive d) → ∃ d, endElem g is row col = .error (cycleFault 8 2 row col g.st d)) ∧
    ((∀ d, dests.count d ≤ 1) → (∀ d ∈ dests, d < 32 → ¬alive d) →
      let e1 : Elem := { e with car := ageCar e.car, rsr := (mine.map (·.iss.rsr)).getD e.rsr
                                flight := (fly.filter (fun f => decide (1 < f.left))).map (fun f => { f with left := f.left - 1 }) }
      ∀ e2 fl ovfl out, landAll col e1 due = (e2, fl, ovfl, out) →
        (∀ d, ovfl = some d → endElem g is row col = .error (cycleFault 8 3 row col g.st d)) ∧
        (ovfl = none → ∃ e3, endElem g is row col = .ok (e3, fl, out) ∧ e3.acc = e2.acc ∧ e3.anchor = e2.anchor ∧ e3.asc = e2.asc ∧ e3.o0 = e2.o0 ∧ e3.o1 = e2.o1 ∧
          e3.car = e2.car ∧ e3.rsr = e2.rsr ∧ e3.flight = e2.flight ∧ (¬wrap → e3.hair = e2.hair) ∧
          (wrap → ∀ h, h < 4 → let l := tget e2.hair h {}
            let m := tget e3.hair h {}
            let n := (g.st.inst.block.hplen[h]?).getD 1
            (shiftsLine g.u row col h = false → m = l) ∧
            (shiftsLine g.u row col h = true → m.input = l.input ∧ tget m.stages 0 {} = l.input ∧
              ∀ k, k + 1 < n → tget m.stages (k + 1) {} = tget l.stages k {}))))) ∧
  (∀ (e : Elem) (col : Nat),
    landAll col e [] = (e, 0, none, []) ∧
    (∀ f fs, landAll col e (f :: fs) = (let (e1, g1, o1, l1) := land e col f
      let (e2, g2, o2, l2) := landAll col e1 fs
      (e2, g1 ||| g2, o1 <|> o2, l1 ++ l2))) ∧
    (∀ (p l : Nat) (v : Val), let at_ (d : Nat) (e1 : Elem) (o : List Landed) : Prop := land e col (.write d p l v) = (e1, 0, none, o)
      (∀ d, d < 32 → at_ d { e with car := tset e.car p ⟨v, l⟩ } []) ∧ at_ 32 { e with o0 := v } [.port col v] ∧ at_ 33 { e with o1 := v } [] ∧
      (∀ h, h < 4 → at_ (34 + h) { e with hair := tset e.hair h { tget e.hair h {} with input := v } } []) ∧
      (∀ k, k < 4 → at_ (38 + k) { e with acc := tset e.acc k (v.w.truncate 32) } []) ∧ (∀ f, f < 8 → at_ (42 + f) e [.fifo f v]) ∧
      at_ 50 { e with anchor := tset e.anchor 0 v.w, asc := tset e.asc 0 v.sb } [] ∧ at_ 63 e []) ∧
    (∀ (m : Nat) (v : Val), let at_ (mode : Nat) (e1 : Elem) : Prop := land e col (.anch mode m v) = (e1, 0, none, [])
      at_ 0 (e.putAnchor m v) ∧
      (∃ e1, at_ 1 e1 ∧ e1.anchorVal 0 = v ∧ (∀ k, k < 3 → e1.anchorVal (k + 1) = e.anchorVal k) ∧ ({ e1 with anchor := e.anchor, asc := e.asc } : Elem) = e) ∧
      (∃ e1, at_ 2 e1 ∧ (∀ k, k < 4 → e1.anchorVal k = v) ∧ ({ e1 with anchor := e.anchor, asc := e.asc } : Elem) = e)) ∧
    (∀ p, tfind (ageCar e.car) p ≠ none → tfind e.car p ≠ none) ∧
    (∀ p c, (∀ z ∈ e.car, z.1 = p → z.2 = c) → tfind e.car p = some c → tfind (ageCar e.car) p = if 1 < c.life then some { c with life := c.life - 1 } else none)) ∧
  (∀ (x : Region) (is : List RowIssue) (out : List Landed) (f : Nat), f < 8 →
    let q := x.fifo f
    let news := out.filterMap (fun l => match l with
      | .fifo k v => if k = f then some v else none
      | _ => none)
    ((cycleFifos x is out).fifo f).entries = q.entries ++ news ∧
    ((cycleFifos x is out).fifo f).uncommitted = q.uncommitted + news.length ∧
    ((∃ i ∈ is, f ∈ i.pops) → ((cycleFifos x is out).fifo f).retained = q.retained + 1) ∧
    (¬(∃ i ∈ is, f ∈ i.pops) → ((cycleFifos x is out).fifo f).retained = q.retained)) ∧
  (∀ (s : State) (r : RegionId) (x : Region) (u : Run) (n : Nat) (k : Task), s.region r = some x → x.run = some u → s.taskOf r.strand = some n →
    s.task n = some k → (if recBits k.lrec 991 960 = 0 then 1000000 else recBits k.lrec 991 960) ≤ x.holdTicks → cycles s r x u = true →
    ∃ t, exec (.holdWatchdogExpiry r) s = .next t ∧ t.getTok r.strand u.tok.toNat = ⟨.error, 1⟩ ∧ ∃ z v f, t.region r = some z ∧ z.run = some v ∧
      v.fault = some f ∧ f.cls = 9 ∧ f.detail = 1) ∧
  (∀ (s : State) (r : RegionId) (x : Region) (n : Nat) (v : Half) (b : Bool), s.region r = some x → x.argPend = some (n, v, b) →
    s.halted r.strand = false →
    exec (.argumentUpdateDelivered r) s = .next (s.setRegion r { x with argPend := some (n, v, true) }) ∧
    argWaits { x with argPend := some (n, v, false) } = true ∧ argWaits { x with argPend := some (n, v, true) } = false ∧
    (∀ u, (applyArg { x with argPend := some (n, v, true) } u).1 = { x with argPend := none } ∧
      (applyArg { x with argPend := some (n, v, true) } u).2.stages.map (fun st => st.consts) = u.stages.map (fun st => tset st.consts n v)))

end Blocks

namespace Sys2Proof.Claims

open Sys2Proof.Machine

/-- A task that has left the scheduler (R332, R333): its last state, its completion, nothing held, its strands stopped. -/
def gone (s t : State) (n : Nat) (st : TaskSt) (fin : Nat × Nat) : Prop :=
  (∃ y, t.task n = some y ∧ y.st = st ∧ y.tiles = [] ∧ y.slices = [] ∧ y.halt = none ∧ y.saved = none ∧ y.finish = some fin) ∧
  ∀ d m k, d < 4 → m < 144 → k < 4 → (s.ctx (.strand d m k)).task = some n → (t.ctx (.strand d m k)).run = .off ∧ (t.ctx (.strand d m k)).task = none

end Sys2Proof.Claims

section Scheduling

open Sys2Proof Sys2Proof.Machine Sys2Proof.Claims

/-- R266, R303, R310, R314, R316, R332, R340: a package beat of a part that is on: the timed sends that are due are written and the REALIGNs whose
instant it is take effect, then each die's raw milepost rises by 1. Every eighth beat is a reference tick: each die's tick count rises by 1, its periods
count, a task that runs loses one tick of its estimate, a draining one of its budget, a halted one counts. No register changes, and no memory but what
a due send writes. A part that is off stands still. A die whose counters have not begun after power-on waits with them (log entry 16). -/
def Sys2Proof.Claims.ReferenceTick : Prop :=
  ∀ s : State, (s.power = .off → exec .schedulerTick s = .next s) ∧
    (s.power ≠ .off → ∃ t : State, exec .schedulerTick s = .next t ∧
      (let b := flushSends (alignDue (flushSends s)); t.mem = b.mem ∧ t.tiles = b.tiles) ∧
      ((∀ e ∈ s.tiles, dueSend s (e.1 / 144) (e.1 % 144) = none) → (∀ u m d ap, (s.ctx u).stall ≠ .realign m d ap false) →
        t.mem = s.mem ∧ t.tiles = s.tiles) ∧ t.gens = s.gens ∧ t.elems = s.elems ∧
      (∀ d, d < 4 → (t.die d).raw = (if (s.die d).rawLag = 0 then (s.die d).raw + 1 else (s.die d).raw) ∧ (t.die d).rawLag = (s.die d).rawLag - 1 ∧
        (t.die d).queues = (s.die d).queues) ∧
      (∀ u, (t.ctx u).s = (s.ctx u).s ∧ (t.ctx u).p = (s.ctx u).p ∧ (t.ctx u).pc = (s.ctx u).pc ∧ (t.ctx u).tok = (s.ctx u).tok ∧
        ((t.ctx u).stall = (s.ctx u).stall ∨ ∃ m d ap e, (s.ctx u).stall = .realign m d ap false ∧ (s.die e).raw = ap ∧
          (t.ctx u).stall = .realign m d ap true)) ∧
      (s.beat < 7 → t.beat = s.beat + 1 ∧ (∀ n k, s.task n = some k → ∃ y, t.task n = some y ∧ y = { k with mpoff := y.mpoff }) ∧
        ∀ d, d < 4 → (t.die d).tick = (s.die d).tick) ∧
      (7 ≤ s.beat → t.beat = 0 ∧
        (∀ d, d < 4 → (t.die d).tick = (if (s.die d).tickLag = 0 then (s.die d).tick + 1 else (s.die d).tick) ∧
          (t.die d).tickLag = (s.die d).tickLag - 1 ∧ (t.die d).sweepTicks = (s.die d).sweepTicks + 1 ∧
          (t.die d).halveTicks = (s.die d).halveTicks + 1) ∧
        ∀ n k, s.task n = some k → ∃ y, t.task n = some y ∧ y.st = k.st ∧ y.halt = k.halt ∧
          y.est = (if k.st = .running ∨ k.st = .draining then k.est - 1 else k.est) ∧ y.drainBudget = k.drainBudget - 1 ∧
          y.haltTicks = (if k.halt = none then k.haltTicks else k.haltTicks + 1)))

/-- R327-R331: admission of a fresh record that fits, on a placement that the placer prefers, or on its fixed tiles: a new task runs on those tiles and slices, and
each strand starts at ENTRY with s1 the argument, s2 the packed ranks, s29 its stack, its windows, and everything else zero. A record that
breaks a rule is rejected with STATUS 0x02: its completion is written and it leaves its queue. -/
def Sys2Proof.Claims.Admissions : Prop :=
  ∀ (s : State) (d q o : Nat) (r : BitVec 2048) (p : Placement),
    let s1 := noteReserve s d
    let F := recBits r
    d < 4 → s.power = .ready → queueOwner s d q = some o → firstQueue s d o = some q → queueHead s d q = some (.fresh r) →
    (rejectDetail s d (s.qmapEntry (64 * d + q)) r = none → admits s1 d q o = true → placementOk s1 d q o r p = true →
      lrFixed r = true ∨ preferred s1 d q o r p = true → F 255 192 = 0 →
      (∀ n, n < 4 → F (704 + 16 * n + 15) (704 + 16 * n) < 2 ^ 15) → ∃ t n k, exec (.admission d q p) s = .next t ∧ t.task n = some k ∧
        k.st = .running ∧ k.lrec = r ∧ k.owner = o ∧ k.die = d ∧ k.queue = q ∧ k.tiles = p.tiles ∧ k.slices = p.slices ∧ k.halt = none ∧
        ∀ i x j, p.tiles[i]? = some x → j < F 1108 1107 + 1 →
          let c := t.ctx (.strand x.1 x.2 j)
          c.run = .running ∧ c.task = some n ∧ c.pc = nat64 (F 63 0) ∧ c.getS 1 = nat64 (F 127 64) ∧
          c.getS 2 = nat64 (packLevels (lrLevels r) (i * (F 1108 1107 + 1) + j)) ∧ c.getS 29 = nat64 (F 831 768 + 0xF0000 + 0x4000 * (j + 1)) ∧
          (∀ m : SReg, m ≠ 1 → m ≠ 2 → m ≠ 29 → c.getS m = 0) ∧ c.apTile = nat64 (F 831 768 + 1) ∧ c.apDie = nat64 (F 959 896 + 1) ∧
          c.apClus = nat64 (F 895 832 + (if holdsCluster p.tiles x.1 x.2 then 1 else 0)) ∧
          c.loops = [] ∧ c.stall = .none ∧ c.fault = none ∧ (∀ m, (c.getTok m).st = .idle)) ∧
    (∀ det, rejectDetail s d (s.qmapEntry (64 * d + q)) r = some det →
      (F 447 384 = 0 → (s.queue d q).saved = [] → ∃ t : State, exec (.admission d q p) s = .next t ∧
        (t.queue d q).recs = (s.queue d q).recs.drop 1 ∧ t.tasks = s.tasks ∧ t.ctxs = s.ctxs ∧ t.mem = s.mem) ∧
      (∀ s2, F 447 384 ≠ 0 → (s.queue d q).saved = [] → funcBarred s (s.qmapEntry (64 * d + q)).func = false →
        writeGen s (deviceReq d o (headRecordNo d q)) (nat64 (F 447 384)) ([2#8, BitVec.ofNat 8 det, 0#8, 0#8] ++ List.replicate 4 0#8 ++ bytesOf 8 (s.die d).tick.toNat) =
          (s2, .ok ()) → ∃ t : State, exec (.admission d q p) s = .next t ∧ (t.queue d q).recs = (s.queue d q).recs.drop 1 ∧ t.mem = s2.mem))

/-- R332, R334, R335: what befalls a task that must leave. The victim of a pre-emption that the scheduler drains is DRAINING with its budget,
one that it saves is SAVING and halted, one that it kills KILLING and halted; a borrower that is recalled is saved or killed, and its lent tiles are
held for the owner that recalls them; DRAIN that has run
out of estimate and budget ends and is not chosen again; a save not complete at its deadline becomes a kill, but for a task that has met a
task-fatal fault, which ends FAULTED. -/
def Sys2Proof.Claims.PreemptionOutcomes : Prop :=
  ∀ (s : State) (d q o n : Nat) (k : Task) (r : BitVec 2048), s.task n = some k →
    let goes (i : Instr) (p : State → Task → Prop) : Prop := ∃ t y, exec i s = .next t ∧ t.task n = some y ∧ p t y ∧ t.ctxs = s.ctxs ∧ t.ops = s.ops
    let becomes (i : Instr) (p : Task → Prop) : Prop := goes i (fun t y => p y ∧ t.mem = s.mem)
    let ds := headDies s d q
    let held (t : State) : Prop := ∀ x ∈ k.tiles, x.1 ∈ ds → (s.tile x.1 x.2).lent = some o → (t.tile x.1 x.2).wanted = some o
    let saving (y : Task) : Prop := y.st = .saving ∧ y.halt ≠ none ∧ y.chargeTo = some o ∧ y.deadline = (s.die k.die).tick.toNat + 180000
    (queueOwner s d q = some o → headRecord s d q = some r → firstQueue s d o = some q → queueFits s d q o = false →
      victims s d q o r = some [(n, k)] →
      (victimOutcome s k = some .drain → becomes (.preemptionDecision d q) (fun y => y = { k with st := .draining, drainBudget := s.budget })) ∧
      (victimOutcome s k = some .checkpoint → goes (.preemptionDecision d q) (fun _ y => saving y ∧ y.recalled = false)) ∧
      (victimOutcome s k = some .kill → becomes (.preemptionDecision d q) (fun y => y.st = .killing ∧ y.halt ≠ none ∧ y.finish = some (3, 0) ∧
        y.chargeTo = some o))) ∧
    (firstQueue s d o = some q → queueFits s d q o = false → queueFits (without s (leaving s)) d q o = false →
      enoughVictims (fun ns => queueFits (without s ns) d q o) (leaving s) [] (borrowers s ds o) = some [(n, k)] →
      (lrPerm k.lrec 1 = true → goes (.recallStart d o) (fun t y => saving y ∧ y.recalled = true ∧ held t)) ∧
      (lrPerm k.lrec 1 = false → goes (.recallStart d o) (fun t y => y.st = .killing ∧ y.halt ≠ none ∧ y.finish = some (4, 1) ∧ held t))) ∧
    (k.st = .draining → k.est = 0 → k.drainBudget = 0 → exec (.drainExpiry n) s = .next (s.setTask n { k with st := .running, noDrain := true })) ∧
    (doomed s n k = true → exec (.saveDeadlineExpiry n) s = .next s) ∧
    (k.st = .saving → doomed s n k = false → k.deadline ≤ (s.die k.die).tick.toNat → becomes (.saveDeadlineExpiry n) (fun y => y.st = .killing ∧ y.halt ≠ none ∧
      y.finish = some (if k.recalled then (4, 2) else (3, 0))))

/-- R332, R333, R339, R343, R345: a task whose strands have halted and whose tokens are settled retires, one whose task-fatal fault is delivered
ends FAULTED with its class, a killed one ends once its agents have stopped, and PCTL KILL ends a halted one; each with its completion record, which
may first wait for its home.
A context that is written whole before the deadline makes its task SAVED, at the head of its queue; past the deadline the task is killed. PCTL
RESUME of a halted task whose agents have stopped and whose accesses are performed lets it go on. -/
def Sys2Proof.Claims.TaskEnds : Prop :=
  (∀ (s : State) (n : Nat) (k : Task), s.task n = some k →
    let leaves (i : Instr) (st : TaskSt) (status det : Nat) : Prop :=
      ((leave s n status det).2 = false → ∃ t : State, exec i s = .next t ∧ t.task n = some k ∧ t.mem = s.mem ∧ t.ctxs = s.ctxs) ∧
      ((leave s n status det).2 = true → ∃ t : State, exec i s = .next t ∧ gone s t n st (status, det) ∧
      (recBits k.lrec 447 384 = 0 → ¬ (1 ≤ k.vf ∧ k.vf ≤ 256) → t.mem = s.mem) ∧
      (¬ (1 ≤ k.vf ∧ k.vf ≤ 256) → recBits k.lrec 447 384 ≠ 0 → ∀ s1, writeGen s (deviceReq k.die k.owner (taskRecord n)) (nat64 (recBits k.lrec 447 384))
        ([BitVec.ofNat 8 status, BitVec.ofNat 8 det] ++ bytesOf 2 n ++ List.replicate 4 0#8 ++ bytesOf 8 (s.die k.die).tick.toNat) = (s1, .ok ()) →
        t.mem = s1.mem))
    (k.st = .running ∨ k.st = .draining → k.halt = none → retireReady s n = true → leaves (.taskRetire n) .retired 1 0) ∧
    (k.st = .running ∨ k.st = .draining ∨ k.st = .saving → k.halt ≠ none → faultedReady s n k = true →
      leaves (.taskRetire n) .faulted 5 (k.firstCls.getD 0)) ∧
    (k.st = .killing → k.resuming = false → allStopped s n = true → (k.finish.getD (3, 0)).1 = 3 ∨ (k.finish.getD (3, 0)).1 = 4 →
      leaves (.killComplete n) .killed (k.finish.getD (3, 0)).1 (k.finish.getD (3, 0)).2) ∧
    (saveReady s n k = true → k.deadline ≤ (s.die k.die).tick.toNat → ∃ t y, exec (.contextSaveComplete n) s = .next t ∧ t.task n = some y ∧
      y.st = .killing ∧ y.finish = some (if k.recalled then (4, 2) else (3, 0)) ∧ t.mem = s.mem) ∧
    (∀ s1, saveReady s n k = true → (s.die k.die).tick.toNat < k.deadline → saveWrites s n k (visiblesOf s k) = (s1, .ok ()) → ∃ t y, exec (.contextSaveComplete n) s = .next t ∧
      t.task n = some y ∧ y.st = .saved ∧ y.halt = none ∧ y.saved.isSome = true ∧ y.tiles = k.tiles ∧ y.slices = k.slices ∧
      (t.queue k.die k.queue).saved = n :: (s.queue k.die k.queue).saved ∧ (¬ (1 ≤ k.vf ∧ k.vf ≤ 256) → t.mem = s1.mem) ∧
      ∀ d m j, d < 4 → m < 144 → j < 4 → (s.ctx (.strand d m j)).task = some n → (t.ctx (.strand d m j)).run = .off)) ∧
  (∀ (s : State) (d c n : Nat) (g : Guard) (a : SReg) (k : Task), Issues s (.hub d c) g → s.task n = some k →
    let u := Agent.hub d c
    let v := (s.getS u a).toNat
    (∀ i, v / 2 ^ 16 % 2 ^ 16 = n → v % 4 = 1 → i = Instr.kwr g 0x501 a ∨ i = .pctlResume g a →
      (resumeObeyed k = false → exec i s = .next (s.retire u)) ∧
      (resumeObeyed k = true → allStopped s n = false ∨ accessesDone s n = false → exec i s = .next s) ∧
      (∀ s1, resumeObeyed k = true → allStopped s n = true → accessesDone s n = true → (∀ x ∈ k.tiles, x.1 = k.die) → ctxTry s k 6 [0#8] = some s1 →
        exec i s = .next ((resumeParts s1 n).retire u))) ∧
    (∀ i, v / 2 ^ 16 % 2 ^ 16 = n → v % 4 = 2 → i = Instr.kwr g 0x501 a ∨ i = .pctlKill g a →
      (k.halt = none → exec i s = .next (s.retire u)) ∧
      (k.halt ≠ none → k.st = .running ∨ k.st = .draining ∨ k.st = .saving →
        (k.resuming = true ∨ allStopped s n = false → exec i s = .next s) ∧
        (k.resuming = false → allStopped s n = true → (leave s n 5 (k.firstCls.getD 0)).2 = true → ∃ t : State, exec i s = .next (t.retire u) ∧
          gone s t n .faulted (5, k.firstCls.getD 0))))) ∧
  (∀ (s : State) (n : Nat) (k : Task), s.task n = some k → taskOps s n = [] → taskRegions s n = [] →
    (∀ u i, (s.ctx u).task = some n → ¬ (((s.ctx u).getSch i).st = .run ∧ ((s.ctx u).getSch i).count = 0)) →
    let t := resumeParts s n
    (∃ y, t.task n = some y ∧ y.halt = none ∧ y.st = k.st ∧ y.resuming = false ∧ y.stops = [] ∧ y.fast = k.fast ∧ y.slow = k.slow) ∧
    ∀ u, (s.ctx u).task = some n → t.ctx u = { s.ctx u with fault := none, stopped := false })

/-- R340-R344: after the halt line each agent of the partition stops once and writes a record of its fault: a strand keeps its registers and PC and
its unretired instruction is abandoned; an operation stops with its token. The record holds the class, detail, PC, address and tick of the fault, and
goes on the fast lane for a FATAL or HARDWARE status. An agent that has not stopped within the skid bound is frozen with WATCHDOG
detail 0x01; the fault that it had met is recorded first. -/
def Sys2Proof.Claims.HaltedAgents : Prop :=
  (∀ (s : State) (u : Agent) (n : Nat) (k : Task), s.taskOf u = some n → s.task n = some k → k.halt ≠ none →
    let c := s.ctx u
    (c.run = .running → c.stopped = false → slowFull k c.fault = false → writeRec s n k u none 0 c.fault true ≠ none → ∃ t y,
      exec (.agentStop (.strand u)) s = .next t ∧ t.task n = some y ∧ y.seq = k.seq + 1 ∧
      y.stops = tset k.stops (stopKey k u.die u.tile (16 * u.slot)) (stopRec s n k u none 0 c.fault) ∧
      (t.ctx u).stopped = true ∧ (t.ctx u).s = c.s ∧ (t.ctx u).p = c.p ∧ (t.ctx u).pc = c.pc ∧
      (c.fault = none → y.fast = k.fast ∧ y.slow = k.slow) ∧
      (∀ f i, c.fault = some f → fastLane f.cls f.detail = true → freeSlot k 0 32 = some i →
        y.fast = k.fast ++ [(i, stopRec s n k u none 0 (some f))] ∧ y.slow = k.slow) ∧
      (∀ f i, c.fault = some f → fastLane f.cls f.detail = false → freeSlot k 32 256 = some i →
        y.slow = k.slow ++ [(i, stopRec s n k u none 0 (some f))] ∧ y.fast = k.fast)) ∧
    (∀ t o, s.op u t = some o → o.kind ≠ .xform → o.stopped = false → o.fault = none → (s.getTok u t).st = .busy →
      writeRec s n k u (some t) (opSrc o.kind) none true ≠ none → ∃ s' : State, exec (.agentStop (.token u t)) s = .next s' ∧
        s'.op u t = some { o with stopped := true } ∧ s'.ctxs = s.ctxs) ∧
    (c.run = .running → c.stopped = false → c.frozen = false → slowFull k c.fault = false → skidBound s k ≤ k.haltTicks →
      ∃ t f, exec (.skidBoundExpiry (.strand u)) s = .next t ∧ (t.ctx u).frozen = true ∧ (t.ctx u).fault = some f ∧ f.cls = 0x15 ∧
        f.detail = 1 ∧ (c.fault = none → t.mem = s.mem ∧ t.task n = some k) ∧
        ∀ s1, c.fault ≠ none → writeRec s n k u none 0 c.fault false = some s1 → t.mem = s1.mem ∧ t.tasks = s1.tasks)) ∧
  (∀ (s : State) (n : Nat) (k : Task) (a : Agent) (tok : Option Nat) (src : Nat) (f : FaultInfo), f.cls < 256 → f.detail < 256 → src < 16 →
    (s.ctx a).ltile < 256 → a.die < 4 → a.slot < 4 → (∀ t, tok = some t → t < 8) →
    let r := (stopRec s n k a tok src (some f)).toNat
    r % 2 ^ 8 = f.cls ∧ r / 2 ^ 8 % 2 ^ 8 = f.detail ∧ r / 2 ^ 20 % 2 ^ 4 = src ∧ r / 2 ^ 24 % 2 ^ 8 = (s.ctx a).ltile ∧ r / 2 ^ 32 % 4 = a.die ∧
    r / 2 ^ 34 % 4 = a.slot ∧ r / 2 ^ 37 % 8 = tok.getD 0 ∧ r / 2 ^ 40 % 2 ^ 16 = n % 65536 ∧ r / 2 ^ 56 % 2 ^ 8 = k.seq.toNat ∧
    r / 2 ^ 64 % 2 ^ 64 = (s.ctx a).pc.toNat ∧ r / 2 ^ 128 % 2 ^ 64 = f.addr.toNat ∧ r / 2 ^ 192 % 2 ^ 64 = f.tick.toNat ∧
    r / 2 ^ 256 % 2 ^ 64 = f.info0.toNat ∧ r / 2 ^ 448 = f.info3.toNat)

end Scheduling

namespace Sys2Proof.Claims

open Sys2Proof.Machine

/-- The registers that an instruction which neither faults nor stalls writes: s registers, and predicates. None for every other
instruction. -/
def registerWrites : Instr → Option (List SReg × (PReg → Bool))
  | .nop _ | .yield _ | .fence .. | .br .. | .loopBrk _ => some ([], fun _ => false)
  | .add _ d .. | .sub _ d .. | .mul _ d .. | .mulh _ _ d .. | .div _ _ d .. | .rem _ _ d .. | .and _ d .. | .or _ d .. | .xor _ d ..
  | .andn _ d .. | .shl _ d .. | .shr _ d .. | .sar _ d .. | .rot _ d .. | .min _ _ d .. | .max _ _ d .. | .clz _ d _ | .ctz _ d _
  | .bcnt _ d _ | .sel _ d .. | .ixa _ _ d .. | .bfx _ _ d .. | .bfi _ d .. | .sext _ d .. | .zext _ d .. | .movi _ d _ | .movh _ d _
  | .pmovGet _ d | .tick _ d | .latq _ d .. | .latqNow _ d | .latqRaw _ d | .krd _ d _ => some ([d], fun _ => false)
  | .call .. => some ([30], fun _ => false)
  | .cmp _ _ _ d .. | .plog _ _ d .. | .pmovPred _ d _ | .ckpt _ d => some ([], (· == d))
  | .pmovSet _ _ m => some ([], fun r => m.getLsbD r.toNat)
  | _ => none

end Sys2Proof.Claims

section Frames

open Sys2Proof Sys2Proof.Machine Sys2Proof.Claims

/-- R249, R250, R252-R260, R263, R265, R272, R287, R303, R313: the frame of the instructions that only write registers. Of the whole state
only the issuing agent's context and its tile's note of the slot that issued change; of the context only the PC, the loop stack, the
destination, and the index register of a loop that the retirement steps; of the accesses that wait, only the answered probe of a former attempt of the
issuer's own instruction goes. Every byte of memory is unchanged. -/
def Obligations.RegisterOnlyFrame : Prop :=
  ∀ (s t : State) (i : Instr) (w : List SReg × (PReg → Bool)), registerWrites i = some w → exec i s = .next t →
    t = { s with ctxs := t.ctxs, tiles := t.tiles, pend := t.pend } ∧ t.pend.Sublist s.pend ∧
    (∀ p ∈ s.pend, p ∉ t.pend → p.kind = .probe none ∧ s.issuer = some p.agent) ∧ (∀ a, mget t.mem a = mget s.mem a) ∧
    (∀ d m, t.tile d m = { s.tile d m with last := (t.tile d m).last }) ∧
    ∀ v,
      let c := s.ctx v
      let c' := t.ctx v
      c' = { c with s := c'.s, p := c'.p, pc := c'.pc, loops := c'.loops } ∧
      (∀ u, s.issuer = some u → agentKey v ≠ agentKey u → c' = c) ∧
      (∀ r, r ∉ w.1 → (∀ l ∈ c.loops, l.xreg ≠ r) → c'.getS r = c.getS r) ∧
      (∀ r, w.2 r = false → c'.getP r = c.getP r)

/-- R249, R250, R339-R341: no instruction and no event stops the machine. Whatever the state, exec of each answers a next state: where
the spec raises a fault, the next state is the one in which it has been taken. -/
def Obligations.EveryInstructionAnswers : Prop :=
  ∀ (i : Instr) (s : State), ∃ t : State, exec i s = .next t

end Frames

section Together

open Sys2Proof Sys2Proof.Claims

/-- R252, R254, R255: the shifts, the counts of bits and the bit-field and constant instructions. -/
def Obligations.ShiftAndBitFieldResults : Prop := Claims.ShiftAndCountResults ∧ Claims.BitFieldResults

/-- R18, R24, R259, R260, R263, R264, R265, R266, R285, R332: what a word with a false guard does, the instructions that only advance the PC, and HALT, CKPT and EST. Choices of the model: log entry 9. -/
def Obligations.GuardsAndTaskControl : Prop := Claims.FailedGuardOnlyRetires ∧ Claims.NopYieldFence ∧ Claims.TaskControl

/-- R260: the loop-end step and the forms of LOOP. -/
def Obligations.Loops : Prop := Claims.LoopEndStep ∧ Claims.LoopForms

/-- R23, R259, R268: taken transfers, and indirect ones whose target is no multiple of 8. -/
def Obligations.Transfers : Prop := Claims.TakenTransfers ∧ Claims.MisalignedTransfersTrap

/-- R19, R24, R272, R273: the words that decode to no instruction, by their fault. -/
def Obligations.Rejections : Prop := Claims.OpcodeRejections ∧ Claims.ControlIndexChecks

/-- R251, R260, R267, R340, R341: taking a fault in a hub core and in a strand, and TRAP. -/
def Obligations.FaultsTaken : Prop := Claims.HubHandlerEntry ∧ Claims.StrandFaultHaltsPartition ∧ Claims.TrapTakesFault

/-- R262, R269: STOPR and ITNEXT. -/
def Obligations.RecordAndItineraryReads : Prop := Claims.StopRecordRead ∧ Claims.ItineraryNext

/-- R16, R22, R49, R50, R85, R87: loads, stores and their alignment. -/
def Obligations.LoadsAndStores : Prop := Claims.LoadResults ∧ Claims.StoreResults ∧ Claims.MisalignedAccessesTrap

/-- R4, R22, R49, R50, R76, R79, R85, R86, R87: memory reads back what was written, also through a TILE window. -/
def Obligations.TileWindowMemory : Prop := Claims.MemoryLaws ∧ Claims.TileWindowStoreLoad ∧ Claims.TileWindowAccesses

/-- R42, R47, R48, R49, R50, R51, R85, R86, R87, R88, R340, R344: prefetches, walks and accesses that wait for their home. -/
def Obligations.PrefetchAndWaiting : Prop := Claims.PrefetchAndWalks ∧ Claims.AccessesWait ∧ Claims.WaitingAccessPerforms

/-- R292, R293, R294, R295, R297, R299: a gear or spine change from its issue to its end. -/
def Obligations.GearChange : Prop := Claims.GearChangeIssue ∧ Claims.GearChangeSequence

/-- R290, R299, R300, R301, R302, R304, R306: votes, levels, package stalls, duty patterns and trim windows. -/
def Obligations.IslandsAndTrim : Prop := Claims.IslandVotes ∧ Claims.PackageStall ∧ Claims.TrimWindows

/-- R303, R310, R311, R312, R313, R314: the queries of time and REALIGN. -/
def Obligations.MilepostQueries : Prop := Claims.TimeQueries ∧ Claims.RealignMilepost

/-- R43, R44, R45, R46, R47: shootdowns, and the migration of a page. Choices of the model: log entry 120. -/
def Obligations.ShootdownAndMigration : Prop := Claims.Shootdowns ∧ Claims.PageMigration

/-- R240, R354, R356, R357, R378, R379, R380, R381, R383, R384, R385, R386: the mailbox, the interface commands, the configuration ports and the verification service. Choices of the model: log entries 47, 50, 52, 61. -/
def Obligations.SecurityServices : Prop := Claims.MailboxRequests ∧ Claims.InterfaceCommands ∧ Claims.ConfigurationPorts ∧ Claims.VerifyService

/-- R131, R132, R133, R134, R138: what the instructions of a pattern program compute, where they go and what they emit. -/
def Obligations.PatternPrograms : Prop := Claims.PatternArithmetic ∧ Claims.PatternControl ∧ Claims.PatternEmitters

/-- R136, R139: GLOAD, GSAVE and GREST. -/
def Obligations.GeneratorLoadAndSave : Prop := Claims.GeneratorLoad ∧ Claims.GeneratorImages

/-- R131, R134, R137, R138, R140: runs of a generator and how they end. Choices of the model: log entries 116, 118. -/
def Obligations.GeneratorRunResults : Prop := Claims.GeneratorRuns ∧ Claims.GeneratorRunEnds

/-- R89, R91, R92, R95, R96, R99: the issue and the performance of block copies. Choices of the model: log entries 24, 25, 129, 130. -/
def Obligations.Copies : Prop := Claims.CopyIssue ∧ Claims.CopyPerforms

/-- R101, R102, R103, R104, R105, R107, R108, R109, R329: copy schedules and collectives. Choices of the model: log entries 108, 109, 130. -/
def Obligations.SchedulesAndCollectives : Prop := Claims.CopySchedules ∧ Claims.Collectives

/-- R113, R114, R115, R117, R118, R119, R173: stream registers, their reads and flags, and the FEED and DRAIN streams. Choices of the model: log entries 26, 28, 116. -/
def Obligations.Streams : Prop := Claims.StreamBinding ∧ Claims.StreamReads ∧ Claims.StreamControl ∧ Claims.StreamTransfers

/-- R116, R120, R121, R122, R123, R124, R125, R126, R127: the issue of MERGE, ROUTE, HACC and HFLUSH, and the end of their operations. Choices of the model: log entries 31, 116, 140. -/
def Obligations.IrregularEngine : Prop := Claims.IrregularIssue ∧ Claims.IrregularResults

/-- R122, R123, R124, R125, R126: what MERGE, ROUTE and HACC compute. -/
def Obligations.IrregularAlgorithms : Prop := Claims.MergeOfSortedLists ∧ Claims.RouteDispatch ∧ Claims.HashUpdates

/-- R100, R168, R240, R241, R244, R245, R246, R247, R330, R340: block loads, runs, their control, and the re-forming of regions. Choices of the model: log entry 127. -/
def Obligations.BlockInstructions : Prop := Claims.BlockLoads ∧ Claims.BlockRuns ∧ Claims.BlockControl ∧ Claims.RegionReform

/-- R27, R143, R144, R150, R156, R161, R162, R163, R164, R165, R166, R167, R168, R169, R171, R172, R186, R188, R189, R230, R237, R241, R243, R284: what a cycle and a step of a run do. Choices of the model: log entry 113. -/
def Obligations.FabricEvents : Prop := Claims.RunSteps ∧ Claims.FabricCycles

/-- R36, R52, R53, R54, R55, R57, R58, R60, R62, R64, R65, R66, R67, R158, R180, R181, R182, R183, R184, R185, R186, R188, R190, R192, R193, R194, R195, R196, R197, R199, R200, R201, R202, R203, R204, R205, R206, R207, R208, R210, R211, R212, R213, R214, R215, R216, R219, R220, R221, R222, R223, R224, R225, R226, R227, R228, R229, R230: what each element operation computes, with the number formats that it uses. -/
def Obligations.ElementOperations : Prop := Claims.NumberFormats ∧ Claims.ElementMoves ∧ Claims.ElementIntegers ∧ Claims.ElementFloats ∧ Claims.ElementConversions ∧ Claims.DotProducts

/-- R266, R303, R310, R314, R316, R327, R328, R329, R330, R331, R332, R334, R335, R340: the reference tick, admission, pre-emption and recall. Choices of the model: log entry 16. -/
def Obligations.Scheduling : Prop := Claims.ReferenceTick ∧ Claims.Admissions ∧ Claims.PreemptionOutcomes

/-- R332, R333, R339, R340, R341, R342, R343, R344, R345: halts, stop records, the skid bound, and how tasks end. -/
def Obligations.HaltsAndEnds : Prop := Claims.TaskEnds ∧ Claims.HaltedAgents

end Together
end

