-- ==== Sys2Proof/Laws/Encoding.lean ====
section
/-! SUPPORT. Fields and words: taking a word apart gives the fields that it was put together from, and the other way round. -/

namespace Sys2Proof

/-- The fields of a strand word built from fields are those fields. -/
@[simp] theorem strandFields_word (f : StrandFields) : strandFields f.word = f := by
  obtain ⟨opc, pg, pn, d, a, b, fn, imm⟩ := f
  unfold strandFields StrandFields.word
  congr 1 <;>
  · apply BitVec.eq_of_getLsbD_eq
    intro i hi
    simp only [BitVec.getLsbD_extractLsb', BitVec.getLsbD_append, hi, decide_true, Bool.true_and]
    repeat' split
    all_goals first | omega | (congr 1; omega)

/-- The fields of a pattern word built from fields are those fields. -/
@[simp] theorem patternFields_word (f : PatternFields) : patternFields f.word = f := by
  obtain ⟨op, d, a, b, imm⟩ := f
  unfold patternFields PatternFields.word
  congr 1 <;>
  · apply BitVec.eq_of_getLsbD_eq
    intro i hi
    simp only [BitVec.getLsbD_extractLsb', BitVec.getLsbD_append, hi, decide_true, Bool.true_and]
    repeat' split
    all_goals first | omega | (congr 1; omega)

/-! ### Bits of a word put together from parts -/

/-- Bits that lie in the high part. -/
theorem extract_high {n m : Nat} (a : BitVec n) (b : BitVec m) (k l : Nat) (h : m ≤ k) :
    (a ++ b).extractLsb' k l = a.extractLsb' (k - m) l := by
  apply BitVec.eq_of_getLsbD_eq
  intro i hi
  simp only [BitVec.getLsbD_extractLsb', BitVec.getLsbD_append, hi, decide_true, Bool.true_and]
  rw [if_neg (by omega)]
  congr 1
  omega

/-- Bits that lie in the low part. -/
theorem extract_low {n m : Nat} (a : BitVec n) (b : BitVec m) (k l : Nat) (h : k + l ≤ m) :
    (a ++ b).extractLsb' k l = b.extractLsb' k l := by
  apply BitVec.eq_of_getLsbD_eq
  intro i hi
  simp only [BitVec.getLsbD_extractLsb', BitVec.getLsbD_append, hi, decide_true, Bool.true_and]
  rw [if_pos (by omega)]

@[simp] theorem extract_all {n : Nat} (a : BitVec n) : a.extractLsb' 0 n = a := by
  apply BitVec.eq_of_getLsbD_eq
  intro i hi
  simp [hi]

@[simp] theorem low3_r8 (x : BitVec 3) : low3 (Enc.r8 x) = x := by unfold low3 Enc.r8; rw [extract_low _ _ _ _ (by omega)]; simp
@[simp] theorem low4_r16 (x : BitVec 4) : low4 (Enc.r16 x) = x := by unfold low4 Enc.r16; rw [extract_low _ _ _ _ (by omega)]; simp
@[simp] theorem low2_r4 (x : BitVec 2) : low2 (Enc.r4 x) = x := by unfold low2 Enc.r4; rw [extract_low _ _ _ _ (by omega)]; simp
@[simp] theorem high8_r8 (x : BitVec 3) : high8 (Enc.r8 x) = false := by revert x; decide
@[simp] theorem high16_r16 (x : BitVec 4) : high16 (Enc.r16 x) = false := by revert x; decide
@[simp] theorem high4_r4 (x : BitVec 2) : high4 (Enc.r4 x) = false := by revert x; decide
@[simp] theorem bit_getLsbD (x : Bool) : (Enc.bit x).getLsbD 0 = x := by cases x <;> rfl

/-- The guard of a word's fields is the guard that they were made from (R18). -/
@[simp] theorem guard_of (opc : BitVec 7) (g : Guard) (d a b : BitVec 5) (fn : BitVec 6) (imm : BitVec 32) :
    StrandFields.guard ⟨opc, g.pg, if g.pn = true then 1#1 else 0#1, d, a, b, fn, imm⟩ = g := by
  obtain ⟨pg, pn⟩ := g
  cases pn <;> rfl

/-- Past the opcode checks, decoding is by opcode (R19). -/
theorem decodeStrand_word (hub : Bool) (f : StrandFields) (ha : opcAssigned f.opc.toNat = true)
    (hh : (opcHub f.opc.toNat && !hub) = false) (ht : (opcTile f.opc.toNat && hub) = false) :
    decodeStrand hub f.word = decodeByOpc hub f := by
  simp [decodeStrand, ha, hh, ht]

/-! ### Decoding by opcode (R24) -/

theorem decode_00 (hub : Bool) (f : StrandFields) (h : f.opc = 0x00#7) : decodeByOpc hub f =
    decodeBare f .nop := by
  cases f; cases h; rfl

theorem decode_01 (hub : Bool) (f : StrandFields) (h : f.opc = 0x01#7) : decodeByOpc hub f =
    decodeAlu f .add := by
  cases f; cases h; rfl

theorem decode_02 (hub : Bool) (f : StrandFields) (h : f.opc = 0x02#7) : decodeByOpc hub f =
    decodeAlu f .sub := by
  cases f; cases h; rfl

theorem decode_03 (hub : Bool) (f : StrandFields) (h : f.opc = 0x03#7) : decodeByOpc hub f =
    decodeAlu f .mul := by
  cases f; cases h; rfl

theorem decode_04 (hub : Bool) (f : StrandFields) (h : f.opc = 0x04#7) : decodeByOpc hub f =
    decodeAluS f .mulh := by
  cases f; cases h; rfl

theorem decode_05 (hub : Bool) (f : StrandFields) (h : f.opc = 0x05#7) : decodeByOpc hub f =
    decodeAluS f .div := by
  cases f; cases h; rfl

theorem decode_06 (hub : Bool) (f : StrandFields) (h : f.opc = 0x06#7) : decodeByOpc hub f =
    decodeAluS f .rem := by
  cases f; cases h; rfl

theorem decode_07 (hub : Bool) (f : StrandFields) (h : f.opc = 0x07#7) : decodeByOpc hub f =
    decodeAlu f .and := by
  cases f; cases h; rfl

theorem decode_08 (hub : Bool) (f : StrandFields) (h : f.opc = 0x08#7) : decodeByOpc hub f =
    decodeAlu f .or := by
  cases f; cases h; rfl

theorem decode_09 (hub : Bool) (f : StrandFields) (h : f.opc = 0x09#7) : decodeByOpc hub f =
    decodeAlu f .xor := by
  cases f; cases h; rfl

theorem decode_0A (hub : Bool) (f : StrandFields) (h : f.opc = 0x0A#7) : decodeByOpc hub f =
    decodeAlu f .andn := by
  cases f; cases h; rfl

theorem decode_0B (hub : Bool) (f : StrandFields) (h : f.opc = 0x0B#7) : decodeByOpc hub f =
    decodeAlu f .shl := by
  cases f; cases h; rfl

theorem decode_0C (hub : Bool) (f : StrandFields) (h : f.opc = 0x0C#7) : decodeByOpc hub f =
    decodeAlu f .shr := by
  cases f; cases h; rfl

theorem decode_0D (hub : Bool) (f : StrandFields) (h : f.opc = 0x0D#7) : decodeByOpc hub f =
    decodeAlu f .sar := by
  cases f; cases h; rfl

theorem decode_0E (hub : Bool) (f : StrandFields) (h : f.opc = 0x0E#7) : decodeByOpc hub f =
    decodeAlu f .rot := by
  cases f; cases h; rfl

theorem decode_0F (hub : Bool) (f : StrandFields) (h : f.opc = 0x0F#7) : decodeByOpc hub f =
    decodeAluS f .min := by
  cases f; cases h; rfl

theorem decode_10 (hub : Bool) (f : StrandFields) (h : f.opc = 0x10#7) : decodeByOpc hub f =
    decodeAluS f .max := by
  cases f; cases h; rfl

theorem decode_11 (hub : Bool) (f : StrandFields) (h : f.opc = 0x11#7) : decodeByOpc hub f =
    decodeUnary f .clz := by
  cases f; cases h; rfl

theorem decode_12 (hub : Bool) (f : StrandFields) (h : f.opc = 0x12#7) : decodeByOpc hub f =
    decodeUnary f .ctz := by
  cases f; cases h; rfl

theorem decode_13 (hub : Bool) (f : StrandFields) (h : f.opc = 0x13#7) : decodeByOpc hub f =
    decodeUnary f .bcnt := by
  cases f; cases h; rfl

theorem decode_14 (hub : Bool) (f : StrandFields) (h : f.opc = 0x14#7) : decodeByOpc hub f =
    decodeChecks (f.b != 0 || f.fn.extractLsb' 1 5 != 0 || f.imm.extractLsb' 13 19 != 0) false
      (!bitFieldWf (f.imm.extractLsb' 0 6) (f.imm.extractLsb' 6 7))
      (.bfx f.guard f.fn0 f.d f.a (f.imm.extractLsb' 0 6) (f.imm.extractLsb' 6 7)) := by
  cases f; cases h; rfl

theorem decode_15 (hub : Bool) (f : StrandFields) (h : f.opc = 0x15#7) : decodeByOpc hub f =
    decodeChecks (f.b != 0 || f.fn != 0 || f.imm.extractLsb' 13 19 != 0) false
      (!bitFieldWf (f.imm.extractLsb' 0 6) (f.imm.extractLsb' 6 7))
      (.bfi f.guard f.d f.a (f.imm.extractLsb' 0 6) (f.imm.extractLsb' 6 7)) := by
  cases f; cases h; rfl

theorem decode_16 (hub : Bool) (f : StrandFields) (h : f.opc = 0x16#7) : decodeByOpc hub f =
    decodeChecks (f.b != 0 || f.fn != 0 || f.imm.extractLsb' 7 25 != 0) false
      (!(1 ≤ (f.imm.extractLsb' 0 7).toNat && (f.imm.extractLsb' 0 7).toNat ≤ 64)) (.sext f.guard f.d f.a (f.imm.extractLsb' 0 7)) := by
  cases f; cases h; rfl

theorem decode_17 (hub : Bool) (f : StrandFields) (h : f.opc = 0x17#7) : decodeByOpc hub f =
    decodeChecks (f.b != 0 || f.fn != 0 || f.imm.extractLsb' 7 25 != 0) false
      (!(1 ≤ (f.imm.extractLsb' 0 7).toNat && (f.imm.extractLsb' 0 7).toNat ≤ 64)) (.zext f.guard f.d f.a (f.imm.extractLsb' 0 7)) := by
  cases f; cases h; rfl

theorem decode_18 (hub : Bool) (f : StrandFields) (h : f.opc = 0x18#7) : decodeByOpc hub f =
    decodeChecks (f.a != 0 || f.b != 0 || f.fn != 0) false false (.movi f.guard f.d f.imm) := by
  cases f; cases h; rfl

theorem decode_19 (hub : Bool) (f : StrandFields) (h : f.opc = 0x19#7) : decodeByOpc hub f =
    decodeChecks (f.a != 0 || f.b != 0 || f.fn != 0) false false (.movh f.guard f.d f.imm) := by
  cases f; cases h; rfl

theorem decode_1A (hub : Bool) (f : StrandFields) (h : f.opc = 0x1A#7) : decodeByOpc hub f =
    decodeChecks (f.imm.extractLsb' 0 27 != 0) false (f.fn != 0)
      (.sel f.guard f.d f.a f.b (f.imm.extractLsb' 27 5)) := by
  cases f; cases h; rfl

theorem decode_1B (hub : Bool) (f : StrandFields) (h : f.opc = 0x1B#7) : decodeByOpc hub f =
    decodeChecks f.srsiReserved false (f.fn.extractLsb' 3 2 != 0) (.ixa f.guard (f.fn.extractLsb' 0 3) f.d f.a f.src) := by
  cases f; cases h; rfl

theorem decode_20 (hub : Bool) (f : StrandFields) (h : f.opc = 0x20#7) : decodeByOpc hub f =
    decodeChecks f.srsiReserved (high8 f.d)
      (f.fn.getLsbD 4 || !decide ((f.fn.extractLsb' 1 3).toNat ≤ 5)) (.cmp f.guard (f.fn.extractLsb' 1 3) f.fn0 (low3 f.d) f.a f.src) := by
  cases f; cases h; rfl

theorem decode_21 (hub : Bool) (f : StrandFields) (h : f.opc = 0x21#7) : decodeByOpc hub f =
    decodeChecks (f.fn.extractLsb' 3 3 != 0 || f.imm != 0) (high8 f.d || high8 f.a || high8 f.b) false
      (.plog f.guard (f.fn.extractLsb' 0 3) (low3 f.d) (low3 f.a) (low3 f.b)) := by
  cases f; cases h; rfl

theorem decode_22 (hub : Bool) (f : StrandFields) (h : f.opc = 0x22#7) : decodeByOpc hub f =
    decodePmov f := by
  cases f; cases h; rfl

theorem decode_28 (hub : Bool) (f : StrandFields) (h : f.opc = 0x28#7) : decodeByOpc hub f =
    decodeChecks (f.d != 0 || f.a != 0 || f.b != 0 || f.fn != 0) false false (.br f.guard f.imm) := by
  cases f; cases h; rfl

theorem decode_29 (hub : Bool) (f : StrandFields) (h : f.opc = 0x29#7) : decodeByOpc hub f =
    decodeChecks (f.d != 0 || f.b != 0 || f.fn.extractLsb' 1 5 != 0 || f.imm != 0) false false (.brx f.guard f.fn0 f.a) := by
  cases f; cases h; rfl

theorem decode_2A (hub : Bool) (f : StrandFields) (h : f.opc = 0x2A#7) : decodeByOpc hub f =
    decodeChecks (f.d != 0 || f.a != 0 || f.b != 0 || f.fn != 0) false false (.call f.guard f.imm) := by
  cases f; cases h; rfl

theorem decode_2B (hub : Bool) (f : StrandFields) (h : f.opc = 0x2B#7) : decodeByOpc hub f =
    decodeChecks (f.d != 0 || f.b != 0 || f.fn != 0 || f.imm != 0) false false (.ret f.guard f.a) := by
  cases f; cases h; rfl

theorem decode_2C (hub : Bool) (f : StrandFields) (h : f.opc = 0x2C#7) : decodeByOpc hub f =
    decodeLoop f := by
  cases f; cases h; rfl

theorem decode_2D (hub : Bool) (f : StrandFields) (h : f.opc = 0x2D#7) : decodeByOpc hub f =
    decodeChecks (f.a != 0 || f.fn != 0 || f.imm != 0) (high8 f.b) false (.itnext f.guard f.d (low3 f.b)) := by
  cases f; cases h; rfl

theorem decode_2E (hub : Bool) (f : StrandFields) (h : f.opc = 0x2E#7) : decodeByOpc hub f =
    decodeBare f .yield := by
  cases f; cases h; rfl

theorem decode_2F (hub : Bool) (f : StrandFields) (h : f.opc = 0x2F#7) : decodeByOpc hub f =
    decodeBare f .halt := by
  cases f; cases h; rfl

theorem decode_30 (hub : Bool) (f : StrandFields) (h : f.opc = 0x30#7) : decodeByOpc hub f =
    decodeMem f false .ld := by
  cases f; cases h; rfl

theorem decode_31 (hub : Bool) (f : StrandFields) (h : f.opc = 0x31#7) : decodeByOpc hub f =
    decodeMem f false .st := by
  cases f; cases h; rfl

theorem decode_32 (hub : Bool) (f : StrandFields) (h : f.opc = 0x32#7) : decodeByOpc hub f =
    decodeMem f true .ld2 := by
  cases f; cases h; rfl

theorem decode_33 (hub : Bool) (f : StrandFields) (h : f.opc = 0x33#7) : decodeByOpc hub f =
    decodeMem f true .st2 := by
  cases f; cases h; rfl

theorem decode_34 (hub : Bool) (f : StrandFields) (h : f.opc = 0x34#7) : decodeByOpc hub f =
    decodeChecks false false (!(f.smOpt.wfAtomic && aopWf f.smOpt.size (f.imm.extractLsb' 25 4)))
      (.atom f.guard f.smOpt (f.imm.extractLsb' 25 4) f.d f.a f.b (f.imm.extractLsb' 0 25)) := by
  cases f; cases h; rfl

theorem decode_35 (hub : Bool) (f : StrandFields) (h : f.opc = 0x35#7) : decodeByOpc hub f =
    decodeChecks false false (!f.smOpt.wfAtomic) (.cas f.guard f.smOpt f.d f.a f.b f.off) := by
  cases f; cases h; rfl

theorem decode_36 (hub : Bool) (f : StrandFields) (h : f.opc = 0x36#7) : decodeByOpc hub f =
    decodeChecks (f.d != 0 || f.fn.extractLsb' 2 2 != 0 || f.scope != 0) false (f.fn.getLsbD 1)
      (.pref f.guard (f.fn.extractLsb' 4 2) f.fn0 f.a f.b f.off) := by
  cases f; cases h; rfl

theorem decode_37 (hub : Bool) (f : StrandFields) (h : f.opc = 0x37#7) : decodeByOpc hub f =
    decodeApcv f := by
  cases f; cases h; rfl

theorem decode_38 (hub : Bool) (f : StrandFields) (h : f.opc = 0x38#7) : decodeByOpc hub f =
    decodeChecks (f.b != 0 || f.fn.extractLsb' 2 4 != 0 || f.imm != 0) (high8 f.d) false
      (.apin f.guard (f.fn.extractLsb' 0 2) (low3 f.d) f.a) := by
  cases f; cases h; rfl

theorem decode_39 (hub : Bool) (f : StrandFields) (h : f.opc = 0x39#7) : decodeByOpc hub f =
    decodeChecks (f.d != 0 || f.a != 0 || f.b != 0 || f.fn.extractLsb' 4 2 != 0 || f.off != 0) false
      (!((f.fn.getLsbD 3 || f.fn.getLsbD 2) && (f.fn.getLsbD 1 || f.fn.getLsbD 0) && f.scope != 7))
      (.fence f.guard (f.fn.getLsbD 3) (f.fn.getLsbD 2) (f.fn.getLsbD 1) (f.fn.getLsbD 0) f.scope) := by
  cases f; cases h; rfl

theorem decode_3A (hub : Bool) (f : StrandFields) (h : f.opc = 0x3A#7) : decodeByOpc hub f =
    decodeMeet hub f := by
  cases f; cases h; rfl

theorem decode_3B (hub : Bool) (f : StrandFields) (h : f.opc = 0x3B#7) : decodeByOpc hub f =
    decodeChecks (f.a != 0 || f.b != 0 || f.fn.extractLsb' 1 5 != 0 || f.imm.extractLsb' 8 24 != 0) (high8 f.d) false
      (.wait f.guard f.fn0 (low3 f.d) (f.imm.extractLsb' 0 8)) := by
  cases f; cases h; rfl

theorem decode_3C (hub : Bool) (f : StrandFields) (h : f.opc = 0x3C#7) : decodeByOpc hub f =
    decodeTokq f := by
  cases f; cases h; rfl

theorem decode_40 (hub : Bool) (f : StrandFields) (h : f.opc = 0x40#7) : decodeByOpc hub f =
    decodeTokOff f .cpy := by
  cases f; cases h; rfl

theorem decode_41 (hub : Bool) (f : StrandFields) (h : f.opc = 0x41#7) : decodeByOpc hub f =
    decodeChecks (f.b != 0 || f.fn != 0 || f.scope != 0) (high8 f.d) false (.cpys f.guard (low3 f.d) f.a f.off) := by
  cases f; cases h; rfl

theorem decode_42 (hub : Bool) (f : StrandFields) (h : f.opc = 0x42#7) : decodeByOpc hub f =
    decodeChecks (f.a != 0 || f.b != 0 || f.fn != 0 || f.imm.extractLsb' 8 24 != 0) (high8 f.d)
      (f.imm.extractLsb' 0 8 == 0) (.stage f.guard (low3 f.d) (f.imm.extractLsb' 0 8)) := by
  cases f; cases h; rfl

theorem decode_43 (hub : Bool) (f : StrandFields) (h : f.opc = 0x43#7) : decodeByOpc hub f =
    decodeTokOff f .cpyx := by
  cases f; cases h; rfl

theorem decode_44 (hub : Bool) (f : StrandFields) (h : f.opc = 0x44#7) : decodeByOpc hub f =
    decodeTokOff f .coll := by
  cases f; cases h; rfl

theorem decode_48 (hub : Bool) (f : StrandFields) (h : f.opc = 0x48#7) : decodeByOpc hub f =
    decodeChecks (f.b != 0 || f.fn != 0 || f.scope != 0) (high16 f.d) false (.qset f.guard (low4 f.d) f.a f.off) := by
  cases f; cases h; rfl

theorem decode_49 (hub : Bool) (f : StrandFields) (h : f.opc = 0x49#7) : decodeByOpc hub f =
    decodeQind f := by
  cases f; cases h; rfl

theorem decode_4A (hub : Bool) (f : StrandFields) (h : f.opc = 0x4A#7) : decodeByOpc hub f =
    decodeChecks (f.b != 0 || f.fn.extractLsb' 1 5 != 0 || f.imm != 0) (high16 f.a) false (.qrd f.guard f.fn0 f.d (low4 f.a)) := by
  cases f; cases h; rfl

theorem decode_4B (hub : Bool) (f : StrandFields) (h : f.opc = 0x4B#7) : decodeByOpc hub f =
    decodeQpos f := by
  cases f; cases h; rfl

theorem decode_4C (hub : Bool) (f : StrandFields) (h : f.opc = 0x4C#7) : decodeByOpc hub f =
    decodeChecks (f.b != 0 || f.fn != 0 || f.imm.extractLsb' 3 29 != 0) (high8 f.d || high16 f.a)
      (f.imm.extractLsb' 0 3 == 7) (.qflag f.guard (low3 f.d) (low4 f.a) (f.imm.extractLsb' 0 3)) := by
  cases f; cases h; rfl

theorem decode_4D (hub : Bool) (f : StrandFields) (h : f.opc = 0x4D#7) : decodeByOpc hub f =
    decodeChecks (f.d != 0 || f.b != 0 || f.fn.extractLsb' 1 5 != 0 || f.imm != 0) (high16 f.a) false
      (.qclr f.guard f.fn0 (low4 f.a)) := by
  cases f; cases h; rfl

theorem decode_50 (hub : Bool) (f : StrandFields) (h : f.opc = 0x50#7) : decodeByOpc hub f =
    decodeChecks (f.b != 0) (high8 f.d) (!(decide ((f.fn.extractLsb' 0 3).toNat ≤ 4) && engScopeWf f.scope))
      (.merge f.guard (f.fn.extractLsb' 0 3) (f.fn.getLsbD 3) (f.fn.getLsbD 4) (f.fn.getLsbD 5) f.scope (low3 f.d) f.a f.off) := by
  cases f; cases h; rfl

theorem decode_51 (hub : Bool) (f : StrandFields) (h : f.opc = 0x51#7) : decodeByOpc hub f =
    decodeChecks (f.b != 0 || f.fn != 0) (high8 f.d) (!engScopeWf f.scope) (.route f.guard f.scope (low3 f.d) f.a f.off) := by
  cases f; cases h; rfl

theorem decode_52 (hub : Bool) (f : StrandFields) (h : f.opc = 0x52#7) : decodeByOpc hub f =
    decodeChecks (f.b != 0 || f.fn.extractLsb' 3 3 != 0) (high8 f.d) (!engScopeWf f.scope)
      (.hacc f.guard (f.fn.extractLsb' 0 2) (f.fn.getLsbD 2) f.scope (low3 f.d) f.a f.off) := by
  cases f; cases h; rfl

theorem decode_53 (hub : Bool) (f : StrandFields) (h : f.opc = 0x53#7) : decodeByOpc hub f =
    decodeChecks (f.b != 0 || f.fn.extractLsb' 1 5 != 0) (high8 f.d) (!engScopeWf f.scope)
      (.hflush f.guard f.fn0 f.scope (low3 f.d) f.a f.off) := by
  cases f; cases h; rfl

theorem decode_58 (hub : Bool) (f : StrandFields) (h : f.opc = 0x58#7) : decodeByOpc hub f =
    decodeGenOff f .gload := by
  cases f; cases h; rfl

theorem decode_59 (hub : Bool) (f : StrandFields) (h : f.opc = 0x59#7) : decodeByOpc hub f =
    decodeGrun f := by
  cases f; cases h; rfl

theorem decode_5A (hub : Bool) (f : StrandFields) (h : f.opc = 0x5A#7) : decodeByOpc hub f =
    decodeChecks (f.fn != 0 || f.imm.extractLsb' 21 8 != 0) (high4 f.d)
      (!(engScopeWf f.scope && decide (1 ≤ (f.imm.extractLsb' 3 18).toNat) && decide ((f.imm.extractLsb' 3 18).toNat ≤ 131072)))
      (.ginv f.guard f.scope (low2 f.d) f.b f.a (f.imm.extractLsb' 3 18) (f.imm.extractLsb' 0 3)) := by
  cases f; cases h; rfl

theorem decode_5B (hub : Bool) (f : StrandFields) (h : f.opc = 0x5B#7) : decodeByOpc hub f =
    decodeGenOff f .gsave := by
  cases f; cases h; rfl

theorem decode_5C (hub : Bool) (f : StrandFields) (h : f.opc = 0x5C#7) : decodeByOpc hub f =
    decodeGenOff f .grest := by
  cases f; cases h; rfl

theorem decode_60 (hub : Bool) (f : StrandFields) (h : f.opc = 0x60#7) : decodeByOpc hub f =
    decodeChecks (f.b != 0 || f.fn != 0 || f.scope != 0) (high4 f.d) false (.bload f.guard (low2 f.d) f.a f.off) := by
  cases f; cases h; rfl

theorem decode_61 (hub : Bool) (f : StrandFields) (h : f.opc = 0x61#7) : decodeByOpc hub f =
    decodeChecks (f.a != 0 || f.b != 0 || f.fn != 0 || f.imm.extractLsb' 2 27 != 0) (high8 f.d)
      (!engScopeWf f.scope) (.brun f.guard f.scope (low3 f.d) (f.imm.extractLsb' 0 2)) := by
  cases f; cases h; rfl

theorem decode_62 (hub : Bool) (f : StrandFields) (h : f.opc = 0x62#7) : decodeByOpc hub f =
    decodeChecks (f.d != 0 || f.a != 0 || f.fn != 0 || f.imm.extractLsb' 6 26 != 0) false false
      (.barg f.guard (f.imm.extractLsb' 0 6) f.b) := by
  cases f; cases h; rfl

theorem decode_63 (hub : Bool) (f : StrandFields) (h : f.opc = 0x63#7) : decodeByOpc hub f =
    decodeBare f .bdrain := by
  cases f; cases h; rfl

theorem decode_64 (hub : Bool) (f : StrandFields) (h : f.opc = 0x64#7) : decodeByOpc hub f =
    decodeChecks (f.a != 0 || f.b != 0 || f.fn != 0 || f.imm.extractLsb' 2 30 != 0) false
      (f.imm.extractLsb' 0 2 == 3) (.bstat f.guard f.d (f.imm.extractLsb' 0 2)) := by
  cases f; cases h; rfl

theorem decode_65 (hub : Bool) (f : StrandFields) (h : f.opc = 0x65#7) : decodeByOpc hub f =
    decodeBare f .bkill := by
  cases f; cases h; rfl

theorem decode_66 (hub : Bool) (f : StrandFields) (h : f.opc = 0x66#7) : decodeByOpc hub f =
    decodeChecks (f.a != 0 || f.b != 0 || f.fn != 0 || f.imm.extractLsb' 4 25 != 0) (high8 f.d)
      (!(engScopeWf f.scope && twoBits (f.imm.extractLsb' 0 4))) (.bswap f.guard f.scope (low3 f.d) (f.imm.extractLsb' 0 4)) := by
  cases f; cases h; rfl

theorem decode_67 (hub : Bool) (f : StrandFields) (h : f.opc = 0x67#7) : decodeByOpc hub f =
    decodeChecks (f.d != 0 || f.a != 0 || f.b != 0 || f.fn != 0 || f.imm.extractLsb' 12 20 != 0) false false
      (.reform f.guard (f.imm.extractLsb' 8 4) (f.imm.extractLsb' 0 8)) := by
  cases f; cases h; rfl

theorem decode_68 (hub : Bool) (f : StrandFields) (h : f.opc = 0x68#7) : decodeByOpc hub f =
    decodeChecks (f.d != 0 || f.a != 0 || f.b != 0 || f.fn != 0 || f.imm.getLsbD 3 || f.imm.extractLsb' 5 27 != 0)
      false false (.gear f.guard (f.imm.getLsbD 4) (f.imm.extractLsb' 0 3)) := by
  cases f; cases h; rfl

theorem decode_69 (hub : Bool) (f : StrandFields) (h : f.opc = 0x69#7) : decodeByOpc hub f =
    decodeChecks (f.d != 0 || f.a != 0 || f.b != 0 || f.fn != 0 || f.imm.extractLsb' 3 29 != 0) false false
      (.spine f.guard (f.imm.extractLsb' 0 3)) := by
  cases f; cases h; rfl

theorem decode_6A (hub : Bool) (f : StrandFields) (h : f.opc = 0x6A#7) : decodeByOpc hub f =
    if f.fn0 then decodeChecks (f.a != 0 || f.b != 0 || f.fn.extractLsb' 1 5 != 0 || f.imm != 0) false false (.rvoteOff f.guard f.d)
      else decodeChecks (f.a != 0 || f.b != 0 || f.fn.extractLsb' 1 5 != 0 || f.imm.extractLsb' 3 29 != 0) false false
      (.rvote f.guard f.d (f.imm.extractLsb' 0 3)) := by
  cases f; cases h; rfl

theorem decode_6B (hub : Bool) (f : StrandFields) (h : f.opc = 0x6B#7) : decodeByOpc hub f =
    decodeDest f .tick := by
  cases f; cases h; rfl

theorem decode_6C (hub : Bool) (f : StrandFields) (h : f.opc = 0x6C#7) : decodeByOpc hub f =
    decodeChecks (f.b != 0 || f.fn != 0 || f.imm != 0) false false (.realign f.guard f.d f.a) := by
  cases f; cases h; rfl

theorem decode_6D (hub : Bool) (f : StrandFields) (h : f.opc = 0x6D#7) : decodeByOpc hub f =
    decodeChecks (f.b != 0 || f.fn != 0) (high8 f.d) (!engScopeWf f.scope) (.tsend f.guard f.scope (low3 f.d) f.a f.off) := by
  cases f; cases h; rfl

theorem decode_6E (hub : Bool) (f : StrandFields) (h : f.opc = 0x6E#7) : decodeByOpc hub f =
    decodeLatq f := by
  cases f; cases h; rfl

theorem decode_70 (hub : Bool) (f : StrandFields) (h : f.opc = 0x70#7) : decodeByOpc hub f =
    (decodeChecks (f.a != 0 || f.b != 0 || f.fn != 0 || f.imm.extractLsb' 12 20 != 0) false false
      (.krd f.guard f.d (f.imm.extractLsb' 0 12))).bind (decodeKindex hub (f.imm.extractLsb' 0 12)) := by
  cases f; cases h; rfl

theorem decode_71 (hub : Bool) (f : StrandFields) (h : f.opc = 0x71#7) : decodeByOpc hub f =
    (decodeChecks (f.d != 0 || f.b != 0 || f.fn != 0 || f.imm.extractLsb' 12 20 != 0) false false
      (.kwr f.guard (f.imm.extractLsb' 0 12) f.a)).bind (decodeKindex hub (f.imm.extractLsb' 0 12)) := by
  cases f; cases h; rfl

theorem decode_72 (hub : Bool) (f : StrandFields) (h : f.opc = 0x72#7) : decodeByOpc hub f =
    decodeChecks (f.d != 0 || f.a != 0 || f.b != 0 || f.fn != 0 || f.imm.extractLsb' 8 24 != 0) false false
      (.trap f.guard (f.imm.extractLsb' 0 8)) := by
  cases f; cases h; rfl

theorem decode_73 (hub : Bool) (f : StrandFields) (h : f.opc = 0x73#7) : decodeByOpc hub f =
    decodeBare f .tret := by
  cases f; cases h; rfl

theorem decode_74 (hub : Bool) (f : StrandFields) (h : f.opc = 0x74#7) : decodeByOpc hub f =
    decodeChecks (f.a != 0 || f.b != 0 || f.fn != 0 || f.imm != 0) (high8 f.d) false (.ckpt f.guard (low3 f.d)) := by
  cases f; cases h; rfl

theorem decode_75 (hub : Bool) (f : StrandFields) (h : f.opc = 0x75#7) : decodeByOpc hub f =
    decodeChecks (f.d != 0 || f.b != 0 || f.fn != 0 || f.imm != 0) false false (.est f.guard f.a) := by
  cases f; cases h; rfl

theorem decode_76 (hub : Bool) (f : StrandFields) (h : f.opc = 0x76#7) : decodeByOpc hub f =
    decodeChecks (f.b != 0 || f.fn != 0 || f.scope != 0) false false (.stopr f.guard f.d f.a f.off) := by
  cases f; cases h; rfl

theorem decode_77 (hub : Bool) (f : StrandFields) (h : f.opc = 0x77#7) : decodeByOpc hub f =
    decodeChecks (f.d != 0 || f.b != 0 || f.fn != 0 || f.imm != 0) false false (.idle f.guard f.a) := by
  cases f; cases h; rfl

end Sys2Proof
end

