-- ==== Sys2Proof/Laws/Tables.lean ====
section
/-! SUPPORT. The laws of tables (read after write) and of the byte memory (read after write, the canonical form). -/

namespace Sys2Proof.Machine

variable {α : Type}

/-! ## Tables -/

@[simp] theorem tfind_nil (k : Nat) : tfind ([] : Tab α) k = none := rfl
@[simp] theorem tget_nil (k : Nat) (d : α) : tget ([] : Tab α) k d = d := rfl

theorem tfind_tdel_same (t : Tab α) (k : Nat) : tfind (tdel t k) k = none := by
  induction t with
  | nil => rfl
  | cons e t ih =>
    obtain ⟨j, v⟩ := e
    by_cases h : j = k <;> simp [tdel, tfind, h, ih]

theorem tfind_tdel_other (t : Tab α) {j k : Nat} (h : k ≠ j) : tfind (tdel t j) k = tfind t k := by
  induction t with
  | nil => rfl
  | cons e t ih =>
    obtain ⟨i, v⟩ := e
    by_cases hi : i = j
    · have hk : i ≠ k := fun e => h (e ▸ hi)
      simp [tdel, tfind, hi, ih, (hi ▸ hk : j ≠ k)]
    · by_cases hk : i = k
      · subst hk; simp [tdel, tfind, hi]
      · simp [tdel, tfind, hi, hk, ih]

theorem tfind_tins_same (t : Tab α) (k : Nat) (v : α) (h : tfind t k = none) : tfind (tins t k v) k = some v := by
  induction t with
  | nil => simp [tins, tfind]
  | cons e t ih =>
    obtain ⟨j, w⟩ := e
    by_cases hj : j = k
    · simp [tfind, hj] at h
    · simp [tfind, hj] at h
      by_cases hl : j < k <;> simp [tins, tfind, hl, hj, ih h]

theorem tfind_tins_other (t : Tab α) {j k : Nat} (v : α) (h : k ≠ j) : tfind (tins t j v) k = tfind t k := by
  induction t with
  | nil => simp [tins, tfind, Ne.symm h]
  | cons e t ih =>
    obtain ⟨i, w⟩ := e
    by_cases hl : i < j
    · simp [tins, tfind, hl, ih]
    · simp [tins, tfind, hl, Ne.symm h]

/-- A table reads what was written. -/
@[simp] theorem tfind_tset_same (t : Tab α) (k : Nat) (v : α) : tfind (tset t k v) k = some v :=
  tfind_tins_same _ _ _ (tfind_tdel_same t k)

/-- A write leaves every other unit alone. -/
theorem tfind_tset_other (t : Tab α) {j k : Nat} (v : α) (h : k ≠ j) : tfind (tset t j v) k = tfind t k := by
  rw [tset, tfind_tins_other _ _ h, tfind_tdel_other _ h]

@[simp] theorem tget_tset_same (t : Tab α) (k : Nat) (v d : α) : tget (tset t k v) k d = v := by simp [tget]

theorem tget_tset_other (t : Tab α) {j k : Nat} (v d : α) (h : k ≠ j) : tget (tset t j v) k d = tget t k d := by
  simp [tget, tfind_tset_other _ _ h]

theorem tdel_tins_same (t : Tab α) (k : Nat) (v : α) : tdel (tins t k v) k = tdel t k := by
  induction t with
  | nil => simp [tins, tdel]
  | cons e t ih =>
    obtain ⟨j, w⟩ := e
    by_cases hl : j < k
    · have : j ≠ k := Nat.ne_of_lt hl
      simp [tins, tdel, hl, this, ih]
    · simp [tins, tdel, hl]

theorem tdel_tdel_same (t : Tab α) (k : Nat) : tdel (tdel t k) k = tdel t k := by
  induction t with
  | nil => rfl
  | cons e t ih =>
    obtain ⟨j, w⟩ := e
    by_cases hj : j = k <;> simp [tdel, hj, ih]

/-- The last write to a unit counts. -/
@[simp] theorem tset_tset_same (t : Tab α) (k : Nat) (v w : α) : tset (tset t k v) k w = tset t k w := by
  simp [tset, tdel_tins_same, tdel_tdel_same]

/-! ## The byte memory -/

theorem memWfFrom_mono {lo lo' : Nat} (h : lo' ≤ lo) {m : Memory} (hm : memWfFrom lo m = true) : memWfFrom lo' m = true := by
  cases m with
  | nil => rfl
  | cons c m =>
    obtain ⟨a, b⟩ := c
    simp only [memWfFrom, Bool.and_eq_true, decide_eq_true_eq] at hm ⊢
    exact ⟨⟨Nat.le_trans h hm.1.1, hm.1.2⟩, hm.2⟩

theorem memWfFrom_tdel {lo : Nat} (m : Memory) (a : Nat) (h : memWfFrom lo m = true) : memWfFrom lo (tdel m a) = true := by
  induction m generalizing lo with
  | nil => rfl
  | cons c m ih =>
    obtain ⟨x, b⟩ := c
    simp only [memWfFrom, Bool.and_eq_true, decide_eq_true_eq] at h
    by_cases hx : x = a
    · simpa [tdel, hx] using memWfFrom_mono (by omega) (ih h.2)
    · simp [tdel, hx, memWfFrom, h.1.1, ih h.2]
      simpa using h.1.2

theorem memWfFrom_tins {lo : Nat} (m : Memory) {a : Nat} {b : Byte} (hb : b ≠ 0) (hlo : lo ≤ a)
    (ha : tfind m a = none) (h : memWfFrom lo m = true) : memWfFrom lo (tins m a b) = true := by
  induction m generalizing lo with
  | nil => simpa [tins, memWfFrom, hlo] using hb
  | cons c m ih =>
    obtain ⟨x, y⟩ := c
    simp only [memWfFrom, Bool.and_eq_true, decide_eq_true_eq] at h
    by_cases hx : x = a
    · simp [tfind, hx] at ha
    · simp [tfind, hx] at ha
      by_cases hl : x < a
      · simp only [tins, hl, if_true, memWfFrom, Bool.and_eq_true, decide_eq_true_eq]
        exact ⟨h.1, ih hl ha h.2⟩
      · simp only [tins, hl, if_false, memWfFrom, Bool.and_eq_true, decide_eq_true_eq]
        exact ⟨⟨hlo, by simpa using hb⟩, ⟨by omega, h.1.2⟩, h.2⟩

/-- A write of one byte keeps the canonical form. -/
theorem wf_mset {m : Memory} (h : m.wf = true) (a : Nat) (b : Byte) : (mset m a b).wf = true := by
  unfold mset tput
  split
  · exact memWfFrom_tdel m a h
  · next hb => exact memWfFrom_tins _ hb (Nat.zero_le _) (tfind_tdel_same m a) (memWfFrom_tdel m a h)

/-- A write of bytes keeps the canonical form. -/
theorem wf_mwrite {m : Memory} (h : m.wf = true) (a : Nat) (bs : List Byte) : (mwrite m a bs).wf = true := by
  induction bs generalizing m a with
  | nil => exact h
  | cons b bs ih => exact ih (wf_mset h a b) (a + 1)

theorem memWfFrom_filter {lo : Nat} (m : Memory) (p : Host.Cell → Bool) (h : memWfFrom lo m = true) :
    memWfFrom lo (m.filter p) = true := by
  induction m generalizing lo with
  | nil => rfl
  | cons c m ih =>
    obtain ⟨x, b⟩ := c
    simp only [memWfFrom, Bool.and_eq_true, decide_eq_true_eq] at h
    by_cases hp : p (x, b) = true
    · simp only [List.filter, hp, memWfFrom, Bool.and_eq_true, decide_eq_true_eq]
      exact ⟨h.1, ih h.2⟩
    · simp only [List.filter, hp]
      exact memWfFrom_mono (by omega) (ih h.2)

/-- Zeroing a range keeps the canonical form. -/
theorem wf_mclear {m : Memory} (h : m.wf = true) (lo hi : Nat) : (mclear m lo hi).wf = true := memWfFrom_filter m _ h

/-- A byte reads as it was written. -/
@[simp] theorem mget_mset_same (m : Memory) (a : Nat) (b : Byte) : mget (mset m a b) a = b := by
  unfold mget mset tput
  split
  · next h => simp [tget, tfind_tdel_same, h]
  · simp

/-- A write of one byte leaves every other byte alone. -/
theorem mget_mset_other (m : Memory) {a c : Nat} (b : Byte) (h : c ≠ a) : mget (mset m a b) c = mget m c := by
  unfold mget mset tput
  split
  · simp [tget, tfind_tdel_other _ h]
  · exact tget_tset_other _ _ _ h

/-- A write of bytes leaves every byte outside them alone. -/
theorem mget_mwrite_other (m : Memory) {a c : Nat} (bs : List Byte) (h : c < a ∨ a + bs.length ≤ c) :
    mget (mwrite m a bs) c = mget m c := by
  induction bs generalizing m a with
  | nil => rfl
  | cons b bs ih =>
    simp only [List.length_cons] at h
    rw [mwrite, ih _ (by omega), mget_mset_other _ _ (by omega)]

/-- A write of bytes is read back byte by byte. -/
theorem mget_mwrite_in (m : Memory) (a : Nat) (bs : List Byte) {i : Nat} (h : i < bs.length) :
    mget (mwrite m a bs) (a + i) = bs[i] := by
  induction bs generalizing m a i with
  | nil => simp at h
  | cons b bs ih =>
    cases i with
    | zero => rw [mwrite, Nat.add_zero, mget_mwrite_other _ _ (by omega)]; simp
    | succ n =>
      have := ih (mset m a b) (a + 1) (i := n) (by simpa using h)
      rw [mwrite, show a + (n + 1) = a + 1 + n by omega, this]; rfl

/-- Bytes read as they were written. -/
theorem mread_mwrite (m : Memory) (a : Nat) (bs : List Byte) : mread (mwrite m a bs) a bs.length = bs := by
  induction bs generalizing m a with
  | nil => rfl
  | cons b bs ih =>
    rw [mwrite, List.length_cons, mread, ih, mget_mwrite_other _ _ (by omega)]; simp

theorem mget_mclear (m : Memory) (lo hi c : Nat) : mget (mclear m lo hi) c = if lo ≤ c ∧ c < hi then 0 else mget m c := by
  unfold mget mclear tget
  induction m with
  | nil => simp
  | cons e m ih =>
    obtain ⟨a, b⟩ := e
    by_cases hp : (a < lo || hi ≤ a) = true
    · simp only [List.filter, hp, tfind]
      by_cases ha : a = c
      · subst ha
        have : ¬ (lo ≤ a ∧ a < hi) := by simp at hp; omega
        simp [this]
      · simpa [ha] using ih
    · simp only [List.filter, hp, tfind]
      by_cases ha : a = c
      · subst ha
        have hin : lo ≤ a ∧ a < hi := by simp at hp; omega
        rw [ih]; simp [hin]
      · simpa [ha] using ih

end Sys2Proof.Machine
end

