-- ==== Sys2Proof/Laws/State.lean ====
section
/-! SUPPORT. Each update of State, field by field: what it leaves as it was (by rfl), what a read after it gives, and what the
derived updates are. -/

namespace Sys2Proof.Machine
namespace State

variable (s : State)

/-! ## setCtx -/

@[simp] theorem setCtx_mem (a : Agent) (c : Ctx) : (s.setCtx a c).mem = s.mem := rfl
@[simp] theorem setCtx_poison (a : Agent) (c : Ctx) : (s.setCtx a c).poison = s.poison := rfl
@[simp] theorem setCtx_trimPoison (a : Agent) (c : Ctx) : (s.setCtx a c).trimPoison = s.trimPoison := rfl
@[simp] theorem setCtx_ops (a : Agent) (c : Ctx) : (s.setCtx a c).ops = s.ops := rfl
@[simp] theorem setCtx_opSeq (a : Agent) (c : Ctx) : (s.setCtx a c).opSeq = s.opSeq := rfl
@[simp] theorem setCtx_regions (a : Agent) (c : Ctx) : (s.setCtx a c).regions = s.regions := rfl
@[simp] theorem setCtx_elems (a : Agent) (c : Ctx) : (s.setCtx a c).elems = s.elems := rfl
@[simp] theorem setCtx_tiles (a : Agent) (c : Ctx) : (s.setCtx a c).tiles = s.tiles := rfl
@[simp] theorem setCtx_gens (a : Agent) (c : Ctx) : (s.setCtx a c).gens = s.gens := rfl
@[simp] theorem setCtx_trks (a : Agent) (c : Ctx) : (s.setCtx a c).trks = s.trks := rfl
@[simp] theorem setCtx_dies (a : Agent) (c : Ctx) : (s.setCtx a c).dies = s.dies := rfl
@[simp] theorem setCtx_tasks (a : Agent) (c : Ctx) : (s.setCtx a c).tasks = s.tasks := rfl
@[simp] theorem setCtx_pend (a : Agent) (c : Ctx) : (s.setCtx a c).pend = s.pend := rfl
@[simp] theorem setCtx_homeRecs (a : Agent) (c : Ctx) : (s.setCtx a c).homeRecs = s.homeRecs := rfl
@[simp] theorem setCtx_homeOut (a : Agent) (c : Ctx) : (s.setCtx a c).homeOut = s.homeOut := rfl
@[simp] theorem setCtx_homeHeld (a : Agent) (c : Ctx) : (s.setCtx a c).homeHeld = s.homeHeld := rfl
@[simp] theorem setCtx_arrivals (a : Agent) (c : Ctx) : (s.setCtx a c).arrivals = s.arrivals := rfl
@[simp] theorem setCtx_locks (a : Agent) (c : Ctx) : (s.setCtx a c).locks = s.locks := rfl
@[simp] theorem setCtx_migs (a : Agent) (c : Ctx) : (s.setCtx a c).migs = s.migs := rfl
@[simp] theorem setCtx_pools (a : Agent) (c : Ctx) : (s.setCtx a c).pools = s.pools := rfl
@[simp] theorem setCtx_access (a : Agent) (c : Ctx) : (s.setCtx a c).access = s.access := rfl
@[simp] theorem setCtx_pkg (a : Agent) (c : Ctx) : (s.setCtx a c).pkg = s.pkg := rfl
@[simp] theorem setCtx_sptab (a : Agent) (c : Ctx) : (s.setCtx a c).sptab = s.sptab := rfl
@[simp] theorem setCtx_shake (a : Agent) (c : Ctx) : (s.setCtx a c).shake = s.shake := rfl
@[simp] theorem setCtx_owners (a : Agent) (c : Ctx) : (s.setCtx a c).owners = s.owners := rfl
@[simp] theorem setCtx_qmap (a : Agent) (c : Ctx) : (s.setCtx a c).qmap = s.qmap := rfl
@[simp] theorem setCtx_mgbase (a : Agent) (c : Ctx) : (s.setCtx a c).mgbase = s.mgbase := rfl
@[simp] theorem setCtx_budget (a : Agent) (c : Ctx) : (s.setCtx a c).budget = s.budget := rfl
@[simp] theorem setCtx_tolls (a : Agent) (c : Ctx) : (s.setCtx a c).tolls = s.tolls := rfl
@[simp] theorem setCtx_vfs (a : Agent) (c : Ctx) : (s.setCtx a c).vfs = s.vfs := rfl
@[simp] theorem setCtx_ide (a : Agent) (c : Ctx) : (s.setCtx a c).ide = s.ide := rfl
@[simp] theorem setCtx_sriov (a : Agent) (c : Ctx) : (s.setCtx a c).sriov = s.sriov := rfl
@[simp] theorem setCtx_vfcfg (a : Agent) (c : Ctx) : (s.setCtx a c).vfcfg = s.vfcfg := rfl
@[simp] theorem setCtx_doe (a : Agent) (c : Ctx) : (s.setCtx a c).doe = s.doe := rfl
@[simp] theorem setCtx_hubMpoff (a : Agent) (c : Ctx) : (s.setCtx a c).hubMpoff = s.hubMpoff := rfl
@[simp] theorem setCtx_hubBars (a : Agent) (c : Ctx) : (s.setCtx a c).hubBars = s.hubBars := rfl
@[simp] theorem setCtx_power (a : Agent) (c : Ctx) : (s.setCtx a c).power = s.power := rfl
@[simp] theorem setCtx_hostOut (a : Agent) (c : Ctx) : (s.setCtx a c).hostOut = s.hostOut := rfl
@[simp] theorem setCtx_mapped (a : Agent) (c : Ctx) : (s.setCtx a c).mapped = s.mapped := rfl
@[simp] theorem setCtx_moves (a : Agent) (c : Ctx) : (s.setCtx a c).moves = s.moves := rfl
@[simp] theorem setCtx_cur (a : Agent) (c : Ctx) : (s.setCtx a c).cur = s.cur := rfl
@[simp] theorem setCtx_free (a : Agent) (c : Ctx) : (s.setCtx a c).free = s.free := rfl
@[simp] theorem setCtx_beat (a : Agent) (c : Ctx) : (s.setCtx a c).beat = s.beat := rfl

/-! ## setOp -/

@[simp] theorem setOp_mem (a : Agent) (t : Nat) (o : EngOp) : (s.setOp a t o).mem = s.mem := rfl
@[simp] theorem setOp_poison (a : Agent) (t : Nat) (o : EngOp) : (s.setOp a t o).poison = s.poison := rfl
@[simp] theorem setOp_trimPoison (a : Agent) (t : Nat) (o : EngOp) : (s.setOp a t o).trimPoison = s.trimPoison := rfl
@[simp] theorem setOp_ctxs (a : Agent) (t : Nat) (o : EngOp) : (s.setOp a t o).ctxs = s.ctxs := rfl
@[simp] theorem setOp_opSeq (a : Agent) (t : Nat) (o : EngOp) : (s.setOp a t o).opSeq = s.opSeq := rfl
@[simp] theorem setOp_regions (a : Agent) (t : Nat) (o : EngOp) : (s.setOp a t o).regions = s.regions := rfl
@[simp] theorem setOp_elems (a : Agent) (t : Nat) (o : EngOp) : (s.setOp a t o).elems = s.elems := rfl
@[simp] theorem setOp_tiles (a : Agent) (t : Nat) (o : EngOp) : (s.setOp a t o).tiles = s.tiles := rfl
@[simp] theorem setOp_gens (a : Agent) (t : Nat) (o : EngOp) : (s.setOp a t o).gens = s.gens := rfl
@[simp] theorem setOp_trks (a : Agent) (t : Nat) (o : EngOp) : (s.setOp a t o).trks = s.trks := rfl
@[simp] theorem setOp_dies (a : Agent) (t : Nat) (o : EngOp) : (s.setOp a t o).dies = s.dies := rfl
@[simp] theorem setOp_tasks (a : Agent) (t : Nat) (o : EngOp) : (s.setOp a t o).tasks = s.tasks := rfl
@[simp] theorem setOp_pend (a : Agent) (t : Nat) (o : EngOp) : (s.setOp a t o).pend = s.pend := rfl
@[simp] theorem setOp_homeRecs (a : Agent) (t : Nat) (o : EngOp) : (s.setOp a t o).homeRecs = s.homeRecs := rfl
@[simp] theorem setOp_homeOut (a : Agent) (t : Nat) (o : EngOp) : (s.setOp a t o).homeOut = s.homeOut := rfl
@[simp] theorem setOp_homeHeld (a : Agent) (t : Nat) (o : EngOp) : (s.setOp a t o).homeHeld = s.homeHeld := rfl
@[simp] theorem setOp_arrivals (a : Agent) (t : Nat) (o : EngOp) : (s.setOp a t o).arrivals = s.arrivals := rfl
@[simp] theorem setOp_locks (a : Agent) (t : Nat) (o : EngOp) : (s.setOp a t o).locks = s.locks := rfl
@[simp] theorem setOp_migs (a : Agent) (t : Nat) (o : EngOp) : (s.setOp a t o).migs = s.migs := rfl
@[simp] theorem setOp_pools (a : Agent) (t : Nat) (o : EngOp) : (s.setOp a t o).pools = s.pools := rfl
@[simp] theorem setOp_access (a : Agent) (t : Nat) (o : EngOp) : (s.setOp a t o).access = s.access := rfl
@[simp] theorem setOp_pkg (a : Agent) (t : Nat) (o : EngOp) : (s.setOp a t o).pkg = s.pkg := rfl
@[simp] theorem setOp_sptab (a : Agent) (t : Nat) (o : EngOp) : (s.setOp a t o).sptab = s.sptab := rfl
@[simp] theorem setOp_shake (a : Agent) (t : Nat) (o : EngOp) : (s.setOp a t o).shake = s.shake := rfl
@[simp] theorem setOp_owners (a : Agent) (t : Nat) (o : EngOp) : (s.setOp a t o).owners = s.owners := rfl
@[simp] theorem setOp_qmap (a : Agent) (t : Nat) (o : EngOp) : (s.setOp a t o).qmap = s.qmap := rfl
@[simp] theorem setOp_mgbase (a : Agent) (t : Nat) (o : EngOp) : (s.setOp a t o).mgbase = s.mgbase := rfl
@[simp] theorem setOp_budget (a : Agent) (t : Nat) (o : EngOp) : (s.setOp a t o).budget = s.budget := rfl
@[simp] theorem setOp_tolls (a : Agent) (t : Nat) (o : EngOp) : (s.setOp a t o).tolls = s.tolls := rfl
@[simp] theorem setOp_vfs (a : Agent) (t : Nat) (o : EngOp) : (s.setOp a t o).vfs = s.vfs := rfl
@[simp] theorem setOp_ide (a : Agent) (t : Nat) (o : EngOp) : (s.setOp a t o).ide = s.ide := rfl
@[simp] theorem setOp_sriov (a : Agent) (t : Nat) (o : EngOp) : (s.setOp a t o).sriov = s.sriov := rfl
@[simp] theorem setOp_vfcfg (a : Agent) (t : Nat) (o : EngOp) : (s.setOp a t o).vfcfg = s.vfcfg := rfl
@[simp] theorem setOp_doe (a : Agent) (t : Nat) (o : EngOp) : (s.setOp a t o).doe = s.doe := rfl
@[simp] theorem setOp_hubMpoff (a : Agent) (t : Nat) (o : EngOp) : (s.setOp a t o).hubMpoff = s.hubMpoff := rfl
@[simp] theorem setOp_hubBars (a : Agent) (t : Nat) (o : EngOp) : (s.setOp a t o).hubBars = s.hubBars := rfl
@[simp] theorem setOp_power (a : Agent) (t : Nat) (o : EngOp) : (s.setOp a t o).power = s.power := rfl
@[simp] theorem setOp_hostOut (a : Agent) (t : Nat) (o : EngOp) : (s.setOp a t o).hostOut = s.hostOut := rfl
@[simp] theorem setOp_mapped (a : Agent) (t : Nat) (o : EngOp) : (s.setOp a t o).mapped = s.mapped := rfl
@[simp] theorem setOp_moves (a : Agent) (t : Nat) (o : EngOp) : (s.setOp a t o).moves = s.moves := rfl
@[simp] theorem setOp_cur (a : Agent) (t : Nat) (o : EngOp) : (s.setOp a t o).cur = s.cur := rfl
@[simp] theorem setOp_free (a : Agent) (t : Nat) (o : EngOp) : (s.setOp a t o).free = s.free := rfl
@[simp] theorem setOp_beat (a : Agent) (t : Nat) (o : EngOp) : (s.setOp a t o).beat = s.beat := rfl

/-! ## delOp -/

@[simp] theorem delOp_mem (a : Agent) (t : Nat) : (s.delOp a t).mem = s.mem := rfl
@[simp] theorem delOp_poison (a : Agent) (t : Nat) : (s.delOp a t).poison = s.poison := rfl
@[simp] theorem delOp_trimPoison (a : Agent) (t : Nat) : (s.delOp a t).trimPoison = s.trimPoison := rfl
@[simp] theorem delOp_ctxs (a : Agent) (t : Nat) : (s.delOp a t).ctxs = s.ctxs := rfl
@[simp] theorem delOp_opSeq (a : Agent) (t : Nat) : (s.delOp a t).opSeq = s.opSeq := rfl
@[simp] theorem delOp_regions (a : Agent) (t : Nat) : (s.delOp a t).regions = s.regions := rfl
@[simp] theorem delOp_elems (a : Agent) (t : Nat) : (s.delOp a t).elems = s.elems := rfl
@[simp] theorem delOp_tiles (a : Agent) (t : Nat) : (s.delOp a t).tiles = s.tiles := rfl
@[simp] theorem delOp_gens (a : Agent) (t : Nat) : (s.delOp a t).gens = s.gens := rfl
@[simp] theorem delOp_trks (a : Agent) (t : Nat) : (s.delOp a t).trks = s.trks := rfl
@[simp] theorem delOp_dies (a : Agent) (t : Nat) : (s.delOp a t).dies = s.dies := rfl
@[simp] theorem delOp_tasks (a : Agent) (t : Nat) : (s.delOp a t).tasks = s.tasks := rfl
@[simp] theorem delOp_pend (a : Agent) (t : Nat) : (s.delOp a t).pend = s.pend := rfl
@[simp] theorem delOp_homeRecs (a : Agent) (t : Nat) : (s.delOp a t).homeRecs = s.homeRecs := rfl
@[simp] theorem delOp_homeOut (a : Agent) (t : Nat) : (s.delOp a t).homeOut = s.homeOut := rfl
@[simp] theorem delOp_homeHeld (a : Agent) (t : Nat) : (s.delOp a t).homeHeld = s.homeHeld := rfl
@[simp] theorem delOp_arrivals (a : Agent) (t : Nat) : (s.delOp a t).arrivals = s.arrivals := rfl
@[simp] theorem delOp_locks (a : Agent) (t : Nat) : (s.delOp a t).locks = s.locks := rfl
@[simp] theorem delOp_migs (a : Agent) (t : Nat) : (s.delOp a t).migs = s.migs := rfl
@[simp] theorem delOp_pools (a : Agent) (t : Nat) : (s.delOp a t).pools = s.pools := rfl
@[simp] theorem delOp_access (a : Agent) (t : Nat) : (s.delOp a t).access = s.access := rfl
@[simp] theorem delOp_pkg (a : Agent) (t : Nat) : (s.delOp a t).pkg = s.pkg := rfl
@[simp] theorem delOp_sptab (a : Agent) (t : Nat) : (s.delOp a t).sptab = s.sptab := rfl
@[simp] theorem delOp_shake (a : Agent) (t : Nat) : (s.delOp a t).shake = s.shake := rfl
@[simp] theorem delOp_owners (a : Agent) (t : Nat) : (s.delOp a t).owners = s.owners := rfl
@[simp] theorem delOp_qmap (a : Agent) (t : Nat) : (s.delOp a t).qmap = s.qmap := rfl
@[simp] theorem delOp_mgbase (a : Agent) (t : Nat) : (s.delOp a t).mgbase = s.mgbase := rfl
@[simp] theorem delOp_budget (a : Agent) (t : Nat) : (s.delOp a t).budget = s.budget := rfl
@[simp] theorem delOp_tolls (a : Agent) (t : Nat) : (s.delOp a t).tolls = s.tolls := rfl
@[simp] theorem delOp_vfs (a : Agent) (t : Nat) : (s.delOp a t).vfs = s.vfs := rfl
@[simp] theorem delOp_ide (a : Agent) (t : Nat) : (s.delOp a t).ide = s.ide := rfl
@[simp] theorem delOp_sriov (a : Agent) (t : Nat) : (s.delOp a t).sriov = s.sriov := rfl
@[simp] theorem delOp_vfcfg (a : Agent) (t : Nat) : (s.delOp a t).vfcfg = s.vfcfg := rfl
@[simp] theorem delOp_doe (a : Agent) (t : Nat) : (s.delOp a t).doe = s.doe := rfl
@[simp] theorem delOp_hubMpoff (a : Agent) (t : Nat) : (s.delOp a t).hubMpoff = s.hubMpoff := rfl
@[simp] theorem delOp_hubBars (a : Agent) (t : Nat) : (s.delOp a t).hubBars = s.hubBars := rfl
@[simp] theorem delOp_power (a : Agent) (t : Nat) : (s.delOp a t).power = s.power := rfl
@[simp] theorem delOp_hostOut (a : Agent) (t : Nat) : (s.delOp a t).hostOut = s.hostOut := rfl
@[simp] theorem delOp_mapped (a : Agent) (t : Nat) : (s.delOp a t).mapped = s.mapped := rfl
@[simp] theorem delOp_moves (a : Agent) (t : Nat) : (s.delOp a t).moves = s.moves := rfl
@[simp] theorem delOp_cur (a : Agent) (t : Nat) : (s.delOp a t).cur = s.cur := rfl
@[simp] theorem delOp_free (a : Agent) (t : Nat) : (s.delOp a t).free = s.free := rfl
@[simp] theorem delOp_beat (a : Agent) (t : Nat) : (s.delOp a t).beat = s.beat := rfl

/-! ## setRegion -/

@[simp] theorem setRegion_mem (r : RegionId) (x : Region) : (s.setRegion r x).mem = s.mem := rfl
@[simp] theorem setRegion_poison (r : RegionId) (x : Region) : (s.setRegion r x).poison = s.poison := rfl
@[simp] theorem setRegion_trimPoison (r : RegionId) (x : Region) : (s.setRegion r x).trimPoison = s.trimPoison := rfl
@[simp] theorem setRegion_ctxs (r : RegionId) (x : Region) : (s.setRegion r x).ctxs = s.ctxs := rfl
@[simp] theorem setRegion_ops (r : RegionId) (x : Region) : (s.setRegion r x).ops = s.ops := rfl
@[simp] theorem setRegion_opSeq (r : RegionId) (x : Region) : (s.setRegion r x).opSeq = s.opSeq := rfl
@[simp] theorem setRegion_elems (r : RegionId) (x : Region) : (s.setRegion r x).elems = s.elems := rfl
@[simp] theorem setRegion_tiles (r : RegionId) (x : Region) : (s.setRegion r x).tiles = s.tiles := rfl
@[simp] theorem setRegion_gens (r : RegionId) (x : Region) : (s.setRegion r x).gens = s.gens := rfl
@[simp] theorem setRegion_trks (r : RegionId) (x : Region) : (s.setRegion r x).trks = s.trks := rfl
@[simp] theorem setRegion_dies (r : RegionId) (x : Region) : (s.setRegion r x).dies = s.dies := rfl
@[simp] theorem setRegion_tasks (r : RegionId) (x : Region) : (s.setRegion r x).tasks = s.tasks := rfl
@[simp] theorem setRegion_pend (r : RegionId) (x : Region) : (s.setRegion r x).pend = s.pend := rfl
@[simp] theorem setRegion_homeRecs (r : RegionId) (x : Region) : (s.setRegion r x).homeRecs = s.homeRecs := rfl
@[simp] theorem setRegion_homeOut (r : RegionId) (x : Region) : (s.setRegion r x).homeOut = s.homeOut := rfl
@[simp] theorem setRegion_homeHeld (r : RegionId) (x : Region) : (s.setRegion r x).homeHeld = s.homeHeld := rfl
@[simp] theorem setRegion_arrivals (r : RegionId) (x : Region) : (s.setRegion r x).arrivals = s.arrivals := rfl
@[simp] theorem setRegion_locks (r : RegionId) (x : Region) : (s.setRegion r x).locks = s.locks := rfl
@[simp] theorem setRegion_migs (r : RegionId) (x : Region) : (s.setRegion r x).migs = s.migs := rfl
@[simp] theorem setRegion_pools (r : RegionId) (x : Region) : (s.setRegion r x).pools = s.pools := rfl
@[simp] theorem setRegion_access (r : RegionId) (x : Region) : (s.setRegion r x).access = s.access := rfl
@[simp] theorem setRegion_pkg (r : RegionId) (x : Region) : (s.setRegion r x).pkg = s.pkg := rfl
@[simp] theorem setRegion_sptab (r : RegionId) (x : Region) : (s.setRegion r x).sptab = s.sptab := rfl
@[simp] theorem setRegion_shake (r : RegionId) (x : Region) : (s.setRegion r x).shake = s.shake := rfl
@[simp] theorem setRegion_owners (r : RegionId) (x : Region) : (s.setRegion r x).owners = s.owners := rfl
@[simp] theorem setRegion_qmap (r : RegionId) (x : Region) : (s.setRegion r x).qmap = s.qmap := rfl
@[simp] theorem setRegion_mgbase (r : RegionId) (x : Region) : (s.setRegion r x).mgbase = s.mgbase := rfl
@[simp] theorem setRegion_budget (r : RegionId) (x : Region) : (s.setRegion r x).budget = s.budget := rfl
@[simp] theorem setRegion_tolls (r : RegionId) (x : Region) : (s.setRegion r x).tolls = s.tolls := rfl
@[simp] theorem setRegion_vfs (r : RegionId) (x : Region) : (s.setRegion r x).vfs = s.vfs := rfl
@[simp] theorem setRegion_ide (r : RegionId) (x : Region) : (s.setRegion r x).ide = s.ide := rfl
@[simp] theorem setRegion_sriov (r : RegionId) (x : Region) : (s.setRegion r x).sriov = s.sriov := rfl
@[simp] theorem setRegion_vfcfg (r : RegionId) (x : Region) : (s.setRegion r x).vfcfg = s.vfcfg := rfl
@[simp] theorem setRegion_doe (r : RegionId) (x : Region) : (s.setRegion r x).doe = s.doe := rfl
@[simp] theorem setRegion_hubMpoff (r : RegionId) (x : Region) : (s.setRegion r x).hubMpoff = s.hubMpoff := rfl
@[simp] theorem setRegion_hubBars (r : RegionId) (x : Region) : (s.setRegion r x).hubBars = s.hubBars := rfl
@[simp] theorem setRegion_power (r : RegionId) (x : Region) : (s.setRegion r x).power = s.power := rfl
@[simp] theorem setRegion_hostOut (r : RegionId) (x : Region) : (s.setRegion r x).hostOut = s.hostOut := rfl
@[simp] theorem setRegion_mapped (r : RegionId) (x : Region) : (s.setRegion r x).mapped = s.mapped := rfl
@[simp] theorem setRegion_moves (r : RegionId) (x : Region) : (s.setRegion r x).moves = s.moves := rfl
@[simp] theorem setRegion_cur (r : RegionId) (x : Region) : (s.setRegion r x).cur = s.cur := rfl
@[simp] theorem setRegion_free (r : RegionId) (x : Region) : (s.setRegion r x).free = s.free := rfl
@[simp] theorem setRegion_beat (r : RegionId) (x : Region) : (s.setRegion r x).beat = s.beat := rfl

/-! ## setTile -/

@[simp] theorem setTile_mem (d t : Nat) (x : Tile) : (s.setTile d t x).mem = s.mem := rfl
@[simp] theorem setTile_poison (d t : Nat) (x : Tile) : (s.setTile d t x).poison = s.poison := rfl
@[simp] theorem setTile_trimPoison (d t : Nat) (x : Tile) : (s.setTile d t x).trimPoison = s.trimPoison := rfl
@[simp] theorem setTile_ctxs (d t : Nat) (x : Tile) : (s.setTile d t x).ctxs = s.ctxs := rfl
@[simp] theorem setTile_ops (d t : Nat) (x : Tile) : (s.setTile d t x).ops = s.ops := rfl
@[simp] theorem setTile_opSeq (d t : Nat) (x : Tile) : (s.setTile d t x).opSeq = s.opSeq := rfl
@[simp] theorem setTile_regions (d t : Nat) (x : Tile) : (s.setTile d t x).regions = s.regions := rfl
@[simp] theorem setTile_elems (d t : Nat) (x : Tile) : (s.setTile d t x).elems = s.elems := rfl
@[simp] theorem setTile_gens (d t : Nat) (x : Tile) : (s.setTile d t x).gens = s.gens := rfl
@[simp] theorem setTile_trks (d t : Nat) (x : Tile) : (s.setTile d t x).trks = s.trks := rfl
@[simp] theorem setTile_dies (d t : Nat) (x : Tile) : (s.setTile d t x).dies = s.dies := rfl
@[simp] theorem setTile_tasks (d t : Nat) (x : Tile) : (s.setTile d t x).tasks = s.tasks := rfl
@[simp] theorem setTile_pend (d t : Nat) (x : Tile) : (s.setTile d t x).pend = s.pend := rfl
@[simp] theorem setTile_homeRecs (d t : Nat) (x : Tile) : (s.setTile d t x).homeRecs = s.homeRecs := rfl
@[simp] theorem setTile_homeOut (d t : Nat) (x : Tile) : (s.setTile d t x).homeOut = s.homeOut := rfl
@[simp] theorem setTile_homeHeld (d t : Nat) (x : Tile) : (s.setTile d t x).homeHeld = s.homeHeld := rfl
@[simp] theorem setTile_arrivals (d t : Nat) (x : Tile) : (s.setTile d t x).arrivals = s.arrivals := rfl
@[simp] theorem setTile_locks (d t : Nat) (x : Tile) : (s.setTile d t x).locks = s.locks := rfl
@[simp] theorem setTile_migs (d t : Nat) (x : Tile) : (s.setTile d t x).migs = s.migs := rfl
@[simp] theorem setTile_pools (d t : Nat) (x : Tile) : (s.setTile d t x).pools = s.pools := rfl
@[simp] theorem setTile_access (d t : Nat) (x : Tile) : (s.setTile d t x).access = s.access := rfl
@[simp] theorem setTile_pkg (d t : Nat) (x : Tile) : (s.setTile d t x).pkg = s.pkg := rfl
@[simp] theorem setTile_sptab (d t : Nat) (x : Tile) : (s.setTile d t x).sptab = s.sptab := rfl
@[simp] theorem setTile_shake (d t : Nat) (x : Tile) : (s.setTile d t x).shake = s.shake := rfl
@[simp] theorem setTile_owners (d t : Nat) (x : Tile) : (s.setTile d t x).owners = s.owners := rfl
@[simp] theorem setTile_qmap (d t : Nat) (x : Tile) : (s.setTile d t x).qmap = s.qmap := rfl
@[simp] theorem setTile_mgbase (d t : Nat) (x : Tile) : (s.setTile d t x).mgbase = s.mgbase := rfl
@[simp] theorem setTile_budget (d t : Nat) (x : Tile) : (s.setTile d t x).budget = s.budget := rfl
@[simp] theorem setTile_tolls (d t : Nat) (x : Tile) : (s.setTile d t x).tolls = s.tolls := rfl
@[simp] theorem setTile_vfs (d t : Nat) (x : Tile) : (s.setTile d t x).vfs = s.vfs := rfl
@[simp] theorem setTile_ide (d t : Nat) (x : Tile) : (s.setTile d t x).ide = s.ide := rfl
@[simp] theorem setTile_sriov (d t : Nat) (x : Tile) : (s.setTile d t x).sriov = s.sriov := rfl
@[simp] theorem setTile_vfcfg (d t : Nat) (x : Tile) : (s.setTile d t x).vfcfg = s.vfcfg := rfl
@[simp] theorem setTile_doe (d t : Nat) (x : Tile) : (s.setTile d t x).doe = s.doe := rfl
@[simp] theorem setTile_hubMpoff (d t : Nat) (x : Tile) : (s.setTile d t x).hubMpoff = s.hubMpoff := rfl
@[simp] theorem setTile_hubBars (d t : Nat) (x : Tile) : (s.setTile d t x).hubBars = s.hubBars := rfl
@[simp] theorem setTile_power (d t : Nat) (x : Tile) : (s.setTile d t x).power = s.power := rfl
@[simp] theorem setTile_hostOut (d t : Nat) (x : Tile) : (s.setTile d t x).hostOut = s.hostOut := rfl
@[simp] theorem setTile_mapped (d t : Nat) (x : Tile) : (s.setTile d t x).mapped = s.mapped := rfl
@[simp] theorem setTile_moves (d t : Nat) (x : Tile) : (s.setTile d t x).moves = s.moves := rfl
@[simp] theorem setTile_cur (d t : Nat) (x : Tile) : (s.setTile d t x).cur = s.cur := rfl
@[simp] theorem setTile_free (d t : Nat) (x : Tile) : (s.setTile d t x).free = s.free := rfl
@[simp] theorem setTile_beat (d t : Nat) (x : Tile) : (s.setTile d t x).beat = s.beat := rfl

/-! ## setGen -/

@[simp] theorem setGen_mem (d t g : Nat) (x : Gen) : (s.setGen d t g x).mem = s.mem := rfl
@[simp] theorem setGen_poison (d t g : Nat) (x : Gen) : (s.setGen d t g x).poison = s.poison := rfl
@[simp] theorem setGen_trimPoison (d t g : Nat) (x : Gen) : (s.setGen d t g x).trimPoison = s.trimPoison := rfl
@[simp] theorem setGen_ctxs (d t g : Nat) (x : Gen) : (s.setGen d t g x).ctxs = s.ctxs := rfl
@[simp] theorem setGen_ops (d t g : Nat) (x : Gen) : (s.setGen d t g x).ops = s.ops := rfl
@[simp] theorem setGen_opSeq (d t g : Nat) (x : Gen) : (s.setGen d t g x).opSeq = s.opSeq := rfl
@[simp] theorem setGen_regions (d t g : Nat) (x : Gen) : (s.setGen d t g x).regions = s.regions := rfl
@[simp] theorem setGen_elems (d t g : Nat) (x : Gen) : (s.setGen d t g x).elems = s.elems := rfl
@[simp] theorem setGen_tiles (d t g : Nat) (x : Gen) : (s.setGen d t g x).tiles = s.tiles := rfl
@[simp] theorem setGen_trks (d t g : Nat) (x : Gen) : (s.setGen d t g x).trks = s.trks := rfl
@[simp] theorem setGen_dies (d t g : Nat) (x : Gen) : (s.setGen d t g x).dies = s.dies := rfl
@[simp] theorem setGen_tasks (d t g : Nat) (x : Gen) : (s.setGen d t g x).tasks = s.tasks := rfl
@[simp] theorem setGen_pend (d t g : Nat) (x : Gen) : (s.setGen d t g x).pend = s.pend := rfl
@[simp] theorem setGen_homeRecs (d t g : Nat) (x : Gen) : (s.setGen d t g x).homeRecs = s.homeRecs := rfl
@[simp] theorem setGen_homeOut (d t g : Nat) (x : Gen) : (s.setGen d t g x).homeOut = s.homeOut := rfl
@[simp] theorem setGen_homeHeld (d t g : Nat) (x : Gen) : (s.setGen d t g x).homeHeld = s.homeHeld := rfl
@[simp] theorem setGen_arrivals (d t g : Nat) (x : Gen) : (s.setGen d t g x).arrivals = s.arrivals := rfl
@[simp] theorem setGen_locks (d t g : Nat) (x : Gen) : (s.setGen d t g x).locks = s.locks := rfl
@[simp] theorem setGen_migs (d t g : Nat) (x : Gen) : (s.setGen d t g x).migs = s.migs := rfl
@[simp] theorem setGen_pools (d t g : Nat) (x : Gen) : (s.setGen d t g x).pools = s.pools := rfl
@[simp] theorem setGen_access (d t g : Nat) (x : Gen) : (s.setGen d t g x).access = s.access := rfl
@[simp] theorem setGen_pkg (d t g : Nat) (x : Gen) : (s.setGen d t g x).pkg = s.pkg := rfl
@[simp] theorem setGen_sptab (d t g : Nat) (x : Gen) : (s.setGen d t g x).sptab = s.sptab := rfl
@[simp] theorem setGen_shake (d t g : Nat) (x : Gen) : (s.setGen d t g x).shake = s.shake := rfl
@[simp] theorem setGen_owners (d t g : Nat) (x : Gen) : (s.setGen d t g x).owners = s.owners := rfl
@[simp] theorem setGen_qmap (d t g : Nat) (x : Gen) : (s.setGen d t g x).qmap = s.qmap := rfl
@[simp] theorem setGen_mgbase (d t g : Nat) (x : Gen) : (s.setGen d t g x).mgbase = s.mgbase := rfl
@[simp] theorem setGen_budget (d t g : Nat) (x : Gen) : (s.setGen d t g x).budget = s.budget := rfl
@[simp] theorem setGen_tolls (d t g : Nat) (x : Gen) : (s.setGen d t g x).tolls = s.tolls := rfl
@[simp] theorem setGen_vfs (d t g : Nat) (x : Gen) : (s.setGen d t g x).vfs = s.vfs := rfl
@[simp] theorem setGen_ide (d t g : Nat) (x : Gen) : (s.setGen d t g x).ide = s.ide := rfl
@[simp] theorem setGen_sriov (d t g : Nat) (x : Gen) : (s.setGen d t g x).sriov = s.sriov := rfl
@[simp] theorem setGen_vfcfg (d t g : Nat) (x : Gen) : (s.setGen d t g x).vfcfg = s.vfcfg := rfl
@[simp] theorem setGen_doe (d t g : Nat) (x : Gen) : (s.setGen d t g x).doe = s.doe := rfl
@[simp] theorem setGen_hubMpoff (d t g : Nat) (x : Gen) : (s.setGen d t g x).hubMpoff = s.hubMpoff := rfl
@[simp] theorem setGen_hubBars (d t g : Nat) (x : Gen) : (s.setGen d t g x).hubBars = s.hubBars := rfl
@[simp] theorem setGen_power (d t g : Nat) (x : Gen) : (s.setGen d t g x).power = s.power := rfl
@[simp] theorem setGen_hostOut (d t g : Nat) (x : Gen) : (s.setGen d t g x).hostOut = s.hostOut := rfl
@[simp] theorem setGen_mapped (d t g : Nat) (x : Gen) : (s.setGen d t g x).mapped = s.mapped := rfl
@[simp] theorem setGen_moves (d t g : Nat) (x : Gen) : (s.setGen d t g x).moves = s.moves := rfl
@[simp] theorem setGen_cur (d t g : Nat) (x : Gen) : (s.setGen d t g x).cur = s.cur := rfl
@[simp] theorem setGen_free (d t g : Nat) (x : Gen) : (s.setGen d t g x).free = s.free := rfl
@[simp] theorem setGen_beat (d t g : Nat) (x : Gen) : (s.setGen d t g x).beat = s.beat := rfl

/-! ## setTrk -/

@[simp] theorem setTrk_mem (d t n : Nat) (x : Tracker) : (s.setTrk d t n x).mem = s.mem := rfl
@[simp] theorem setTrk_poison (d t n : Nat) (x : Tracker) : (s.setTrk d t n x).poison = s.poison := rfl
@[simp] theorem setTrk_trimPoison (d t n : Nat) (x : Tracker) : (s.setTrk d t n x).trimPoison = s.trimPoison := rfl
@[simp] theorem setTrk_ctxs (d t n : Nat) (x : Tracker) : (s.setTrk d t n x).ctxs = s.ctxs := rfl
@[simp] theorem setTrk_ops (d t n : Nat) (x : Tracker) : (s.setTrk d t n x).ops = s.ops := rfl
@[simp] theorem setTrk_opSeq (d t n : Nat) (x : Tracker) : (s.setTrk d t n x).opSeq = s.opSeq := rfl
@[simp] theorem setTrk_regions (d t n : Nat) (x : Tracker) : (s.setTrk d t n x).regions = s.regions := rfl
@[simp] theorem setTrk_elems (d t n : Nat) (x : Tracker) : (s.setTrk d t n x).elems = s.elems := rfl
@[simp] theorem setTrk_tiles (d t n : Nat) (x : Tracker) : (s.setTrk d t n x).tiles = s.tiles := rfl
@[simp] theorem setTrk_gens (d t n : Nat) (x : Tracker) : (s.setTrk d t n x).gens = s.gens := rfl
@[simp] theorem setTrk_dies (d t n : Nat) (x : Tracker) : (s.setTrk d t n x).dies = s.dies := rfl
@[simp] theorem setTrk_tasks (d t n : Nat) (x : Tracker) : (s.setTrk d t n x).tasks = s.tasks := rfl
@[simp] theorem setTrk_pend (d t n : Nat) (x : Tracker) : (s.setTrk d t n x).pend = s.pend := rfl
@[simp] theorem setTrk_homeRecs (d t n : Nat) (x : Tracker) : (s.setTrk d t n x).homeRecs = s.homeRecs := rfl
@[simp] theorem setTrk_homeOut (d t n : Nat) (x : Tracker) : (s.setTrk d t n x).homeOut = s.homeOut := rfl
@[simp] theorem setTrk_homeHeld (d t n : Nat) (x : Tracker) : (s.setTrk d t n x).homeHeld = s.homeHeld := rfl
@[simp] theorem setTrk_arrivals (d t n : Nat) (x : Tracker) : (s.setTrk d t n x).arrivals = s.arrivals := rfl
@[simp] theorem setTrk_locks (d t n : Nat) (x : Tracker) : (s.setTrk d t n x).locks = s.locks := rfl
@[simp] theorem setTrk_migs (d t n : Nat) (x : Tracker) : (s.setTrk d t n x).migs = s.migs := rfl
@[simp] theorem setTrk_pools (d t n : Nat) (x : Tracker) : (s.setTrk d t n x).pools = s.pools := rfl
@[simp] theorem setTrk_access (d t n : Nat) (x : Tracker) : (s.setTrk d t n x).access = s.access := rfl
@[simp] theorem setTrk_pkg (d t n : Nat) (x : Tracker) : (s.setTrk d t n x).pkg = s.pkg := rfl
@[simp] theorem setTrk_sptab (d t n : Nat) (x : Tracker) : (s.setTrk d t n x).sptab = s.sptab := rfl
@[simp] theorem setTrk_shake (d t n : Nat) (x : Tracker) : (s.setTrk d t n x).shake = s.shake := rfl
@[simp] theorem setTrk_owners (d t n : Nat) (x : Tracker) : (s.setTrk d t n x).owners = s.owners := rfl
@[simp] theorem setTrk_qmap (d t n : Nat) (x : Tracker) : (s.setTrk d t n x).qmap = s.qmap := rfl
@[simp] theorem setTrk_mgbase (d t n : Nat) (x : Tracker) : (s.setTrk d t n x).mgbase = s.mgbase := rfl
@[simp] theorem setTrk_budget (d t n : Nat) (x : Tracker) : (s.setTrk d t n x).budget = s.budget := rfl
@[simp] theorem setTrk_tolls (d t n : Nat) (x : Tracker) : (s.setTrk d t n x).tolls = s.tolls := rfl
@[simp] theorem setTrk_vfs (d t n : Nat) (x : Tracker) : (s.setTrk d t n x).vfs = s.vfs := rfl
@[simp] theorem setTrk_ide (d t n : Nat) (x : Tracker) : (s.setTrk d t n x).ide = s.ide := rfl
@[simp] theorem setTrk_sriov (d t n : Nat) (x : Tracker) : (s.setTrk d t n x).sriov = s.sriov := rfl
@[simp] theorem setTrk_vfcfg (d t n : Nat) (x : Tracker) : (s.setTrk d t n x).vfcfg = s.vfcfg := rfl
@[simp] theorem setTrk_doe (d t n : Nat) (x : Tracker) : (s.setTrk d t n x).doe = s.doe := rfl
@[simp] theorem setTrk_hubMpoff (d t n : Nat) (x : Tracker) : (s.setTrk d t n x).hubMpoff = s.hubMpoff := rfl
@[simp] theorem setTrk_hubBars (d t n : Nat) (x : Tracker) : (s.setTrk d t n x).hubBars = s.hubBars := rfl
@[simp] theorem setTrk_power (d t n : Nat) (x : Tracker) : (s.setTrk d t n x).power = s.power := rfl
@[simp] theorem setTrk_hostOut (d t n : Nat) (x : Tracker) : (s.setTrk d t n x).hostOut = s.hostOut := rfl
@[simp] theorem setTrk_mapped (d t n : Nat) (x : Tracker) : (s.setTrk d t n x).mapped = s.mapped := rfl
@[simp] theorem setTrk_moves (d t n : Nat) (x : Tracker) : (s.setTrk d t n x).moves = s.moves := rfl
@[simp] theorem setTrk_cur (d t n : Nat) (x : Tracker) : (s.setTrk d t n x).cur = s.cur := rfl
@[simp] theorem setTrk_free (d t n : Nat) (x : Tracker) : (s.setTrk d t n x).free = s.free := rfl
@[simp] theorem setTrk_beat (d t n : Nat) (x : Tracker) : (s.setTrk d t n x).beat = s.beat := rfl

/-! ## setDie -/

@[simp] theorem setDie_mem (d : Nat) (x : Die) : (s.setDie d x).mem = s.mem := rfl
@[simp] theorem setDie_poison (d : Nat) (x : Die) : (s.setDie d x).poison = s.poison := rfl
@[simp] theorem setDie_trimPoison (d : Nat) (x : Die) : (s.setDie d x).trimPoison = s.trimPoison := rfl
@[simp] theorem setDie_ctxs (d : Nat) (x : Die) : (s.setDie d x).ctxs = s.ctxs := rfl
@[simp] theorem setDie_ops (d : Nat) (x : Die) : (s.setDie d x).ops = s.ops := rfl
@[simp] theorem setDie_opSeq (d : Nat) (x : Die) : (s.setDie d x).opSeq = s.opSeq := rfl
@[simp] theorem setDie_regions (d : Nat) (x : Die) : (s.setDie d x).regions = s.regions := rfl
@[simp] theorem setDie_elems (d : Nat) (x : Die) : (s.setDie d x).elems = s.elems := rfl
@[simp] theorem setDie_tiles (d : Nat) (x : Die) : (s.setDie d x).tiles = s.tiles := rfl
@[simp] theorem setDie_gens (d : Nat) (x : Die) : (s.setDie d x).gens = s.gens := rfl
@[simp] theorem setDie_trks (d : Nat) (x : Die) : (s.setDie d x).trks = s.trks := rfl
@[simp] theorem setDie_tasks (d : Nat) (x : Die) : (s.setDie d x).tasks = s.tasks := rfl
@[simp] theorem setDie_pend (d : Nat) (x : Die) : (s.setDie d x).pend = s.pend := rfl
@[simp] theorem setDie_homeRecs (d : Nat) (x : Die) : (s.setDie d x).homeRecs = s.homeRecs := rfl
@[simp] theorem setDie_homeOut (d : Nat) (x : Die) : (s.setDie d x).homeOut = s.homeOut := rfl
@[simp] theorem setDie_homeHeld (d : Nat) (x : Die) : (s.setDie d x).homeHeld = s.homeHeld := rfl
@[simp] theorem setDie_arrivals (d : Nat) (x : Die) : (s.setDie d x).arrivals = s.arrivals := rfl
@[simp] theorem setDie_locks (d : Nat) (x : Die) : (s.setDie d x).locks = s.locks := rfl
@[simp] theorem setDie_migs (d : Nat) (x : Die) : (s.setDie d x).migs = s.migs := rfl
@[simp] theorem setDie_pools (d : Nat) (x : Die) : (s.setDie d x).pools = s.pools := rfl
@[simp] theorem setDie_access (d : Nat) (x : Die) : (s.setDie d x).access = s.access := rfl
@[simp] theorem setDie_pkg (d : Nat) (x : Die) : (s.setDie d x).pkg = s.pkg := rfl
@[simp] theorem setDie_sptab (d : Nat) (x : Die) : (s.setDie d x).sptab = s.sptab := rfl
@[simp] theorem setDie_shake (d : Nat) (x : Die) : (s.setDie d x).shake = s.shake := rfl
@[simp] theorem setDie_owners (d : Nat) (x : Die) : (s.setDie d x).owners = s.owners := rfl
@[simp] theorem setDie_qmap (d : Nat) (x : Die) : (s.setDie d x).qmap = s.qmap := rfl
@[simp] theorem setDie_mgbase (d : Nat) (x : Die) : (s.setDie d x).mgbase = s.mgbase := rfl
@[simp] theorem setDie_budget (d : Nat) (x : Die) : (s.setDie d x).budget = s.budget := rfl
@[simp] theorem setDie_tolls (d : Nat) (x : Die) : (s.setDie d x).tolls = s.tolls := rfl
@[simp] theorem setDie_vfs (d : Nat) (x : Die) : (s.setDie d x).vfs = s.vfs := rfl
@[simp] theorem setDie_ide (d : Nat) (x : Die) : (s.setDie d x).ide = s.ide := rfl
@[simp] theorem setDie_sriov (d : Nat) (x : Die) : (s.setDie d x).sriov = s.sriov := rfl
@[simp] theorem setDie_vfcfg (d : Nat) (x : Die) : (s.setDie d x).vfcfg = s.vfcfg := rfl
@[simp] theorem setDie_doe (d : Nat) (x : Die) : (s.setDie d x).doe = s.doe := rfl
@[simp] theorem setDie_hubMpoff (d : Nat) (x : Die) : (s.setDie d x).hubMpoff = s.hubMpoff := rfl
@[simp] theorem setDie_hubBars (d : Nat) (x : Die) : (s.setDie d x).hubBars = s.hubBars := rfl
@[simp] theorem setDie_power (d : Nat) (x : Die) : (s.setDie d x).power = s.power := rfl
@[simp] theorem setDie_hostOut (d : Nat) (x : Die) : (s.setDie d x).hostOut = s.hostOut := rfl
@[simp] theorem setDie_mapped (d : Nat) (x : Die) : (s.setDie d x).mapped = s.mapped := rfl
@[simp] theorem setDie_moves (d : Nat) (x : Die) : (s.setDie d x).moves = s.moves := rfl
@[simp] theorem setDie_cur (d : Nat) (x : Die) : (s.setDie d x).cur = s.cur := rfl
@[simp] theorem setDie_free (d : Nat) (x : Die) : (s.setDie d x).free = s.free := rfl
@[simp] theorem setDie_beat (d : Nat) (x : Die) : (s.setDie d x).beat = s.beat := rfl

/-! ## setTask -/

@[simp] theorem setTask_mem (n : Nat) (x : Task) : (s.setTask n x).mem = s.mem := rfl
@[simp] theorem setTask_poison (n : Nat) (x : Task) : (s.setTask n x).poison = s.poison := rfl
@[simp] theorem setTask_trimPoison (n : Nat) (x : Task) : (s.setTask n x).trimPoison = s.trimPoison := rfl
@[simp] theorem setTask_ctxs (n : Nat) (x : Task) : (s.setTask n x).ctxs = s.ctxs := rfl
@[simp] theorem setTask_ops (n : Nat) (x : Task) : (s.setTask n x).ops = s.ops := rfl
@[simp] theorem setTask_opSeq (n : Nat) (x : Task) : (s.setTask n x).opSeq = s.opSeq := rfl
@[simp] theorem setTask_regions (n : Nat) (x : Task) : (s.setTask n x).regions = s.regions := rfl
@[simp] theorem setTask_elems (n : Nat) (x : Task) : (s.setTask n x).elems = s.elems := rfl
@[simp] theorem setTask_tiles (n : Nat) (x : Task) : (s.setTask n x).tiles = s.tiles := rfl
@[simp] theorem setTask_gens (n : Nat) (x : Task) : (s.setTask n x).gens = s.gens := rfl
@[simp] theorem setTask_trks (n : Nat) (x : Task) : (s.setTask n x).trks = s.trks := rfl
@[simp] theorem setTask_dies (n : Nat) (x : Task) : (s.setTask n x).dies = s.dies := rfl
@[simp] theorem setTask_pend (n : Nat) (x : Task) : (s.setTask n x).pend = s.pend := rfl
@[simp] theorem setTask_homeRecs (n : Nat) (x : Task) : (s.setTask n x).homeRecs = s.homeRecs := rfl
@[simp] theorem setTask_homeOut (n : Nat) (x : Task) : (s.setTask n x).homeOut = s.homeOut := rfl
@[simp] theorem setTask_homeHeld (n : Nat) (x : Task) : (s.setTask n x).homeHeld = s.homeHeld := rfl
@[simp] theorem setTask_arrivals (n : Nat) (x : Task) : (s.setTask n x).arrivals = s.arrivals := rfl
@[simp] theorem setTask_locks (n : Nat) (x : Task) : (s.setTask n x).locks = s.locks := rfl
@[simp] theorem setTask_migs (n : Nat) (x : Task) : (s.setTask n x).migs = s.migs := rfl
@[simp] theorem setTask_pools (n : Nat) (x : Task) : (s.setTask n x).pools = s.pools := rfl
@[simp] theorem setTask_access (n : Nat) (x : Task) : (s.setTask n x).access = s.access := rfl
@[simp] theorem setTask_pkg (n : Nat) (x : Task) : (s.setTask n x).pkg = s.pkg := rfl
@[simp] theorem setTask_sptab (n : Nat) (x : Task) : (s.setTask n x).sptab = s.sptab := rfl
@[simp] theorem setTask_shake (n : Nat) (x : Task) : (s.setTask n x).shake = s.shake := rfl
@[simp] theorem setTask_owners (n : Nat) (x : Task) : (s.setTask n x).owners = s.owners := rfl
@[simp] theorem setTask_qmap (n : Nat) (x : Task) : (s.setTask n x).qmap = s.qmap := rfl
@[simp] theorem setTask_mgbase (n : Nat) (x : Task) : (s.setTask n x).mgbase = s.mgbase := rfl
@[simp] theorem setTask_budget (n : Nat) (x : Task) : (s.setTask n x).budget = s.budget := rfl
@[simp] theorem setTask_tolls (n : Nat) (x : Task) : (s.setTask n x).tolls = s.tolls := rfl
@[simp] theorem setTask_vfs (n : Nat) (x : Task) : (s.setTask n x).vfs = s.vfs := rfl
@[simp] theorem setTask_ide (n : Nat) (x : Task) : (s.setTask n x).ide = s.ide := rfl
@[simp] theorem setTask_sriov (n : Nat) (x : Task) : (s.setTask n x).sriov = s.sriov := rfl
@[simp] theorem setTask_vfcfg (n : Nat) (x : Task) : (s.setTask n x).vfcfg = s.vfcfg := rfl
@[simp] theorem setTask_doe (n : Nat) (x : Task) : (s.setTask n x).doe = s.doe := rfl
@[simp] theorem setTask_hubMpoff (n : Nat) (x : Task) : (s.setTask n x).hubMpoff = s.hubMpoff := rfl
@[simp] theorem setTask_hubBars (n : Nat) (x : Task) : (s.setTask n x).hubBars = s.hubBars := rfl
@[simp] theorem setTask_power (n : Nat) (x : Task) : (s.setTask n x).power = s.power := rfl
@[simp] theorem setTask_hostOut (n : Nat) (x : Task) : (s.setTask n x).hostOut = s.hostOut := rfl
@[simp] theorem setTask_mapped (n : Nat) (x : Task) : (s.setTask n x).mapped = s.mapped := rfl
@[simp] theorem setTask_moves (n : Nat) (x : Task) : (s.setTask n x).moves = s.moves := rfl
@[simp] theorem setTask_cur (n : Nat) (x : Task) : (s.setTask n x).cur = s.cur := rfl
@[simp] theorem setTask_free (n : Nat) (x : Task) : (s.setTask n x).free = s.free := rfl
@[simp] theorem setTask_beat (n : Nat) (x : Task) : (s.setTask n x).beat = s.beat := rfl

/-! ## setVf -/

@[simp] theorem setVf_mem (v : Nat) (x : Vf) : (s.setVf v x).mem = s.mem := rfl
@[simp] theorem setVf_poison (v : Nat) (x : Vf) : (s.setVf v x).poison = s.poison := rfl
@[simp] theorem setVf_trimPoison (v : Nat) (x : Vf) : (s.setVf v x).trimPoison = s.trimPoison := rfl
@[simp] theorem setVf_ctxs (v : Nat) (x : Vf) : (s.setVf v x).ctxs = s.ctxs := rfl
@[simp] theorem setVf_ops (v : Nat) (x : Vf) : (s.setVf v x).ops = s.ops := rfl
@[simp] theorem setVf_opSeq (v : Nat) (x : Vf) : (s.setVf v x).opSeq = s.opSeq := rfl
@[simp] theorem setVf_regions (v : Nat) (x : Vf) : (s.setVf v x).regions = s.regions := rfl
@[simp] theorem setVf_elems (v : Nat) (x : Vf) : (s.setVf v x).elems = s.elems := rfl
@[simp] theorem setVf_tiles (v : Nat) (x : Vf) : (s.setVf v x).tiles = s.tiles := rfl
@[simp] theorem setVf_gens (v : Nat) (x : Vf) : (s.setVf v x).gens = s.gens := rfl
@[simp] theorem setVf_trks (v : Nat) (x : Vf) : (s.setVf v x).trks = s.trks := rfl
@[simp] theorem setVf_dies (v : Nat) (x : Vf) : (s.setVf v x).dies = s.dies := rfl
@[simp] theorem setVf_tasks (v : Nat) (x : Vf) : (s.setVf v x).tasks = s.tasks := rfl
@[simp] theorem setVf_pend (v : Nat) (x : Vf) : (s.setVf v x).pend = s.pend := rfl
@[simp] theorem setVf_homeRecs (v : Nat) (x : Vf) : (s.setVf v x).homeRecs = s.homeRecs := rfl
@[simp] theorem setVf_homeOut (v : Nat) (x : Vf) : (s.setVf v x).homeOut = s.homeOut := rfl
@[simp] theorem setVf_homeHeld (v : Nat) (x : Vf) : (s.setVf v x).homeHeld = s.homeHeld := rfl
@[simp] theorem setVf_arrivals (v : Nat) (x : Vf) : (s.setVf v x).arrivals = s.arrivals := rfl
@[simp] theorem setVf_locks (v : Nat) (x : Vf) : (s.setVf v x).locks = s.locks := rfl
@[simp] theorem setVf_migs (v : Nat) (x : Vf) : (s.setVf v x).migs = s.migs := rfl
@[simp] theorem setVf_pools (v : Nat) (x : Vf) : (s.setVf v x).pools = s.pools := rfl
@[simp] theorem setVf_access (v : Nat) (x : Vf) : (s.setVf v x).access = s.access := rfl
@[simp] theorem setVf_pkg (v : Nat) (x : Vf) : (s.setVf v x).pkg = s.pkg := rfl
@[simp] theorem setVf_sptab (v : Nat) (x : Vf) : (s.setVf v x).sptab = s.sptab := rfl
@[simp] theorem setVf_shake (v : Nat) (x : Vf) : (s.setVf v x).shake = s.shake := rfl
@[simp] theorem setVf_owners (v : Nat) (x : Vf) : (s.setVf v x).owners = s.owners := rfl
@[simp] theorem setVf_qmap (v : Nat) (x : Vf) : (s.setVf v x).qmap = s.qmap := rfl
@[simp] theorem setVf_mgbase (v : Nat) (x : Vf) : (s.setVf v x).mgbase = s.mgbase := rfl
@[simp] theorem setVf_budget (v : Nat) (x : Vf) : (s.setVf v x).budget = s.budget := rfl
@[simp] theorem setVf_tolls (v : Nat) (x : Vf) : (s.setVf v x).tolls = s.tolls := rfl
@[simp] theorem setVf_ide (v : Nat) (x : Vf) : (s.setVf v x).ide = s.ide := rfl
@[simp] theorem setVf_sriov (v : Nat) (x : Vf) : (s.setVf v x).sriov = s.sriov := rfl
@[simp] theorem setVf_vfcfg (v : Nat) (x : Vf) : (s.setVf v x).vfcfg = s.vfcfg := rfl
@[simp] theorem setVf_doe (v : Nat) (x : Vf) : (s.setVf v x).doe = s.doe := rfl
@[simp] theorem setVf_hubMpoff (v : Nat) (x : Vf) : (s.setVf v x).hubMpoff = s.hubMpoff := rfl
@[simp] theorem setVf_hubBars (v : Nat) (x : Vf) : (s.setVf v x).hubBars = s.hubBars := rfl
@[simp] theorem setVf_power (v : Nat) (x : Vf) : (s.setVf v x).power = s.power := rfl
@[simp] theorem setVf_hostOut (v : Nat) (x : Vf) : (s.setVf v x).hostOut = s.hostOut := rfl
@[simp] theorem setVf_mapped (v : Nat) (x : Vf) : (s.setVf v x).mapped = s.mapped := rfl
@[simp] theorem setVf_moves (v : Nat) (x : Vf) : (s.setVf v x).moves = s.moves := rfl
@[simp] theorem setVf_cur (v : Nat) (x : Vf) : (s.setVf v x).cur = s.cur := rfl
@[simp] theorem setVf_free (v : Nat) (x : Vf) : (s.setVf v x).free = s.free := rfl
@[simp] theorem setVf_beat (v : Nat) (x : Vf) : (s.setVf v x).beat = s.beat := rfl

/-! ## setToll -/

@[simp] theorem setToll_mem (o : Nat) (x : Toll) : (s.setToll o x).mem = s.mem := rfl
@[simp] theorem setToll_poison (o : Nat) (x : Toll) : (s.setToll o x).poison = s.poison := rfl
@[simp] theorem setToll_trimPoison (o : Nat) (x : Toll) : (s.setToll o x).trimPoison = s.trimPoison := rfl
@[simp] theorem setToll_ctxs (o : Nat) (x : Toll) : (s.setToll o x).ctxs = s.ctxs := rfl
@[simp] theorem setToll_ops (o : Nat) (x : Toll) : (s.setToll o x).ops = s.ops := rfl
@[simp] theorem setToll_opSeq (o : Nat) (x : Toll) : (s.setToll o x).opSeq = s.opSeq := rfl
@[simp] theorem setToll_regions (o : Nat) (x : Toll) : (s.setToll o x).regions = s.regions := rfl
@[simp] theorem setToll_elems (o : Nat) (x : Toll) : (s.setToll o x).elems = s.elems := rfl
@[simp] theorem setToll_tiles (o : Nat) (x : Toll) : (s.setToll o x).tiles = s.tiles := rfl
@[simp] theorem setToll_gens (o : Nat) (x : Toll) : (s.setToll o x).gens = s.gens := rfl
@[simp] theorem setToll_trks (o : Nat) (x : Toll) : (s.setToll o x).trks = s.trks := rfl
@[simp] theorem setToll_dies (o : Nat) (x : Toll) : (s.setToll o x).dies = s.dies := rfl
@[simp] theorem setToll_tasks (o : Nat) (x : Toll) : (s.setToll o x).tasks = s.tasks := rfl
@[simp] theorem setToll_pend (o : Nat) (x : Toll) : (s.setToll o x).pend = s.pend := rfl
@[simp] theorem setToll_homeRecs (o : Nat) (x : Toll) : (s.setToll o x).homeRecs = s.homeRecs := rfl
@[simp] theorem setToll_homeOut (o : Nat) (x : Toll) : (s.setToll o x).homeOut = s.homeOut := rfl
@[simp] theorem setToll_homeHeld (o : Nat) (x : Toll) : (s.setToll o x).homeHeld = s.homeHeld := rfl
@[simp] theorem setToll_arrivals (o : Nat) (x : Toll) : (s.setToll o x).arrivals = s.arrivals := rfl
@[simp] theorem setToll_locks (o : Nat) (x : Toll) : (s.setToll o x).locks = s.locks := rfl
@[simp] theorem setToll_migs (o : Nat) (x : Toll) : (s.setToll o x).migs = s.migs := rfl
@[simp] theorem setToll_pools (o : Nat) (x : Toll) : (s.setToll o x).pools = s.pools := rfl
@[simp] theorem setToll_access (o : Nat) (x : Toll) : (s.setToll o x).access = s.access := rfl
@[simp] theorem setToll_pkg (o : Nat) (x : Toll) : (s.setToll o x).pkg = s.pkg := rfl
@[simp] theorem setToll_sptab (o : Nat) (x : Toll) : (s.setToll o x).sptab = s.sptab := rfl
@[simp] theorem setToll_shake (o : Nat) (x : Toll) : (s.setToll o x).shake = s.shake := rfl
@[simp] theorem setToll_owners (o : Nat) (x : Toll) : (s.setToll o x).owners = s.owners := rfl
@[simp] theorem setToll_qmap (o : Nat) (x : Toll) : (s.setToll o x).qmap = s.qmap := rfl
@[simp] theorem setToll_mgbase (o : Nat) (x : Toll) : (s.setToll o x).mgbase = s.mgbase := rfl
@[simp] theorem setToll_budget (o : Nat) (x : Toll) : (s.setToll o x).budget = s.budget := rfl
@[simp] theorem setToll_vfs (o : Nat) (x : Toll) : (s.setToll o x).vfs = s.vfs := rfl
@[simp] theorem setToll_ide (o : Nat) (x : Toll) : (s.setToll o x).ide = s.ide := rfl
@[simp] theorem setToll_sriov (o : Nat) (x : Toll) : (s.setToll o x).sriov = s.sriov := rfl
@[simp] theorem setToll_vfcfg (o : Nat) (x : Toll) : (s.setToll o x).vfcfg = s.vfcfg := rfl
@[simp] theorem setToll_doe (o : Nat) (x : Toll) : (s.setToll o x).doe = s.doe := rfl
@[simp] theorem setToll_hubMpoff (o : Nat) (x : Toll) : (s.setToll o x).hubMpoff = s.hubMpoff := rfl
@[simp] theorem setToll_hubBars (o : Nat) (x : Toll) : (s.setToll o x).hubBars = s.hubBars := rfl
@[simp] theorem setToll_power (o : Nat) (x : Toll) : (s.setToll o x).power = s.power := rfl
@[simp] theorem setToll_hostOut (o : Nat) (x : Toll) : (s.setToll o x).hostOut = s.hostOut := rfl
@[simp] theorem setToll_mapped (o : Nat) (x : Toll) : (s.setToll o x).mapped = s.mapped := rfl
@[simp] theorem setToll_moves (o : Nat) (x : Toll) : (s.setToll o x).moves = s.moves := rfl
@[simp] theorem setToll_cur (o : Nat) (x : Toll) : (s.setToll o x).cur = s.cur := rfl
@[simp] theorem setToll_free (o : Nat) (x : Toll) : (s.setToll o x).free = s.free := rfl
@[simp] theorem setToll_beat (o : Nat) (x : Toll) : (s.setToll o x).beat = s.beat := rfl

/-! ## Reads after updates -/

@[simp] theorem ctx_setCtx (a : Agent) (c : Ctx) : (s.setCtx a c).ctx a = c := by simp [ctx, setCtx]
theorem ctx_setCtx_other {a b : Agent} (c : Ctx) (h : agentKey b ≠ agentKey a) : (s.setCtx a c).ctx b = s.ctx b := by
  simp [ctx, setCtx, tget_tset_other _ _ _ h]
@[simp] theorem setCtx_setCtx (a : Agent) (c e : Ctx) : (s.setCtx a c).setCtx a e = s.setCtx a e := by simp [setCtx]
@[simp] theorem op_setOp (a : Agent) (t : Nat) (o : EngOp) : (s.setOp a t o).op a t = some o := by simp [op, setOp]
@[simp] theorem op_delOp (a : Agent) (t : Nat) : (s.delOp a t).op a t = none := by simp [op, delOp, tfind_tdel_same]
@[simp] theorem region_setRegion (r : RegionId) (x : Region) : (s.setRegion r x).region r = some x := by simp [region, setRegion]
@[simp] theorem tile_setTile (d t : Nat) (x : Tile) : (s.setTile d t x).tile d t = x := by simp [tile, setTile]
@[simp] theorem setTile_setTile (d t : Nat) (x y : Tile) : (s.setTile d t x).setTile d t y = s.setTile d t y := by simp [setTile]
@[simp] theorem gen_setGen (d t g : Nat) (x : Gen) : (s.setGen d t g x).gen d t g = x := by simp [gen, setGen]
@[simp] theorem trk_setTrk (d t n : Nat) (x : Tracker) : (s.setTrk d t n x).trk d t n = x := by simp [trk, setTrk]
@[simp] theorem die_setDie (d : Nat) (x : Die) : (s.setDie d x).die d = x := by simp [die, setDie]
@[simp] theorem setDie_setDie (d : Nat) (x y : Die) : (s.setDie d x).setDie d y = s.setDie d y := by simp [setDie]
@[simp] theorem task_setTask (n : Nat) (x : Task) : (s.setTask n x).task n = some x := by simp [task, setTask]
@[simp] theorem vf_setVf (v : Nat) (x : Vf) : (s.setVf v x).vf v = x := by simp [vf, setVf]
@[simp] theorem toll_setToll (o : Nat) (x : Toll) : (s.setToll o x).toll o = x := by simp [toll, setToll]

/-! ## Reads that another table's update leaves -/

@[simp] theorem op_setCtx (a : Agent) (c : Ctx) (b : Agent) (k : Nat) : (s.setCtx a c).op b k = s.op b k := rfl
@[simp] theorem region_setCtx (a : Agent) (c : Ctx) (q : RegionId) : (s.setCtx a c).region q = s.region q := rfl
@[simp] theorem tile_setCtx (a : Agent) (c : Ctx) (e k : Nat) : (s.setCtx a c).tile e k = s.tile e k := rfl
@[simp] theorem gen_setCtx (a : Agent) (c : Ctx) (e k g' : Nat) : (s.setCtx a c).gen e k g' = s.gen e k g' := rfl
@[simp] theorem trk_setCtx (a : Agent) (c : Ctx) (e k m : Nat) : (s.setCtx a c).trk e k m = s.trk e k m := rfl
@[simp] theorem die_setCtx (a : Agent) (c : Ctx) (e : Nat) : (s.setCtx a c).die e = s.die e := rfl
@[simp] theorem task_setCtx (a : Agent) (c : Ctx) (m : Nat) : (s.setCtx a c).task m = s.task m := rfl
@[simp] theorem ctx_setOp (a : Agent) (t : Nat) (o : EngOp) (b : Agent) : (s.setOp a t o).ctx b = s.ctx b := rfl
@[simp] theorem region_setOp (a : Agent) (t : Nat) (o : EngOp) (q : RegionId) : (s.setOp a t o).region q = s.region q := rfl
@[simp] theorem tile_setOp (a : Agent) (t : Nat) (o : EngOp) (e k : Nat) : (s.setOp a t o).tile e k = s.tile e k := rfl
@[simp] theorem gen_setOp (a : Agent) (t : Nat) (o : EngOp) (e k g' : Nat) : (s.setOp a t o).gen e k g' = s.gen e k g' := rfl
@[simp] theorem trk_setOp (a : Agent) (t : Nat) (o : EngOp) (e k m : Nat) : (s.setOp a t o).trk e k m = s.trk e k m := rfl
@[simp] theorem die_setOp (a : Agent) (t : Nat) (o : EngOp) (e : Nat) : (s.setOp a t o).die e = s.die e := rfl
@[simp] theorem task_setOp (a : Agent) (t : Nat) (o : EngOp) (m : Nat) : (s.setOp a t o).task m = s.task m := rfl
@[simp] theorem ctx_delOp (a : Agent) (t : Nat) (b : Agent) : (s.delOp a t).ctx b = s.ctx b := rfl
@[simp] theorem region_delOp (a : Agent) (t : Nat) (q : RegionId) : (s.delOp a t).region q = s.region q := rfl
@[simp] theorem tile_delOp (a : Agent) (t : Nat) (e k : Nat) : (s.delOp a t).tile e k = s.tile e k := rfl
@[simp] theorem gen_delOp (a : Agent) (t : Nat) (e k g' : Nat) : (s.delOp a t).gen e k g' = s.gen e k g' := rfl
@[simp] theorem trk_delOp (a : Agent) (t : Nat) (e k m : Nat) : (s.delOp a t).trk e k m = s.trk e k m := rfl
@[simp] theorem die_delOp (a : Agent) (t : Nat) (e : Nat) : (s.delOp a t).die e = s.die e := rfl
@[simp] theorem task_delOp (a : Agent) (t : Nat) (m : Nat) : (s.delOp a t).task m = s.task m := rfl
@[simp] theorem ctx_setRegion (r : RegionId) (x : Region) (b : Agent) : (s.setRegion r x).ctx b = s.ctx b := rfl
@[simp] theorem op_setRegion (r : RegionId) (x : Region) (b : Agent) (k : Nat) : (s.setRegion r x).op b k = s.op b k := rfl
@[simp] theorem tile_setRegion (r : RegionId) (x : Region) (e k : Nat) : (s.setRegion r x).tile e k = s.tile e k := rfl
@[simp] theorem gen_setRegion (r : RegionId) (x : Region) (e k g' : Nat) : (s.setRegion r x).gen e k g' = s.gen e k g' := rfl
@[simp] theorem trk_setRegion (r : RegionId) (x : Region) (e k m : Nat) : (s.setRegion r x).trk e k m = s.trk e k m := rfl
@[simp] theorem die_setRegion (r : RegionId) (x : Region) (e : Nat) : (s.setRegion r x).die e = s.die e := rfl
@[simp] theorem task_setRegion (r : RegionId) (x : Region) (m : Nat) : (s.setRegion r x).task m = s.task m := rfl
@[simp] theorem ctx_setTile (d t : Nat) (x : Tile) (b : Agent) : (s.setTile d t x).ctx b = s.ctx b := rfl
@[simp] theorem op_setTile (d t : Nat) (x : Tile) (b : Agent) (k : Nat) : (s.setTile d t x).op b k = s.op b k := rfl
@[simp] theorem region_setTile (d t : Nat) (x : Tile) (q : RegionId) : (s.setTile d t x).region q = s.region q := rfl
@[simp] theorem gen_setTile (d t : Nat) (x : Tile) (e k g' : Nat) : (s.setTile d t x).gen e k g' = s.gen e k g' := rfl
@[simp] theorem trk_setTile (d t : Nat) (x : Tile) (e k m : Nat) : (s.setTile d t x).trk e k m = s.trk e k m := rfl
@[simp] theorem die_setTile (d t : Nat) (x : Tile) (e : Nat) : (s.setTile d t x).die e = s.die e := rfl
@[simp] theorem task_setTile (d t : Nat) (x : Tile) (m : Nat) : (s.setTile d t x).task m = s.task m := rfl
@[simp] theorem ctx_setGen (d t g : Nat) (x : Gen) (b : Agent) : (s.setGen d t g x).ctx b = s.ctx b := rfl
@[simp] theorem op_setGen (d t g : Nat) (x : Gen) (b : Agent) (k : Nat) : (s.setGen d t g x).op b k = s.op b k := rfl
@[simp] theorem region_setGen (d t g : Nat) (x : Gen) (q : RegionId) : (s.setGen d t g x).region q = s.region q := rfl
@[simp] theorem tile_setGen (d t g : Nat) (x : Gen) (e k : Nat) : (s.setGen d t g x).tile e k = s.tile e k := rfl
@[simp] theorem trk_setGen (d t g : Nat) (x : Gen) (e k m : Nat) : (s.setGen d t g x).trk e k m = s.trk e k m := rfl
@[simp] theorem die_setGen (d t g : Nat) (x : Gen) (e : Nat) : (s.setGen d t g x).die e = s.die e := rfl
@[simp] theorem task_setGen (d t g : Nat) (x : Gen) (m : Nat) : (s.setGen d t g x).task m = s.task m := rfl
@[simp] theorem ctx_setTrk (d t n : Nat) (x : Tracker) (b : Agent) : (s.setTrk d t n x).ctx b = s.ctx b := rfl
@[simp] theorem op_setTrk (d t n : Nat) (x : Tracker) (b : Agent) (k : Nat) : (s.setTrk d t n x).op b k = s.op b k := rfl
@[simp] theorem region_setTrk (d t n : Nat) (x : Tracker) (q : RegionId) : (s.setTrk d t n x).region q = s.region q := rfl
@[simp] theorem tile_setTrk (d t n : Nat) (x : Tracker) (e k : Nat) : (s.setTrk d t n x).tile e k = s.tile e k := rfl
@[simp] theorem gen_setTrk (d t n : Nat) (x : Tracker) (e k g' : Nat) : (s.setTrk d t n x).gen e k g' = s.gen e k g' := rfl
@[simp] theorem die_setTrk (d t n : Nat) (x : Tracker) (e : Nat) : (s.setTrk d t n x).die e = s.die e := rfl
@[simp] theorem task_setTrk (d t n : Nat) (x : Tracker) (m : Nat) : (s.setTrk d t n x).task m = s.task m := rfl
@[simp] theorem ctx_setDie (d : Nat) (x : Die) (b : Agent) : (s.setDie d x).ctx b = s.ctx b := rfl
@[simp] theorem op_setDie (d : Nat) (x : Die) (b : Agent) (k : Nat) : (s.setDie d x).op b k = s.op b k := rfl
@[simp] theorem region_setDie (d : Nat) (x : Die) (q : RegionId) : (s.setDie d x).region q = s.region q := rfl
@[simp] theorem tile_setDie (d : Nat) (x : Die) (e k : Nat) : (s.setDie d x).tile e k = s.tile e k := rfl
@[simp] theorem gen_setDie (d : Nat) (x : Die) (e k g' : Nat) : (s.setDie d x).gen e k g' = s.gen e k g' := rfl
@[simp] theorem trk_setDie (d : Nat) (x : Die) (e k m : Nat) : (s.setDie d x).trk e k m = s.trk e k m := rfl
@[simp] theorem task_setDie (d : Nat) (x : Die) (m : Nat) : (s.setDie d x).task m = s.task m := rfl
@[simp] theorem ctx_setTask (n : Nat) (x : Task) (b : Agent) : (s.setTask n x).ctx b = s.ctx b := rfl
@[simp] theorem op_setTask (n : Nat) (x : Task) (b : Agent) (k : Nat) : (s.setTask n x).op b k = s.op b k := rfl
@[simp] theorem region_setTask (n : Nat) (x : Task) (q : RegionId) : (s.setTask n x).region q = s.region q := rfl
@[simp] theorem tile_setTask (n : Nat) (x : Task) (e k : Nat) : (s.setTask n x).tile e k = s.tile e k := rfl
@[simp] theorem gen_setTask (n : Nat) (x : Task) (e k g' : Nat) : (s.setTask n x).gen e k g' = s.gen e k g' := rfl
@[simp] theorem trk_setTask (n : Nat) (x : Task) (e k m : Nat) : (s.setTask n x).trk e k m = s.trk e k m := rfl
@[simp] theorem die_setTask (n : Nat) (x : Task) (e : Nat) : (s.setTask n x).die e = s.die e := rfl
@[simp] theorem ctx_setVf (v : Nat) (x : Vf) (b : Agent) : (s.setVf v x).ctx b = s.ctx b := rfl
@[simp] theorem op_setVf (v : Nat) (x : Vf) (b : Agent) (k : Nat) : (s.setVf v x).op b k = s.op b k := rfl
@[simp] theorem region_setVf (v : Nat) (x : Vf) (q : RegionId) : (s.setVf v x).region q = s.region q := rfl
@[simp] theorem tile_setVf (v : Nat) (x : Vf) (e k : Nat) : (s.setVf v x).tile e k = s.tile e k := rfl
@[simp] theorem gen_setVf (v : Nat) (x : Vf) (e k g' : Nat) : (s.setVf v x).gen e k g' = s.gen e k g' := rfl
@[simp] theorem trk_setVf (v : Nat) (x : Vf) (e k m : Nat) : (s.setVf v x).trk e k m = s.trk e k m := rfl
@[simp] theorem die_setVf (v : Nat) (x : Vf) (e : Nat) : (s.setVf v x).die e = s.die e := rfl
@[simp] theorem task_setVf (v : Nat) (x : Vf) (m : Nat) : (s.setVf v x).task m = s.task m := rfl
@[simp] theorem ctx_setToll (o : Nat) (x : Toll) (b : Agent) : (s.setToll o x).ctx b = s.ctx b := rfl
@[simp] theorem op_setToll (o : Nat) (x : Toll) (b : Agent) (k : Nat) : (s.setToll o x).op b k = s.op b k := rfl
@[simp] theorem region_setToll (o : Nat) (x : Toll) (q : RegionId) : (s.setToll o x).region q = s.region q := rfl
@[simp] theorem tile_setToll (o : Nat) (x : Toll) (e k : Nat) : (s.setToll o x).tile e k = s.tile e k := rfl
@[simp] theorem gen_setToll (o : Nat) (x : Toll) (e k g' : Nat) : (s.setToll o x).gen e k g' = s.gen e k g' := rfl
@[simp] theorem trk_setToll (o : Nat) (x : Toll) (e k m : Nat) : (s.setToll o x).trk e k m = s.trk e k m := rfl
@[simp] theorem die_setToll (o : Nat) (x : Toll) (e : Nat) : (s.setToll o x).die e = s.die e := rfl
@[simp] theorem task_setToll (o : Nat) (x : Toll) (m : Nat) : (s.setToll o x).task m = s.task m := rfl

/-! ## Derived updates -/

theorem modCtx_eq (a : Agent) (f : Ctx → Ctx) : s.modCtx a f = s.setCtx a (f (s.ctx a)) := rfl
theorem modTile_eq (d t : Nat) (f : Tile → Tile) : s.modTile d t f = s.setTile d t (f (s.tile d t)) := rfl
theorem modDie_eq (d : Nat) (f : Die → Die) : s.modDie d f = s.setDie d (f (s.die d)) := rfl
@[simp] theorem ctx_modCtx (a : Agent) (f : Ctx → Ctx) : (s.modCtx a f).ctx a = f (s.ctx a) := by simp [modCtx_eq]
@[simp] theorem tile_modTile (d t : Nat) (f : Tile → Tile) : (s.modTile d t f).tile d t = f (s.tile d t) := by simp [modTile_eq]
@[simp] theorem die_modDie (d : Nat) (f : Die → Die) : (s.modDie d f).die d = f (s.die d) := by simp [modDie_eq]
@[simp] theorem modCtx_modCtx (a : Agent) (f g : Ctx → Ctx) : (s.modCtx a f).modCtx a g = s.modCtx a (fun c => g (f c)) := by
  simp [modCtx_eq]

/-- A region that a modified table lists is the modified region. -/
theorem region_modRegion (r : RegionId) (f : Region → Region) : (s.modRegion r f).region r = (s.region r).map f := by
  unfold region modRegion tmap
  cases h : tfind s.regions (regKey r) <;> simp [h]

/-- A task that a modified table lists is the modified task. -/
theorem task_modTask (n : Nat) (f : Task → Task) : (s.modTask n f).task n = (s.task n).map f := by
  unfold task modTask tmap
  cases h : tfind s.tasks n <;> simp [h]

@[simp] theorem modRegion_mem (r : RegionId) (f : Region → Region) : (s.modRegion r f).mem = s.mem := rfl
@[simp] theorem modRegion_poison (r : RegionId) (f : Region → Region) : (s.modRegion r f).poison = s.poison := rfl
@[simp] theorem modRegion_trimPoison (r : RegionId) (f : Region → Region) : (s.modRegion r f).trimPoison = s.trimPoison := rfl
@[simp] theorem modRegion_ctxs (r : RegionId) (f : Region → Region) : (s.modRegion r f).ctxs = s.ctxs := rfl
@[simp] theorem modRegion_ops (r : RegionId) (f : Region → Region) : (s.modRegion r f).ops = s.ops := rfl
@[simp] theorem modRegion_opSeq (r : RegionId) (f : Region → Region) : (s.modRegion r f).opSeq = s.opSeq := rfl
@[simp] theorem modRegion_elems (r : RegionId) (f : Region → Region) : (s.modRegion r f).elems = s.elems := rfl
@[simp] theorem modRegion_tiles (r : RegionId) (f : Region → Region) : (s.modRegion r f).tiles = s.tiles := rfl
@[simp] theorem modRegion_gens (r : RegionId) (f : Region → Region) : (s.modRegion r f).gens = s.gens := rfl
@[simp] theorem modRegion_trks (r : RegionId) (f : Region → Region) : (s.modRegion r f).trks = s.trks := rfl
@[simp] theorem modRegion_dies (r : RegionId) (f : Region → Region) : (s.modRegion r f).dies = s.dies := rfl
@[simp] theorem modRegion_tasks (r : RegionId) (f : Region → Region) : (s.modRegion r f).tasks = s.tasks := rfl
@[simp] theorem modRegion_pend (r : RegionId) (f : Region → Region) : (s.modRegion r f).pend = s.pend := rfl
@[simp] theorem modRegion_homeRecs (r : RegionId) (f : Region → Region) : (s.modRegion r f).homeRecs = s.homeRecs := rfl
@[simp] theorem modRegion_homeOut (r : RegionId) (f : Region → Region) : (s.modRegion r f).homeOut = s.homeOut := rfl
@[simp] theorem modRegion_homeHeld (r : RegionId) (f : Region → Region) : (s.modRegion r f).homeHeld = s.homeHeld := rfl
@[simp] theorem modRegion_arrivals (r : RegionId) (f : Region → Region) : (s.modRegion r f).arrivals = s.arrivals := rfl
@[simp] theorem modRegion_locks (r : RegionId) (f : Region → Region) : (s.modRegion r f).locks = s.locks := rfl
@[simp] theorem modRegion_migs (r : RegionId) (f : Region → Region) : (s.modRegion r f).migs = s.migs := rfl
@[simp] theorem modRegion_pools (r : RegionId) (f : Region → Region) : (s.modRegion r f).pools = s.pools := rfl
@[simp] theorem modRegion_access (r : RegionId) (f : Region → Region) : (s.modRegion r f).access = s.access := rfl
@[simp] theorem modRegion_pkg (r : RegionId) (f : Region → Region) : (s.modRegion r f).pkg = s.pkg := rfl
@[simp] theorem modRegion_sptab (r : RegionId) (f : Region → Region) : (s.modRegion r f).sptab = s.sptab := rfl
@[simp] theorem modRegion_shake (r : RegionId) (f : Region → Region) : (s.modRegion r f).shake = s.shake := rfl
@[simp] theorem modRegion_owners (r : RegionId) (f : Region → Region) : (s.modRegion r f).owners = s.owners := rfl
@[simp] theorem modRegion_qmap (r : RegionId) (f : Region → Region) : (s.modRegion r f).qmap = s.qmap := rfl
@[simp] theorem modRegion_mgbase (r : RegionId) (f : Region → Region) : (s.modRegion r f).mgbase = s.mgbase := rfl
@[simp] theorem modRegion_budget (r : RegionId) (f : Region → Region) : (s.modRegion r f).budget = s.budget := rfl
@[simp] theorem modRegion_tolls (r : RegionId) (f : Region → Region) : (s.modRegion r f).tolls = s.tolls := rfl
@[simp] theorem modRegion_vfs (r : RegionId) (f : Region → Region) : (s.modRegion r f).vfs = s.vfs := rfl
@[simp] theorem modRegion_ide (r : RegionId) (f : Region → Region) : (s.modRegion r f).ide = s.ide := rfl
@[simp] theorem modRegion_sriov (r : RegionId) (f : Region → Region) : (s.modRegion r f).sriov = s.sriov := rfl
@[simp] theorem modRegion_vfcfg (r : RegionId) (f : Region → Region) : (s.modRegion r f).vfcfg = s.vfcfg := rfl
@[simp] theorem modRegion_doe (r : RegionId) (f : Region → Region) : (s.modRegion r f).doe = s.doe := rfl
@[simp] theorem modRegion_hubMpoff (r : RegionId) (f : Region → Region) : (s.modRegion r f).hubMpoff = s.hubMpoff := rfl
@[simp] theorem modRegion_hubBars (r : RegionId) (f : Region → Region) : (s.modRegion r f).hubBars = s.hubBars := rfl
@[simp] theorem modRegion_power (r : RegionId) (f : Region → Region) : (s.modRegion r f).power = s.power := rfl
@[simp] theorem modRegion_hostOut (r : RegionId) (f : Region → Region) : (s.modRegion r f).hostOut = s.hostOut := rfl
@[simp] theorem modRegion_mapped (r : RegionId) (f : Region → Region) : (s.modRegion r f).mapped = s.mapped := rfl
@[simp] theorem modRegion_moves (r : RegionId) (f : Region → Region) : (s.modRegion r f).moves = s.moves := rfl
@[simp] theorem modRegion_cur (r : RegionId) (f : Region → Region) : (s.modRegion r f).cur = s.cur := rfl
@[simp] theorem modRegion_free (r : RegionId) (f : Region → Region) : (s.modRegion r f).free = s.free := rfl
@[simp] theorem modRegion_beat (r : RegionId) (f : Region → Region) : (s.modRegion r f).beat = s.beat := rfl
@[simp] theorem modTask_mem (n : Nat) (f : Task → Task) : (s.modTask n f).mem = s.mem := rfl
@[simp] theorem modTask_poison (n : Nat) (f : Task → Task) : (s.modTask n f).poison = s.poison := rfl
@[simp] theorem modTask_trimPoison (n : Nat) (f : Task → Task) : (s.modTask n f).trimPoison = s.trimPoison := rfl
@[simp] theorem modTask_ctxs (n : Nat) (f : Task → Task) : (s.modTask n f).ctxs = s.ctxs := rfl
@[simp] theorem modTask_ops (n : Nat) (f : Task → Task) : (s.modTask n f).ops = s.ops := rfl
@[simp] theorem modTask_opSeq (n : Nat) (f : Task → Task) : (s.modTask n f).opSeq = s.opSeq := rfl
@[simp] theorem modTask_regions (n : Nat) (f : Task → Task) : (s.modTask n f).regions = s.regions := rfl
@[simp] theorem modTask_elems (n : Nat) (f : Task → Task) : (s.modTask n f).elems = s.elems := rfl
@[simp] theorem modTask_tiles (n : Nat) (f : Task → Task) : (s.modTask n f).tiles = s.tiles := rfl
@[simp] theorem modTask_gens (n : Nat) (f : Task → Task) : (s.modTask n f).gens = s.gens := rfl
@[simp] theorem modTask_trks (n : Nat) (f : Task → Task) : (s.modTask n f).trks = s.trks := rfl
@[simp] theorem modTask_dies (n : Nat) (f : Task → Task) : (s.modTask n f).dies = s.dies := rfl
@[simp] theorem modTask_pend (n : Nat) (f : Task → Task) : (s.modTask n f).pend = s.pend := rfl
@[simp] theorem modTask_homeRecs (n : Nat) (f : Task → Task) : (s.modTask n f).homeRecs = s.homeRecs := rfl
@[simp] theorem modTask_homeOut (n : Nat) (f : Task → Task) : (s.modTask n f).homeOut = s.homeOut := rfl
@[simp] theorem modTask_homeHeld (n : Nat) (f : Task → Task) : (s.modTask n f).homeHeld = s.homeHeld := rfl
@[simp] theorem modTask_arrivals (n : Nat) (f : Task → Task) : (s.modTask n f).arrivals = s.arrivals := rfl
@[simp] theorem modTask_locks (n : Nat) (f : Task → Task) : (s.modTask n f).locks = s.locks := rfl
@[simp] theorem modTask_migs (n : Nat) (f : Task → Task) : (s.modTask n f).migs = s.migs := rfl
@[simp] theorem modTask_pools (n : Nat) (f : Task → Task) : (s.modTask n f).pools = s.pools := rfl
@[simp] theorem modTask_access (n : Nat) (f : Task → Task) : (s.modTask n f).access = s.access := rfl
@[simp] theorem modTask_pkg (n : Nat) (f : Task → Task) : (s.modTask n f).pkg = s.pkg := rfl
@[simp] theorem modTask_sptab (n : Nat) (f : Task → Task) : (s.modTask n f).sptab = s.sptab := rfl
@[simp] theorem modTask_shake (n : Nat) (f : Task → Task) : (s.modTask n f).shake = s.shake := rfl
@[simp] theorem modTask_owners (n : Nat) (f : Task → Task) : (s.modTask n f).owners = s.owners := rfl
@[simp] theorem modTask_qmap (n : Nat) (f : Task → Task) : (s.modTask n f).qmap = s.qmap := rfl
@[simp] theorem modTask_mgbase (n : Nat) (f : Task → Task) : (s.modTask n f).mgbase = s.mgbase := rfl
@[simp] theorem modTask_budget (n : Nat) (f : Task → Task) : (s.modTask n f).budget = s.budget := rfl
@[simp] theorem modTask_tolls (n : Nat) (f : Task → Task) : (s.modTask n f).tolls = s.tolls := rfl
@[simp] theorem modTask_vfs (n : Nat) (f : Task → Task) : (s.modTask n f).vfs = s.vfs := rfl
@[simp] theorem modTask_ide (n : Nat) (f : Task → Task) : (s.modTask n f).ide = s.ide := rfl
@[simp] theorem modTask_sriov (n : Nat) (f : Task → Task) : (s.modTask n f).sriov = s.sriov := rfl
@[simp] theorem modTask_vfcfg (n : Nat) (f : Task → Task) : (s.modTask n f).vfcfg = s.vfcfg := rfl
@[simp] theorem modTask_doe (n : Nat) (f : Task → Task) : (s.modTask n f).doe = s.doe := rfl
@[simp] theorem modTask_hubMpoff (n : Nat) (f : Task → Task) : (s.modTask n f).hubMpoff = s.hubMpoff := rfl
@[simp] theorem modTask_hubBars (n : Nat) (f : Task → Task) : (s.modTask n f).hubBars = s.hubBars := rfl
@[simp] theorem modTask_power (n : Nat) (f : Task → Task) : (s.modTask n f).power = s.power := rfl
@[simp] theorem modTask_hostOut (n : Nat) (f : Task → Task) : (s.modTask n f).hostOut = s.hostOut := rfl
@[simp] theorem modTask_mapped (n : Nat) (f : Task → Task) : (s.modTask n f).mapped = s.mapped := rfl
@[simp] theorem modTask_moves (n : Nat) (f : Task → Task) : (s.modTask n f).moves = s.moves := rfl
@[simp] theorem modTask_cur (n : Nat) (f : Task → Task) : (s.modTask n f).cur = s.cur := rfl
@[simp] theorem modTask_free (n : Nat) (f : Task → Task) : (s.modTask n f).free = s.free := rfl
@[simp] theorem modTask_beat (n : Nat) (f : Task → Task) : (s.modTask n f).beat = s.beat := rfl

end State
end Sys2Proof.Machine
end

