-- ==== Sys2Proof/Laws/Ops.lean ====
section
/-! SUPPORT. The shared operations, each said once: registers, the loop-end step, issuing a word, and taking a fault. -/

namespace Sys2Proof.Machine

/-! ## Registers -/

@[simp] theorem Ctx.getS_zero (c : Ctx) : c.getS 0 = 0 := rfl
@[simp] theorem Ctx.putS_zero (c : Ctx) (v : Word) : c.putS 0 v = c := rfl
theorem Ctx.getS_putS_same (c : Ctx) {n : SReg} (h : n ≠ 0) (v : Word) : (c.putS n v).getS n = v := by
  unfold Ctx.getS Ctx.putS
  rw [if_neg h, if_neg h]; exact tget_tset_same ..
theorem Ctx.getS_putS_other (c : Ctx) {n m : SReg} (h : m ≠ n) (v : Word) : (c.putS n v).getS m = c.getS m := by
  have hk : m.toNat ≠ n.toNat := fun e => h (BitVec.eq_of_toNat_eq e)
  unfold Ctx.getS Ctx.putS
  by_cases hm : m = 0
  · rw [if_pos hm, if_pos hm]
  · rw [if_neg hm, if_neg hm]
    by_cases hn : n = 0
    · rw [if_pos hn]
    · rw [if_neg hn]; exact tget_tset_other _ _ _ hk
@[simp] theorem Ctx.putS_pc (c : Ctx) (n : SReg) (v : Word) : (c.putS n v).pc = c.pc := by unfold Ctx.putS; split <;> rfl
@[simp] theorem Ctx.putS_loops (c : Ctx) (n : SReg) (v : Word) : (c.putS n v).loops = c.loops := by unfold Ctx.putS; split <;> rfl
@[simp] theorem Ctx.putS_p (c : Ctx) (n : SReg) (v : Word) : (c.putS n v).p = c.p := by unfold Ctx.putS; split <;> rfl
@[simp] theorem Ctx.putS_tok (c : Ctx) (n : SReg) (v : Word) : (c.putS n v).tok = c.tok := by unfold Ctx.putS; split <;> rfl
@[simp] theorem Ctx.putS_task (c : Ctx) (n : SReg) (v : Word) : (c.putS n v).task = c.task := by unfold Ctx.putS; split <;> rfl
@[simp] theorem Ctx.getTok_putTok (c : Ctx) (n : Nat) (v : Token) : (c.putTok n v).getTok n = v := by simp [Ctx.getTok, Ctx.putTok]
@[simp] theorem Ctx.getSch_putSch (c : Ctx) (n : Nat) (v : SchSlot) : (c.putSch n v).getSch n = v := by simp [Ctx.getSch, Ctx.putSch]
@[simp] theorem Ctx.getQ_putQ (c : Ctx) (n : Nat) (v : Stream) : (c.putQ n v).getQ n = v := by simp [Ctx.getQ, Ctx.putQ]

/-! ## The loop-end step -/

/-- With no loop that ends at the word, the PC advances by 8 and the loop stack stays. -/
theorem loopEnd_pass (e : Word) (ls : List LoopEntry) (c : Ctx) (h : ∀ l ∈ ls.head?, l.last ≠ e) :
    loopEnd e ls c = { c with loops := ls, pc := e + 8 } := by
  cases ls with
  | nil => rfl
  | cons l ls => simp [loopEnd, h l (by simp)]

/-- A loop that ends at the word and has a pass left goes back to its head, with its counter in the index register. -/
theorem loopEnd_again (e : Word) (l : LoopEntry) (ls : List LoopEntry) (c : Ctx) (h : l.last = e) (hi : (l.i + 1).toNat < l.n.toNat) :
    loopEnd e (l :: ls) c = { c with loops := { l with i := l.i + 1 } :: ls, pc := l.head }.putS l.xreg (l.i + 1) := by
  simp only [loopEnd, h, if_true, hi]

/-- A loop that ends at the word with no pass left is popped, and the loop below it is tried. -/
theorem loopEnd_done (e : Word) (l : LoopEntry) (ls : List LoopEntry) (c : Ctx) (h : l.last = e) (hi : ¬ (l.i + 1).toNat < l.n.toNat) :
    loopEnd e (l :: ls) c = loopEnd e ls c := by
  simp only [loopEnd, h, if_true, hi, if_false]

/-! ## Issue -/

@[simp] theorem noteIssue_ctx (s : State) (u v : Agent) : (noteIssue s u).ctx v = s.ctx v := by cases u <;> rfl
@[simp] theorem noteIssue_mem (s : State) (u : Agent) : (noteIssue s u).mem = s.mem := by cases u <;> rfl
@[simp] theorem noteIssue_dies (s : State) (u : Agent) : (noteIssue s u).dies = s.dies := by cases u <;> rfl
@[simp] theorem noteIssue_tasks (s : State) (u : Agent) : (noteIssue s u).tasks = s.tasks := by cases u <;> rfl
@[simp] theorem noteIssue_regions (s : State) (u : Agent) : (noteIssue s u).regions = s.regions := by cases u <;> rfl
@[simp] theorem noteIssue_ctxs (s : State) (u : Agent) : (noteIssue s u).ctxs = s.ctxs := by cases u <;> rfl
@[simp] theorem noteIssue_getS (s : State) (u v : Agent) (n : SReg) : (noteIssue s u).getS v n = s.getS v n := by simp [State.getS]
@[simp] theorem noteIssue_getP (s : State) (u v : Agent) (n : PReg) : (noteIssue s u).getP v n = s.getP v n := by simp [State.getP]

/-- A word whose guard holds and whose effect is done retires. -/
theorem runStrand_ok {g : Guard} {s t : State} {u : Agent} {f : State → Agent → Res} (hi : s.issuer = some u)
    (hg : guardHolds (s.ctx u) g = true) (hf : f (noteIssue s u) u = .ok t) : runStrand g s f = .next (t.retire u) := by
  simp [runStrand, hi, issueAs, hg, hf]

/-- A word whose guard holds and that transfers control sets the PC. -/
theorem runStrand_taken {g : Guard} {s t : State} {u : Agent} {pc : Word} {f : State → Agent → Res} (hi : s.issuer = some u)
    (hg : guardHolds (s.ctx u) g = true) (hf : f (noteIssue s u) u = .taken t pc) :
    runStrand g s f = .next ((endProbes t u).modCtx u (fun c => { c with pc := pc })) := by
  simp [runStrand, hi, issueAs, hg, hf]

/-- A word whose guard holds and that faults takes its fault. -/
theorem runStrand_fault {g : Guard} {s t : State} {u : Agent} {x : FaultInfo} {f : State → Agent → Res} (hi : s.issuer = some u)
    (hg : guardHolds (s.ctx u) g = true) (hf : f (noteIssue s u) u = .fault t x) : runStrand g s f = .next (takeFault t u x) := by
  simp [runStrand, hi, issueAs, hg, hf]

/-- A word whose guard holds and that waits leaves the state it waits in. -/
theorem runStrand_wait {g : Guard} {s t : State} {u : Agent} {f : State → Agent → Res} (hi : s.issuer = some u)
    (hg : guardHolds (s.ctx u) g = true) (hf : f (noteIssue s u) u = .wait t) : runStrand g s f = .next t := by
  simp [runStrand, hi, issueAs, hg, hf]

/-- A word whose guard fails only retires. -/
theorem runStrand_guard {g : Guard} {s : State} {u : Agent} (f : State → Agent → Res) (hi : s.issuer = some u)
    (hg : guardHolds (s.ctx u) g = false) : runStrand g s f = .next ((noteIssue s u).retire u) := by
  simp [runStrand, hi, issueAs, hg]

/-- With no agent ready, a strand word changes nothing. -/
theorem runStrand_idle {g : Guard} {s : State} (f : State → Agent → Res) (hi : s.issuer = none) : runStrand g s f = .next s := by
  simp [runStrand, hi]

/-- Everything that issuing a word can come to. -/
theorem runStrand_cases {g : Guard} {s t : State} {f : State → Agent → Res} (h : runStrand g s f = .next t) :
    (s.issuer = none ∧ t = s) ∨
    ∃ u, s.issuer = some u ∧
      ((guardHolds (s.ctx u) g = false ∧ t = (noteIssue s u).retire u) ∨
       (guardHolds (s.ctx u) g = true ∧
        ((∃ r, f (noteIssue s u) u = .ok r ∧ t = r.retire u) ∨
         (∃ r pc, f (noteIssue s u) u = .taken r pc ∧ t = (endProbes r u).modCtx u (fun c => { c with pc := pc })) ∨
         (∃ r x, f (noteIssue s u) u = .fault r x ∧ t = takeFault r u x) ∨
         f (noteIssue s u) u = .wait t))) := by
  cases hi : s.issuer with
  | none => left; simpa [runStrand, hi, eq_comm] using h
  | some u =>
    refine .inr ⟨u, rfl, ?_⟩
    cases hg : guardHolds (s.ctx u) g with
    | false => left; simpa [runStrand, hi, issueAs, hg, eq_comm] using h
    | true =>
      right
      refine ⟨rfl, ?_⟩
      have e : ∀ x, f (noteIssue s u) u = x → runStrand g s f = .next (match x with
          | .ok s2 => s2.retire u
          | .taken s2 pc => (endProbes s2 u).modCtx u (fun c => { c with pc := pc })
          | .fault s2 x => takeFault s2 u x
          | .wait s2 => s2) := by
        intro x hx; cases x <;> simp [runStrand, hi, issueAs, hg, hx]
      cases hf : f (noteIssue s u) u with
      | ok r => exact .inl ⟨r, rfl, by have := e _ hf; rw [h] at this; exact Host.Outcome.next.inj this⟩
      | taken r pc => exact .inr (.inl ⟨r, pc, rfl, by have := e _ hf; rw [h] at this; exact Host.Outcome.next.inj this⟩)
      | fault r x => exact .inr (.inr (.inl ⟨r, x, rfl, by have := e _ hf; rw [h] at this; exact Host.Outcome.next.inj this⟩))
      | wait r => exact .inr (.inr (.inr (by have := e _ hf; rw [h] at this; rw [Host.Outcome.next.inj this])))

/-! ## Faults -/

/-- The first fault of a hub core: what it had issued is abandoned, and its handler's registers and its vector are set. -/
theorem hubEnter_first (s : State) (d k : Nat) (f : FaultInfo) (h : (s.ctx (.hub d k)).hstat = false) :
    hubEnter s d k f = (abandonPend s (.hub d k)).setCtx (.hub d k) { s.ctx (.hub d k) with
      hepc := (s.ctx (.hub d k)).pc, hcause := BitVec.ofNat 64 (f.cls * 256 + f.detail), hfaddr := f.addr, hstat := true
      stall := .none, pc := (s.ctx (.hub d k)).htvec &&& ~~~7#64 } := by
  simp [hubEnter, h]

end Sys2Proof.Machine
end

