-- ==== Sys2Proof/Laws/Memory.lean ====
section
/-! SUPPORT. Every operation on memory keeps its canonical form; translation, routing, counting and reads leave memory alone. -/

namespace Sys2Proof.Machine

/-- A state with the memory of another one in canonical form has it in canonical form. -/
theorem wf_of_eq {s t : State} (e : t.mem = s.mem) (h : s.mem.wf = true) : t.mem.wf = true := by rw [e]; exact h

/-! ## Operations that leave memory alone -/

theorem foldl_mem {β : Type} (f : State → β → State) (hf : ∀ s b, (f s b).mem = s.mem) (l : List β) (s : State) :
    (l.foldl f s).mem = s.mem := by
  induction l generalizing s with
  | nil => rfl
  | cons b l ih => rw [List.foldl_cons, ih, hf]

@[simp] theorem modCtx_mem (s : State) (a : Agent) (f : Ctx → Ctx) : (s.modCtx a f).mem = s.mem := rfl
@[simp] theorem modTile_mem (s : State) (d t : Nat) (f : Tile → Tile) : (s.modTile d t f).mem = s.mem := rfl
@[simp] theorem modDie_mem (s : State) (d : Nat) (f : Die → Die) : (s.modDie d f).mem = s.mem := rfl
@[simp] theorem retire_mem (s : State) (a : Agent) : (s.retire a).mem = s.mem := rfl
@[simp] theorem putS_mem (s : State) (a : Agent) (n : SReg) (v : Word) : (s.putS a n v).mem = s.mem := rfl
@[simp] theorem endStall_mem (s : State) (a : Agent) : (s.endStall a).mem = s.mem := rfl
@[simp] theorem stallOn_mem (s : State) (a : Agent) (w : Stall) : (s.stallOn a w).mem = s.mem := rfl

@[simp] theorem tlbInstall_mem (s : State) (d : Nat) (cl : Option Nat) (o : Nat) (va : Word) (l : Leaf) :
    (tlbInstall s d cl o va l).mem = s.mem := rfl

@[simp] theorem joinWalk_mem (s : State) (d i : Nat) (cl : Option Nat) : (joinWalk s d i cl).mem = s.mem := rfl
@[simp] theorem queueWalk_mem (s : State) (d o : Nat) (va : Word) (cl : Option Nat) : (queueWalk s d o va cl).mem = s.mem := rfl

@[simp] theorem installAll_mem (s : State) (d o : Nat) (va : Word) (l : Leaf) (cls : List Nat) : (installAll s d o va l cls).mem = s.mem := by
  cases cls with
  | nil => rfl
  | cons c cs => exact (foldl_mem (fun s c => tlbInstall s d (some c) o va l) (fun _ _ => rfl) cs _).trans rfl

theorem walkNow_mem (s : State) (d o : Nat) (va : Word) (n : Nat) (cls : List Nat) : (walkNow s d o va n cls).1.mem = s.mem := by
  unfold walkNow
  split
  · rfl
  · rfl
  · split
    · rfl
    · simp

theorem missWalk_mem (s : State) (d o : Nat) (va : Word) (n : Nat) (cl : Option Nat) : (missWalk s d o va n cl).1.mem = s.mem := by
  unfold missWalk
  split
  · dsimp only
    split
    · rfl
    · rw [walkNow_mem]; rfl
  · split
    · rfl
    · exact walkNow_mem ..

theorem translate_mem (s : State) (q : Req) (need : Need) (va : Word) (n : Nat) : (translate s q need va n).1.mem = s.mem := by
  unfold translate
  dsimp only
  split
  · rfl
  · split
    · rfl
    · have h := missWalk_mem s q.agent.die q.owner va n (if q.engine then none else some (clusterOf q.agent.tile))
      split <;> (next e => rw [e] at h; exact h)

theorem routePart_mem (s : State) (q : Req) (need : Need) (a : Word) (n : Nat) : (routePart s q need a n).1.mem = s.mem := by
  unfold routePart
  repeat' (first | rfl | exact translate_mem .. | split)

theorem routeParts_mem (q : Req) (need : Need) (ps : List (Word × Nat)) (s : State) : (routeParts s q need ps).1.mem = s.mem := by
  induction ps generalizing s with
  | nil => rfl
  | cons p ps ih =>
    obtain ⟨a, n⟩ := p
    have h1 := routePart_mem s q need a n
    simp only [routeParts]
    split
    · next h => rw [h] at h1; exact h1
    · next h => rw [h] at h1; exact h1
    · next s1 p h =>
      rw [h] at h1
      have h2 := ih s1
      split <;> (next h => rw [h] at h2; exact h2.trans h1)

/-- Routing an access leaves memory as it was. -/
theorem route_mem (s : State) (q : Req) (need : Need) (a : Word) (n : Nat) : (route s q need a n).1.mem = s.mem :=
  routeParts_mem ..

@[simp] theorem countPlace_mem (s : State) (q : Req) (p : Place) : (countPlace s q p).mem = s.mem := by
  unfold countPlace
  repeat' (first | rfl | split)

@[simp] theorem countPlaces_mem (q : Req) (ps : List Place) (s : State) : (countPlaces s q ps).mem = s.mem := by
  induction ps generalizing s with
  | nil => rfl
  | cons p ps ih => rw [countPlaces, ih, countPlace_mem]

@[simp] theorem noteProbe_mem (s : State) (q : Req) (a : Word) (n : Nat) (ps : List Place) (bs : List Byte) :
    (noteProbe s q a n ps bs).mem = s.mem := by
  unfold noteProbe
  split <;> rfl

@[simp] theorem addPend_mem (s : State) (p : Pending) : (addPend s p).mem = s.mem := rfl
@[simp] theorem dropProbes_mem (s : State) (q : Req) : (dropProbes s q).mem = s.mem := rfl
@[simp] theorem clearProbes_mem (s : State) (a : Agent) (t : Nat) : (clearProbes s a t).mem = s.mem := rfl
@[simp] theorem endProbes_mem (s : State) (a : Agent) : (endProbes s a).mem = s.mem := rfl
@[simp] theorem waiting_mem (s t : State) : (s.waiting t).mem = s.mem := by
  unfold State.waiting; exact (foldl_mem (fun s d => s.modDie d (fun y => { y with walks := (t.die d).walks })) (fun _ _ => rfl) _ _).trans rfl

theorem readNeed_mem (s : State) (q : Req) (need : Need) (a : Word) (n : Nat) : (readNeed s q need a n).1.mem = s.mem := by
  have h1 := route_mem s q need a n
  unfold readNeed
  split
  · next h => rw [h] at h1; exact h1
  · next h => rw [h] at h1; exact h1
  · next s1 ps h =>
    rw [h] at h1
    split
    · rw [noteProbe_mem]; exact h1
    · split
      · exact h1
      · rw [countPlaces_mem]; exact h1

/-- A read of memory leaves memory as it was. -/
theorem readGen_mem (s : State) (q : Req) (a : Word) (n : Nat) : (readGen s q a n).1.mem = s.mem := readNeed_mem ..

theorem readLoads_mem (q : Req) (n : Nat) (s : State) (a : Word) : (readLoads s q a n).1.mem = s.mem := by
  induction n generalizing s a with
  | zero => rfl
  | succ n ih =>
    have h1 := readGen_mem s q a 8
    simp only [readLoads]
    split
    · next h => rw [h] at h1; exact h1
    · next h => rw [h] at h1; exact h1
    · next s1 x h =>
      rw [h] at h1
      have h2 := ih s1 (a + 8)
      split
      · next h => rw [h] at h2; exact h2.trans h1
      · next h => rw [h] at h2; exact h2.trans h1
      · exact waiting_mem ..

/-! ## What a write starts -/

theorem startPorts_mem (s : State) (d off n : Nat) : (startPorts s d off n).mem = s.mem := by
  refine foldl_mem _ (fun s t => ?_) _ _
  dsimp only
  split <;> rfl

@[simp] theorem afterWrite_mem (s : State) (loc n : Nat) : (afterWrite s loc n).mem = s.mem := by
  unfold afterWrite
  dsimp only
  split
  · exact startPorts_mem ..
  · rfl

@[simp] theorem keepBusy_length (s : State) (loc : Nat) (bs : List Byte) : (keepBusy s loc bs).length = bs.length := by
  induction bs generalizing loc with
  | nil => rfl
  | cons b bs ih => simp [keepBusy, ih]

/-- Outside the mailboxes of configuration ports with a command in progress a write leaves the bytes it is given. -/
theorem keepBusy_free (s : State) (loc : Nat) (bs : List Byte) (h : ∀ i, i < bs.length → boxBusy s (loc + i) = false) : keepBusy s loc bs = bs := by
  induction bs generalizing loc with
  | nil => rfl
  | cons b bs ih =>
    have h0 := h 0 (by simp)
    have h1 := ih (loc + 1) (fun i hi => by have := h (i + 1) (by simpa using hi); rwa [Nat.add_assoc, Nat.add_comm 1 i])
    simp only [Nat.add_zero] at h0
    simp [keepBusy, h0, h1]

/-- A write of bytes at a location writes exactly them, but for those in a mailbox whose port has a command in progress (R379). -/
@[simp] theorem writeLoc_mem (s : State) (loc : Nat) (bs : List Byte) : (writeLoc s loc bs).mem = mwrite s.mem loc (keepBusy s loc bs) := by
  simp [writeLoc, putBytes]

/-- A write of bytes at a location leaves every other byte as it was. -/
theorem writeLoc_other (s : State) {loc c : Nat} (bs : List Byte) (h : c < loc ∨ loc + bs.length ≤ c) :
    mget (writeLoc s loc bs).mem c = mget s.mem c := by
  rw [writeLoc_mem, mget_mwrite_other _ _ (by rwa [keepBusy_length])]

/-! ## The canonical form -/

theorem wf_writeLoc {s : State} (h : s.mem.wf = true) (loc : Nat) (bs : List Byte) : (writeLoc s loc bs).mem.wf = true := by
  rw [writeLoc_mem]; exact wf_mwrite h loc _

theorem wf_writePlaces (ps : List Place) {s : State} (h : s.mem.wf = true) (bs : List Byte) : (writePlaces s ps bs).mem.wf = true := by
  induction ps generalizing s bs with
  | nil => exact h
  | cons p ps ih => exact ih (wf_writeLoc h _ _) _

/-- An engine's write keeps the canonical form, whatever it comes to. -/
theorem wf_writeGen {s : State} (h : s.mem.wf = true) (q : Req) (a : Word) (bs : List Byte) : (writeGen s q a bs).1.mem.wf = true := by
  have h1 := route_mem s q .store a bs.length
  unfold writeGen
  split
  · next e => rw [e] at h1; exact wf_of_eq h1 h
  · next e => rw [e] at h1; exact wf_of_eq h1 h
  · next s1 ps e =>
    rw [e] at h1
    have hw : s1.mem.wf = true := wf_of_eq h1 h
    split
    · rw [noteProbe_mem]; exact hw
    · split
      · exact hw
      · rw [countPlaces_mem]; exact wf_writePlaces ps hw bs

theorem wf_moveBytes (m0 : Memory) (l : List (Nat × Nat)) (free w : Nat) {m : Memory} (h : m.wf = true) :
    (moveBytes m0 free w m l).1.wf = true := by
  induction l generalizing free w m with
  | nil => exact h
  | cons e l ih =>
    obtain ⟨a, b⟩ := e
    exact ih _ _ (wf_mset h _ _)

/-- A copied row keeps the canonical form. -/
theorem wf_copyRow {s : State} (h : s.mem.wf = true) (m0 : Memory) (q : Req) (sa da : Word) (n : Nat) :
    (copyRow m0 s q sa da n).1.mem.wf = true := by
  have h1 := route_mem s q .load sa n
  unfold copyRow
  split
  · next e => rw [e] at h1; exact wf_of_eq h1 h
  · next e => rw [e] at h1; exact wf_of_eq h1 h
  · next s1 ps e =>
    rw [e] at h1
    have hw : s1.mem.wf = true := wf_of_eq h1 h
    split
    · rw [noteProbe_mem]; exact hw
    · split
      · exact hw
      · have h2 := route_mem s1 q .store da n
        split
        · next e2 => rw [e2] at h2; exact wf_of_eq h2 hw
        · next e2 => rw [e2] at h2; exact wf_of_eq h2 hw
        · next s2 pd e2 =>
          rw [e2] at h2
          have hw2 : s2.mem.wf = true := wf_of_eq h2 hw
          split
          · rw [noteProbe_mem]; exact hw2
          · split
            · exact hw2
            · dsimp only
              rw [countPlaces_mem, countPlaces_mem, foldl_mem _ (fun s p => afterWrite_mem ..)]
              exact wf_moveBytes _ _ _ _ hw2

/-- Copying a page to another frame keeps the canonical form. -/
theorem wf_copyFrame {s : State} (h : s.mem.wf = true) (old new n : Nat) : (copyFrame s old new n).mem.wf = true := by
  unfold copyFrame
  have : ∀ (l : List Host.Cell) (m : Memory), m.wf = true →
      (l.foldl (fun m c => mset m (new + (c.1 - old)) c.2) m).wf = true := by
    intro l
    induction l with
    | nil => exact fun _ h => h
    | cons c l ih => exact fun m hm => ih _ (wf_mset hm _ _)
  exact this _ _ (wf_mclear h _ _)

theorem wf_clearRanges (rs : List (Nat × Nat)) {m : Memory} (h : m.wf = true) :
    (rs.foldl (fun m r => mclear m r.1 (r.1 + r.2)) m).wf = true := by
  induction rs generalizing m with
  | nil => exact h
  | cons r rs ih => exact ih (wf_mclear h _ _)

/-- Zeroing the buffers of a placement keeps the canonical form. -/
theorem wf_clearBuffers {s : State} (h : s.mem.wf = true) (ts slices : List (Nat × Nat)) : (clearBuffers ts slices s).mem.wf = true :=
  wf_clearRanges _ h

/-- Zeroing the buffers of a task that leaves keeps the canonical form. -/
theorem wf_zeroBuffers {s : State} (h : s.mem.wf = true) (k : Task) : (zeroBuffers s k).mem.wf = true := wf_clearRanges _ h

/-- Performing an access keeps the canonical form. -/
theorem wf_performAt {s : State} (h : s.mem.wf = true) (q : Req) (k : AccKind) (addr : Word) (n : Nat) (ps : List Place) :
    (performAt s q k addr n ps).1.mem.wf = true := by
  have hc : (countPlaces s q ps).mem.wf = true := by rwa [countPlaces_mem]
  unfold performAt
  split
  · exact h
  · cases k with
    | probe t => exact h
    | device => exact h
    | store bs => exact wf_writePlaces ps hc bs
    | load d pair => exact hc
    | atom aop d v => exact wf_writePlaces ps hc _
    | cas d e w =>
      dsimp only
      rw [putS_mem]
      split
      · exact wf_writePlaces ps hc _
      · exact hc

end Sys2Proof.Machine
end

