-- ==== Sys2Proof/Laws/PerInstr.lean ====
section
/-! SUPPORT. The statements made per instruction: decoding the word of a well-formed instruction gives it back. -/

namespace Sys2Proof.Laws.RoundTrip

set_option Elab.async false
set_option linter.unusedSimpArgs false

open Sys2Proof Sys2Proof.Enc

/-- Decoding an instruction's own word gives the instruction, read as the agent that may issue it reads it (R18-R24,
R29). -/
def Statement (i : Instr) : Prop :=
  wellFormed i = true →
    (∀ w, encodeStrand i = some w → decodeStrand (hubOnly i) w = .ok i) ∧
      (∀ w, encodePattern i = some w → decodePattern w = some i)

theorem ofStrand {i : Instr} {f : StrandFields} (h1 : encodeFields i = some f) (h2 : encodePatternFields i = none)
    (ha : opcAssigned f.opc.toNat = true)
    (h : wellFormed i = true → (opcHub f.opc.toNat && !hubOnly i) = false ∧ (opcTile f.opc.toNat && hubOnly i) = false ∧
      decodeByOpc (hubOnly i) f = .ok i) : Statement i := by
  intro hw
  refine ⟨fun w e => ?_, fun w e => ?_⟩
  · simp only [encodeStrand, h1, Option.map_some, Option.some.injEq] at e
    rw [← e, decodeStrand_word _ _ ha (h hw).1 (h hw).2.1, (h hw).2.2]
  · simp [encodePattern, h2] at e

theorem ofPattern {i : Instr} {f : PatternFields} (h1 : encodeFields i = none) (h2 : encodePatternFields i = some f)
    (h : decodePatternOp f = some i) : Statement i := by
  intro hw
  refine ⟨fun w e => ?_, fun w e => ?_⟩
  · simp [encodeStrand, h1] at e
  · simp only [encodePattern, h2, Option.map_some, Option.some.injEq] at e
    simp [← e, decodePattern, h, hw]

theorem ofEvent {i : Instr} (h1 : encodeFields i = none) (h2 : encodePatternFields i = none) : Statement i := by
  intro _
  exact ⟨fun w e => by simp [encodeStrand, h1] at e, fun w e => by simp [encodePattern, h2] at e⟩

theorem nop (g : Guard) : Statement (.nop g) := by
  refine ofStrand rfl rfl rfl (fun h => ⟨rfl, rfl, (decode_00 _ _ rfl).trans ?_⟩)
  simp_all [-Nat.reduceAdd, -BitVec.getLsbD_eq_getElem, -BitVec.extractLsb'_toNat, wellFormed, base, decodeBare,
      decodeChecks]

theorem add (g : Guard) (d a : SReg) (b : Src) : Statement (.add g d a b) := by
  cases b <;> 
    refine ofStrand rfl rfl rfl (fun h => ⟨rfl, rfl, (decode_01 _ _ rfl).trans ?_⟩) <;>
  simp_all [-Nat.reduceAdd, -BitVec.getLsbD_eq_getElem, -BitVec.extractLsb'_toNat, wellFormed, alu, base, decodeAlu,
      decodeChecks, StrandFields.srsiReserved, StrandFields.si, StrandFields.src]

theorem sub (g : Guard) (d a : SReg) (b : Src) : Statement (.sub g d a b) := by
  cases b <;> 
    refine ofStrand rfl rfl rfl (fun h => ⟨rfl, rfl, (decode_02 _ _ rfl).trans ?_⟩) <;>
  simp_all [-Nat.reduceAdd, -BitVec.getLsbD_eq_getElem, -BitVec.extractLsb'_toNat, wellFormed, alu, base, decodeAlu,
      decodeChecks, StrandFields.srsiReserved, StrandFields.si, StrandFields.src]

theorem mul (g : Guard) (d a : SReg) (b : Src) : Statement (.mul g d a b) := by
  cases b <;> 
    refine ofStrand rfl rfl rfl (fun h => ⟨rfl, rfl, (decode_03 _ _ rfl).trans ?_⟩) <;>
  simp_all [-Nat.reduceAdd, -BitVec.getLsbD_eq_getElem, -BitVec.extractLsb'_toNat, wellFormed, alu, base, decodeAlu,
      decodeChecks, StrandFields.srsiReserved, StrandFields.si, StrandFields.src]

theorem mulh (g : Guard) (sgn : Bool) (d a : SReg) (b : Src) : Statement (.mulh g sgn d a b) := by
  cases b <;> 
    refine ofStrand rfl rfl rfl (fun h => ⟨rfl, rfl, (decode_04 _ _ rfl).trans ?_⟩) <;>
  cases sgn <;> simp_all [bit, -Nat.reduceAdd, -BitVec.getLsbD_eq_getElem, -BitVec.extractLsb'_toNat, wellFormed, alu, base,
      decodeAluS, decodeChecks, StrandFields.srsiReserved, StrandFields.si, StrandFields.src, StrandFields.fn0,
      extract_low, BitVec.getLsbD_append]

theorem div (g : Guard) (sgn : Bool) (d a : SReg) (b : Src) : Statement (.div g sgn d a b) := by
  cases b <;> 
    refine ofStrand rfl rfl rfl (fun h => ⟨rfl, rfl, (decode_05 _ _ rfl).trans ?_⟩) <;>
  cases sgn <;> simp_all [bit, -Nat.reduceAdd, -BitVec.getLsbD_eq_getElem, -BitVec.extractLsb'_toNat, wellFormed, alu, base,
      decodeAluS, decodeChecks, StrandFields.srsiReserved, StrandFields.si, StrandFields.src, StrandFields.fn0,
      extract_low, BitVec.getLsbD_append]

theorem rem (g : Guard) (sgn : Bool) (d a : SReg) (b : Src) : Statement (.rem g sgn d a b) := by
  cases b <;> 
    refine ofStrand rfl rfl rfl (fun h => ⟨rfl, rfl, (decode_06 _ _ rfl).trans ?_⟩) <;>
  cases sgn <;> simp_all [bit, -Nat.reduceAdd, -BitVec.getLsbD_eq_getElem, -BitVec.extractLsb'_toNat, wellFormed, alu, base,
      decodeAluS, decodeChecks, StrandFields.srsiReserved, StrandFields.si, StrandFields.src, StrandFields.fn0,
      extract_low, BitVec.getLsbD_append]

theorem and (g : Guard) (d a : SReg) (b : Src) : Statement (.and g d a b) := by
  cases b <;> 
    refine ofStrand rfl rfl rfl (fun h => ⟨rfl, rfl, (decode_07 _ _ rfl).trans ?_⟩) <;>
  simp_all [-Nat.reduceAdd, -BitVec.getLsbD_eq_getElem, -BitVec.extractLsb'_toNat, wellFormed, alu, base, decodeAlu,
      decodeChecks, StrandFields.srsiReserved, StrandFields.si, StrandFields.src]

theorem or (g : Guard) (d a : SReg) (b : Src) : Statement (.or g d a b) := by
  cases b <;> 
    refine ofStrand rfl rfl rfl (fun h => ⟨rfl, rfl, (decode_08 _ _ rfl).trans ?_⟩) <;>
  simp_all [-Nat.reduceAdd, -BitVec.getLsbD_eq_getElem, -BitVec.extractLsb'_toNat, wellFormed, alu, base, decodeAlu,
      decodeChecks, StrandFields.srsiReserved, StrandFields.si, StrandFields.src]

theorem xor (g : Guard) (d a : SReg) (b : Src) : Statement (.xor g d a b) := by
  cases b <;> 
    refine ofStrand rfl rfl rfl (fun h => ⟨rfl, rfl, (decode_09 _ _ rfl).trans ?_⟩) <;>
  simp_all [-Nat.reduceAdd, -BitVec.getLsbD_eq_getElem, -BitVec.extractLsb'_toNat, wellFormed, alu, base, decodeAlu,
      decodeChecks, StrandFields.srsiReserved, StrandFields.si, StrandFields.src]

theorem andn (g : Guard) (d a : SReg) (b : Src) : Statement (.andn g d a b) := by
  cases b <;> 
    refine ofStrand rfl rfl rfl (fun h => ⟨rfl, rfl, (decode_0A _ _ rfl).trans ?_⟩) <;>
  simp_all [-Nat.reduceAdd, -BitVec.getLsbD_eq_getElem, -BitVec.extractLsb'_toNat, wellFormed, alu, base, decodeAlu,
      decodeChecks, StrandFields.srsiReserved, StrandFields.si, StrandFields.src]

theorem shl (g : Guard) (d a : SReg) (b : Src) : Statement (.shl g d a b) := by
  cases b <;> 
    refine ofStrand rfl rfl rfl (fun h => ⟨rfl, rfl, (decode_0B _ _ rfl).trans ?_⟩) <;>
  simp_all [-Nat.reduceAdd, -BitVec.getLsbD_eq_getElem, -BitVec.extractLsb'_toNat, wellFormed, alu, base, decodeAlu,
      decodeChecks, StrandFields.srsiReserved, StrandFields.si, StrandFields.src]

theorem shr (g : Guard) (d a : SReg) (b : Src) : Statement (.shr g d a b) := by
  cases b <;> 
    refine ofStrand rfl rfl rfl (fun h => ⟨rfl, rfl, (decode_0C _ _ rfl).trans ?_⟩) <;>
  simp_all [-Nat.reduceAdd, -BitVec.getLsbD_eq_getElem, -BitVec.extractLsb'_toNat, wellFormed, alu, base, decodeAlu,
      decodeChecks, StrandFields.srsiReserved, StrandFields.si, StrandFields.src]

theorem sar (g : Guard) (d a : SReg) (b : Src) : Statement (.sar g d a b) := by
  cases b <;> 
    refine ofStrand rfl rfl rfl (fun h => ⟨rfl, rfl, (decode_0D _ _ rfl).trans ?_⟩) <;>
  simp_all [-Nat.reduceAdd, -BitVec.getLsbD_eq_getElem, -BitVec.extractLsb'_toNat, wellFormed, alu, base, decodeAlu,
      decodeChecks, StrandFields.srsiReserved, StrandFields.si, StrandFields.src]

theorem rot (g : Guard) (d a : SReg) (b : Src) : Statement (.rot g d a b) := by
  cases b <;> 
    refine ofStrand rfl rfl rfl (fun h => ⟨rfl, rfl, (decode_0E _ _ rfl).trans ?_⟩) <;>
  simp_all [-Nat.reduceAdd, -BitVec.getLsbD_eq_getElem, -BitVec.extractLsb'_toNat, wellFormed, alu, base, decodeAlu,
      decodeChecks, StrandFields.srsiReserved, StrandFields.si, StrandFields.src]

theorem min (g : Guard) (sgn : Bool) (d a : SReg) (b : Src) : Statement (.min g sgn d a b) := by
  cases b <;> 
    refine ofStrand rfl rfl rfl (fun h => ⟨rfl, rfl, (decode_0F _ _ rfl).trans ?_⟩) <;>
  cases sgn <;> simp_all [bit, -Nat.reduceAdd, -BitVec.getLsbD_eq_getElem, -BitVec.extractLsb'_toNat, wellFormed, alu, base,
      decodeAluS, decodeChecks, StrandFields.srsiReserved, StrandFields.si, StrandFields.src, StrandFields.fn0,
      extract_low, BitVec.getLsbD_append]

theorem max (g : Guard) (sgn : Bool) (d a : SReg) (b : Src) : Statement (.max g sgn d a b) := by
  cases b <;> 
    refine ofStrand rfl rfl rfl (fun h => ⟨rfl, rfl, (decode_10 _ _ rfl).trans ?_⟩) <;>
  cases sgn <;> simp_all [bit, -Nat.reduceAdd, -BitVec.getLsbD_eq_getElem, -BitVec.extractLsb'_toNat, wellFormed, alu, base,
      decodeAluS, decodeChecks, StrandFields.srsiReserved, StrandFields.si, StrandFields.src, StrandFields.fn0,
      extract_low, BitVec.getLsbD_append]

theorem clz (g : Guard) (d a : SReg) : Statement (.clz g d a) := by
  refine ofStrand rfl rfl rfl (fun h => ⟨rfl, rfl, (decode_11 _ _ rfl).trans ?_⟩)
  simp_all [-Nat.reduceAdd, -BitVec.getLsbD_eq_getElem, -BitVec.extractLsb'_toNat, wellFormed, base, decodeUnary,
      decodeChecks, StrandFields.si]

theorem ctz (g : Guard) (d a : SReg) : Statement (.ctz g d a) := by
  refine ofStrand rfl rfl rfl (fun h => ⟨rfl, rfl, (decode_12 _ _ rfl).trans ?_⟩)
  simp_all [-Nat.reduceAdd, -BitVec.getLsbD_eq_getElem, -BitVec.extractLsb'_toNat, wellFormed, base, decodeUnary,
      decodeChecks, StrandFields.si]

theorem bcnt (g : Guard) (d a : SReg) : Statement (.bcnt g d a) := by
  refine ofStrand rfl rfl rfl (fun h => ⟨rfl, rfl, (decode_13 _ _ rfl).trans ?_⟩)
  simp_all [-Nat.reduceAdd, -BitVec.getLsbD_eq_getElem, -BitVec.extractLsb'_toNat, wellFormed, base, decodeUnary,
      decodeChecks, StrandFields.si]

theorem sel (g : Guard) (d a b c : SReg) : Statement (.sel g d a b c) := by
  refine ofStrand rfl rfl rfl (fun h => ⟨rfl, rfl, (decode_1A _ _ rfl).trans ?_⟩)
  simp_all [-Nat.reduceAdd, -BitVec.getLsbD_eq_getElem, -BitVec.extractLsb'_toNat, wellFormed, base, decodeChecks,
      StrandFields.si, extract_high, extract_low]

theorem ixa (g : Guard) (sh : BitVec 3) (d a : SReg) (b : Src) : Statement (.ixa g sh d a b) := by
  cases b <;> 
    refine ofStrand rfl rfl rfl (fun h => ⟨rfl, rfl, (decode_1B _ _ rfl).trans ?_⟩) <;>
  simp_all [-Nat.reduceAdd, -BitVec.getLsbD_eq_getElem, -BitVec.extractLsb'_toNat, wellFormed, alu, base,
      decodeChecks, StrandFields.srsiReserved, StrandFields.si, StrandFields.src, extract_high, extract_low,
      BitVec.getLsbD_append]

theorem bfx (g : Guard) (sgn : Bool) (d a : SReg) (pos : BitVec 6) (len : BitVec 7) : Statement (.bfx g sgn d a pos len) := by
  refine ofStrand rfl rfl rfl (fun h => ⟨rfl, rfl, (decode_14 _ _ rfl).trans ?_⟩)
  cases sgn <;> simp_all [bit, -Nat.reduceAdd, -BitVec.getLsbD_eq_getElem, -BitVec.extractLsb'_toNat, wellFormed, base,
      decodeChecks, StrandFields.fn0, extract_high, extract_low]

theorem bfi (g : Guard) (d a : SReg) (pos : BitVec 6) (len : BitVec 7) : Statement (.bfi g d a pos len) := by
  refine ofStrand rfl rfl rfl (fun h => ⟨rfl, rfl, (decode_15 _ _ rfl).trans ?_⟩)
  simp_all [-Nat.reduceAdd, -BitVec.getLsbD_eq_getElem, -BitVec.extractLsb'_toNat, wellFormed, base, decodeChecks,
      extract_high, extract_low]

theorem sext (g : Guard) (d a : SReg) (n : BitVec 7) : Statement (.sext g d a n) := by
  refine ofStrand rfl rfl rfl (fun h => ⟨rfl, rfl, (decode_16 _ _ rfl).trans ?_⟩)
  simp_all [-Nat.reduceAdd, -BitVec.getLsbD_eq_getElem, -BitVec.extractLsb'_toNat, wellFormed, base, decodeChecks,
      extract_high, extract_low]

theorem zext (g : Guard) (d a : SReg) (n : BitVec 7) : Statement (.zext g d a n) := by
  refine ofStrand rfl rfl rfl (fun h => ⟨rfl, rfl, (decode_17 _ _ rfl).trans ?_⟩)
  simp_all [-Nat.reduceAdd, -BitVec.getLsbD_eq_getElem, -BitVec.extractLsb'_toNat, wellFormed, base, decodeChecks,
      extract_high, extract_low]

theorem movi (g : Guard) (d : SReg) (imm : BitVec 32) : Statement (.movi g d imm) := by
  refine ofStrand rfl rfl rfl (fun h => ⟨rfl, rfl, (decode_18 _ _ rfl).trans ?_⟩)
  simp_all [-Nat.reduceAdd, -BitVec.getLsbD_eq_getElem, -BitVec.extractLsb'_toNat, wellFormed, base, decodeChecks]

theorem movh (g : Guard) (d : SReg) (imm : BitVec 32) : Statement (.movh g d imm) := by
  refine ofStrand rfl rfl rfl (fun h => ⟨rfl, rfl, (decode_19 _ _ rfl).trans ?_⟩)
  simp_all [-Nat.reduceAdd, -BitVec.getLsbD_eq_getElem, -BitVec.extractLsb'_toNat, wellFormed, base, decodeChecks]

theorem cmp (g : Guard) (cond : BitVec 3) (sgn : Bool) (d : PReg) (a : SReg) (b : Src) : Statement (.cmp g cond sgn d a b) := by
  cases b <;> 
    refine ofStrand rfl rfl rfl (fun h => ⟨rfl, rfl, (decode_20 _ _ rfl).trans ?_⟩) <;>
  cases sgn <;> simp_all [bit, -Nat.reduceAdd, -BitVec.getLsbD_eq_getElem, -BitVec.extractLsb'_toNat, wellFormed, alu, base,
      decodeChecks, StrandFields.srsiReserved, StrandFields.si, StrandFields.src, StrandFields.fn0,
      extract_high, extract_low, BitVec.getLsbD_append]

theorem plog (g : Guard) (op : BitVec 3) (d a b : PReg) : Statement (.plog g op d a b) := by
  refine ofStrand rfl rfl rfl (fun h => ⟨rfl, rfl, (decode_21 _ _ rfl).trans ?_⟩)
  simp_all [-Nat.reduceAdd, -BitVec.getLsbD_eq_getElem, -BitVec.extractLsb'_toNat, wellFormed, base, decodeChecks,
      extract_high, extract_low]

theorem pmovGet (g : Guard) (d : SReg) : Statement (.pmovGet g d) := by
  refine ofStrand rfl rfl rfl (fun h => ⟨rfl, rfl, (decode_22 _ _ rfl).trans ?_⟩)
  simp_all [-Nat.reduceAdd, -BitVec.getLsbD_eq_getElem, -BitVec.extractLsb'_toNat, wellFormed, base, decodePmov,
      decodeChecks]

theorem pmovSet (g : Guard) (a : SReg) (mask : BitVec 8) : Statement (.pmovSet g a mask) := by
  refine ofStrand rfl rfl rfl (fun h => ⟨rfl, rfl, (decode_22 _ _ rfl).trans ?_⟩)
  simp_all [-Nat.reduceAdd, -BitVec.getLsbD_eq_getElem, -BitVec.extractLsb'_toNat, wellFormed, base, decodePmov,
      decodeChecks, extract_high, extract_low]

theorem pmovPred (g : Guard) (d : PReg) (v : Bool) : Statement (.pmovPred g d v) := by
  refine ofStrand rfl rfl rfl (fun h => ⟨rfl, rfl, (decode_22 _ _ rfl).trans ?_⟩)
  cases v <;> simp_all [bit, -Nat.reduceAdd, -BitVec.getLsbD_eq_getElem, -BitVec.extractLsb'_toNat, wellFormed, base, decodePmov,
      decodeChecks]

theorem br (g : Guard) (off : BitVec 32) : Statement (.br g off) := by
  refine ofStrand rfl rfl rfl (fun h => ⟨rfl, rfl, (decode_28 _ _ rfl).trans ?_⟩)
  simp_all [-Nat.reduceAdd, -BitVec.getLsbD_eq_getElem, -BitVec.extractLsb'_toNat, wellFormed, base, decodeChecks]

theorem call (g : Guard) (off : BitVec 32) : Statement (.call g off) := by
  refine ofStrand rfl rfl rfl (fun h => ⟨rfl, rfl, (decode_2A _ _ rfl).trans ?_⟩)
  simp_all [-Nat.reduceAdd, -BitVec.getLsbD_eq_getElem, -BitVec.extractLsb'_toNat, wellFormed, base, decodeChecks]

theorem brx (g : Guard) (link : Bool) (a : SReg) : Statement (.brx g link a) := by
  refine ofStrand rfl rfl rfl (fun h => ⟨rfl, rfl, (decode_29 _ _ rfl).trans ?_⟩)
  cases link <;> simp_all [bit, -Nat.reduceAdd, -BitVec.getLsbD_eq_getElem, -BitVec.extractLsb'_toNat, wellFormed, base,
      decodeChecks, StrandFields.fn0]

theorem ret (g : Guard) (a : SReg) : Statement (.ret g a) := by
  refine ofStrand rfl rfl rfl (fun h => ⟨rfl, rfl, (decode_2B _ _ rfl).trans ?_⟩)
  simp_all [-Nat.reduceAdd, -BitVec.getLsbD_eq_getElem, -BitVec.extractLsb'_toNat, wellFormed, base, decodeChecks]

theorem loop (g : Guard) (d a : SReg) (last : BitVec 20) : Statement (.loop g d a last) := by
  refine ofStrand rfl rfl rfl (fun h => ⟨rfl, rfl, (decode_2C _ _ rfl).trans ?_⟩)
  simp_all [-Nat.reduceAdd, -BitVec.getLsbD_eq_getElem, -BitVec.extractLsb'_toNat, wellFormed, base, decodeLoop,
      decodeChecks, StrandFields.fn0, extract_high, extract_low]

theorem loopBrk (g : Guard) : Statement (.loopBrk g) := by
  refine ofStrand rfl rfl rfl (fun h => ⟨rfl, rfl, (decode_2C _ _ rfl).trans ?_⟩)
  simp_all [-Nat.reduceAdd, -BitVec.getLsbD_eq_getElem, -BitVec.extractLsb'_toNat, wellFormed, base, decodeLoop,
      decodeChecks, StrandFields.fn0]

theorem itnext (g : Guard) (d : SReg) (p : PReg) : Statement (.itnext g d p) := by
  refine ofStrand rfl rfl rfl (fun h => ⟨rfl, rfl, (decode_2D _ _ rfl).trans ?_⟩)
  simp_all [-Nat.reduceAdd, -BitVec.getLsbD_eq_getElem, -BitVec.extractLsb'_toNat, wellFormed, base, decodeChecks]

theorem yield (g : Guard) : Statement (.yield g) := by
  refine ofStrand rfl rfl rfl (fun h => ⟨rfl, rfl, (decode_2E _ _ rfl).trans ?_⟩)
  simp_all [-Nat.reduceAdd, -BitVec.getLsbD_eq_getElem, -BitVec.extractLsb'_toNat, wellFormed, base, decodeBare,
      decodeChecks]

theorem halt (g : Guard) : Statement (.halt g) := by
  refine ofStrand rfl rfl rfl (fun h => ⟨rfl, rfl, (decode_2F _ _ rfl).trans ?_⟩)
  simp_all [-Nat.reduceAdd, -BitVec.getLsbD_eq_getElem, -BitVec.extractLsb'_toNat, wellFormed, base, decodeBare,
      decodeChecks]

theorem ld (g : Guard) (o : SmOpt) (d a b : SReg) (off : BitVec 29) : Statement (.ld g o d a b off) := by
  refine ofStrand rfl rfl rfl (fun h => ⟨rfl, rfl, (decode_30 _ _ rfl).trans ?_⟩)
  simp_all [-Nat.reduceAdd, -BitVec.getLsbD_eq_getElem, -BitVec.extractLsb'_toNat, wellFormed, base, sm, smFn,
      decodeMem, decodeChecks, StrandFields.off, StrandFields.scope, StrandFields.smOpt, extract_high,
      extract_low]

theorem st (g : Guard) (o : SmOpt) (d a b : SReg) (off : BitVec 29) : Statement (.st g o d a b off) := by
  refine ofStrand rfl rfl rfl (fun h => ⟨rfl, rfl, (decode_31 _ _ rfl).trans ?_⟩)
  simp_all [-Nat.reduceAdd, -BitVec.getLsbD_eq_getElem, -BitVec.extractLsb'_toNat, wellFormed, base, sm, smFn,
      decodeMem, decodeChecks, StrandFields.off, StrandFields.scope, StrandFields.smOpt, extract_high,
      extract_low]

theorem ld2 (g : Guard) (o : SmOpt) (d a b : SReg) (off : BitVec 29) : Statement (.ld2 g o d a b off) := by
  refine ofStrand rfl rfl rfl (fun h => ⟨rfl, rfl, (decode_32 _ _ rfl).trans ?_⟩)
  simp_all [-Nat.reduceAdd, -BitVec.getLsbD_eq_getElem, -BitVec.extractLsb'_toNat, wellFormed, base, sm, smFn,
      decodeMem, decodeChecks, StrandFields.off, StrandFields.scope, StrandFields.smOpt, extract_high,
      extract_low]

theorem st2 (g : Guard) (o : SmOpt) (d a b : SReg) (off : BitVec 29) : Statement (.st2 g o d a b off) := by
  refine ofStrand rfl rfl rfl (fun h => ⟨rfl, rfl, (decode_33 _ _ rfl).trans ?_⟩)
  simp_all [-Nat.reduceAdd, -BitVec.getLsbD_eq_getElem, -BitVec.extractLsb'_toNat, wellFormed, base, sm, smFn,
      decodeMem, decodeChecks, StrandFields.off, StrandFields.scope, StrandFields.smOpt, extract_high,
      extract_low]

theorem atom (g : Guard) (o : SmOpt) (aop : BitVec 4) (d a b : SReg) (off : BitVec 25) : Statement (.atom g o aop d a b off) := by
  refine ofStrand rfl rfl rfl (fun h => ⟨rfl, rfl, (decode_34 _ _ rfl).trans ?_⟩)
  simp_all [-Nat.reduceAdd, -BitVec.getLsbD_eq_getElem, -BitVec.extractLsb'_toNat, wellFormed, base, smFn,
      decodeChecks, StrandFields.scope, StrandFields.smOpt, extract_high, extract_low]

theorem cas (g : Guard) (o : SmOpt) (d a b : SReg) (off : BitVec 29) : Statement (.cas g o d a b off) := by
  refine ofStrand rfl rfl rfl (fun h => ⟨rfl, rfl, (decode_35 _ _ rfl).trans ?_⟩)
  simp_all [-Nat.reduceAdd, -BitVec.getLsbD_eq_getElem, -BitVec.extractLsb'_toNat, wellFormed, base, sm, smFn,
      decodeChecks, StrandFields.off, StrandFields.scope, StrandFields.smOpt, extract_high, extract_low]

theorem pref (g : Guard) (span : BitVec 2) (nc : Bool) (a b : SReg) (off : BitVec 29) : Statement (.pref g span nc a b off) := by
  refine ofStrand rfl rfl rfl (fun h => ⟨rfl, rfl, (decode_36 _ _ rfl).trans ?_⟩)
  cases nc <;> simp_all [bit, -Nat.reduceAdd, -BitVec.getLsbD_eq_getElem, -BitVec.extractLsb'_toNat, wellFormed, base,
      decodeChecks, StrandFields.fn0, StrandFields.off, StrandFields.scope, extract_high, extract_low,
      BitVec.getLsbD_append]

theorem apcvRel (g : Guard) (space : BitVec 2) (d a : SReg) : Statement (.apcvRel g space d a) := by
  refine ofStrand rfl rfl rfl (fun h => ⟨rfl, rfl, (decode_37 _ _ rfl).trans ?_⟩)
  simp_all [-Nat.reduceAdd, -BitVec.getLsbD_eq_getElem, -BitVec.extractLsb'_toNat, wellFormed, base, decodeApcv,
      decodeChecks, StrandFields.si, extract_high, extract_low, BitVec.getLsbD_append]

theorem apcvGen (g : Guard) (space : BitVec 2) (d a : SReg) : Statement (.apcvGen g space d a) := by
  refine ofStrand rfl rfl rfl (fun h => ⟨rfl, rfl, (decode_37 _ _ rfl).trans ?_⟩)
  simp_all [-Nat.reduceAdd, -BitVec.getLsbD_eq_getElem, -BitVec.extractLsb'_toNat, wellFormed, base, decodeApcv,
      decodeChecks, StrandFields.si, extract_high, extract_low, BitVec.getLsbD_append]

theorem apin (g : Guard) (space : BitVec 2) (d : PReg) (a : SReg) : Statement (.apin g space d a) := by
  refine ofStrand rfl rfl rfl (fun h => ⟨rfl, rfl, (decode_38 _ _ rfl).trans ?_⟩)
  simp_all [-Nat.reduceAdd, -BitVec.getLsbD_eq_getElem, -BitVec.extractLsb'_toNat, wellFormed, base, decodeChecks,
      extract_high, extract_low]

theorem fence (g : Guard) (pr pw sr sw : Bool) (scope : ScopeCode) : Statement (.fence g pr pw sr sw scope) := by
  refine ofStrand rfl rfl rfl (fun h => ⟨rfl, rfl, (decode_39 _ _ rfl).trans ?_⟩)
  cases pr <;> cases pw <;> cases sr <;> cases sw <;> simp_all [bit, -Nat.reduceAdd, -BitVec.getLsbD_eq_getElem, -BitVec.extractLsb'_toNat, wellFormed, base,
      decodeChecks, StrandFields.off, StrandFields.scope, extract_high, extract_low, BitVec.getLsbD_append]

theorem meetArrive (g : Guard) (scope : ScopeCode) (d : SReg) (slot : BitVec 4) (n : BitVec 16) : Statement (.meetArrive g scope d slot n) := by
  refine ofStrand rfl rfl rfl (fun h => ⟨rfl, rfl, (decode_3A _ _ rfl).trans ?_⟩)
  simp_all [-Nat.reduceAdd, -BitVec.getLsbD_eq_getElem, -BitVec.extractLsb'_toNat, wellFormed, hubOnly, base,
      decodeMeet, decodeChecks, StrandFields.scope, extract_high, extract_low]

theorem meetWait (g : Guard) (scope : ScopeCode) (a : SReg) (slot : BitVec 4) : Statement (.meetWait g scope a slot) := by
  refine ofStrand rfl rfl rfl (fun h => ⟨rfl, rfl, (decode_3A _ _ rfl).trans ?_⟩)
  simp_all [-Nat.reduceAdd, -BitVec.getLsbD_eq_getElem, -BitVec.extractLsb'_toNat, wellFormed, hubOnly, base,
      decodeMeet, decodeChecks, StrandFields.scope, extract_high, extract_low]

theorem meetAw (g : Guard) (scope : ScopeCode) (d : SReg) (slot : BitVec 4) (n : BitVec 16) : Statement (.meetAw g scope d slot n) := by
  refine ofStrand rfl rfl rfl (fun h => ⟨rfl, rfl, (decode_3A _ _ rfl).trans ?_⟩)
  simp_all [-Nat.reduceAdd, -BitVec.getLsbD_eq_getElem, -BitVec.extractLsb'_toNat, wellFormed, hubOnly, base,
      decodeMeet, decodeChecks, StrandFields.scope, extract_high, extract_low]

theorem meetWaitComplete (u : Agent) : Statement (.meetWaitComplete u) := ofEvent rfl rfl

theorem wait (g : Guard) (any : Bool) (d : PReg) (mask : BitVec 8) : Statement (.wait g any d mask) := by
  refine ofStrand rfl rfl rfl (fun h => ⟨rfl, rfl, (decode_3B _ _ rfl).trans ?_⟩)
  cases any <;> simp_all [bit, -Nat.reduceAdd, -BitVec.getLsbD_eq_getElem, -BitVec.extractLsb'_toNat, wellFormed, base,
      decodeChecks, StrandFields.fn0, extract_high, extract_low]

theorem waitComplete (u : Agent) : Statement (.waitComplete u) := ofEvent rfl rfl

theorem tokqGet (g : Guard) (d : SReg) (t : TokIx) : Statement (.tokqGet g d t) := by
  refine ofStrand rfl rfl rfl (fun h => ⟨rfl, rfl, (decode_3C _ _ rfl).trans ?_⟩)
  simp_all [-Nat.reduceAdd, -BitVec.getLsbD_eq_getElem, -BitVec.extractLsb'_toNat, wellFormed, base, decodeTokq,
      decodeChecks]

theorem tokqAll (g : Guard) (d : SReg) : Statement (.tokqAll g d) := by
  refine ofStrand rfl rfl rfl (fun h => ⟨rfl, rfl, (decode_3C _ _ rfl).trans ?_⟩)
  simp_all [-Nat.reduceAdd, -BitVec.getLsbD_eq_getElem, -BitVec.extractLsb'_toNat, wellFormed, base, decodeTokq,
      decodeChecks]

theorem tokqClr (g : Guard) (t : TokIx) : Statement (.tokqClr g t) := by
  refine ofStrand rfl rfl rfl (fun h => ⟨rfl, rfl, (decode_3C _ _ rfl).trans ?_⟩)
  simp_all [-Nat.reduceAdd, -BitVec.getLsbD_eq_getElem, -BitVec.extractLsb'_toNat, wellFormed, base, decodeTokq,
      decodeChecks]

theorem cpy (g : Guard) (t : TokIx) (a : SReg) (off : BitVec 29) : Statement (.cpy g t a off) := by
  refine ofStrand rfl rfl rfl (fun h => ⟨rfl, rfl, (decode_40 _ _ rfl).trans ?_⟩)
  simp_all [-Nat.reduceAdd, -BitVec.getLsbD_eq_getElem, -BitVec.extractLsb'_toNat, wellFormed, base, ofs,
      decodeTokOff, decodeChecks, StrandFields.off, StrandFields.scope, extract_high, extract_low]

theorem cpys (g : Guard) (slot : BitVec 3) (a : SReg) (off : BitVec 29) : Statement (.cpys g slot a off) := by
  refine ofStrand rfl rfl rfl (fun h => ⟨rfl, rfl, (decode_41 _ _ rfl).trans ?_⟩)
  simp_all [-Nat.reduceAdd, -BitVec.getLsbD_eq_getElem, -BitVec.extractLsb'_toNat, wellFormed, base, ofs,
      decodeChecks, StrandFields.off, StrandFields.scope, extract_high, extract_low]

theorem stage (g : Guard) (slot : BitVec 3) (inc : BitVec 8) : Statement (.stage g slot inc) := by
  refine ofStrand rfl rfl rfl (fun h => ⟨rfl, rfl, (decode_42 _ _ rfl).trans ?_⟩)
  simp_all [-Nat.reduceAdd, -BitVec.getLsbD_eq_getElem, -BitVec.extractLsb'_toNat, wellFormed, base, decodeChecks,
      extract_high, extract_low]

theorem cpyx (g : Guard) (t : TokIx) (a : SReg) (off : BitVec 29) : Statement (.cpyx g t a off) := by
  refine ofStrand rfl rfl rfl (fun h => ⟨rfl, rfl, (decode_43 _ _ rfl).trans ?_⟩)
  simp_all [-Nat.reduceAdd, -BitVec.getLsbD_eq_getElem, -BitVec.extractLsb'_toNat, wellFormed, base, ofs,
      decodeTokOff, decodeChecks, StrandFields.off, StrandFields.scope, extract_high, extract_low]

theorem coll (g : Guard) (t : TokIx) (a : SReg) (off : BitVec 29) : Statement (.coll g t a off) := by
  refine ofStrand rfl rfl rfl (fun h => ⟨rfl, rfl, (decode_44 _ _ rfl).trans ?_⟩)
  simp_all [-Nat.reduceAdd, -BitVec.getLsbD_eq_getElem, -BitVec.extractLsb'_toNat, wellFormed, base, ofs,
      decodeTokOff, decodeChecks, StrandFields.off, StrandFields.scope, extract_high, extract_low]

theorem qset (g : Guard) (q : QReg) (a : SReg) (off : BitVec 29) : Statement (.qset g q a off) := by
  refine ofStrand rfl rfl rfl (fun h => ⟨rfl, rfl, (decode_48 _ _ rfl).trans ?_⟩)
  simp_all [-Nat.reduceAdd, -BitVec.getLsbD_eq_getElem, -BitVec.extractLsb'_toNat, wellFormed, base, ofs,
      decodeChecks, StrandFields.off, StrandFields.scope, extract_high, extract_low]

theorem qind (g : Guard) (zero : Bool) (q qa qb : QReg) : Statement (.qind g zero q qa qb) := by
  refine ofStrand rfl rfl rfl (fun h => ⟨rfl, rfl, (decode_49 _ _ rfl).trans ?_⟩)
  cases zero <;> simp_all [bit, -Nat.reduceAdd, -BitVec.getLsbD_eq_getElem, -BitVec.extractLsb'_toNat, wellFormed, base, decodeQind,
      decodeChecks, StrandFields.fn0]

theorem qindFeed (g : Guard) (zero : Bool) (q qa qb : QReg) (f : FReg) (t : TokIx) : Statement (.qindFeed g zero q qa qb f t) := by
  refine ofStrand rfl rfl rfl (fun h => ⟨rfl, rfl, (decode_49 _ _ rfl).trans ?_⟩)
  cases zero <;> simp_all [bit, -Nat.reduceAdd, -BitVec.getLsbD_eq_getElem, -BitVec.extractLsb'_toNat, wellFormed, base, decodeQind,
      decodeChecks, StrandFields.fn0, extract_high, extract_low]

theorem qrd (g : Guard) (sx : Bool) (d : SReg) (q : QReg) : Statement (.qrd g sx d q) := by
  refine ofStrand rfl rfl rfl (fun h => ⟨rfl, rfl, (decode_4A _ _ rfl).trans ?_⟩)
  cases sx <;> simp_all [bit, -Nat.reduceAdd, -BitVec.getLsbD_eq_getElem, -BitVec.extractLsb'_toNat, wellFormed, base,
      decodeChecks, StrandFields.fn0]

theorem qposGet (g : Guard) (d : SReg) (q : QReg) : Statement (.qposGet g d q) := by
  refine ofStrand rfl rfl rfl (fun h => ⟨rfl, rfl, (decode_4B _ _ rfl).trans ?_⟩)
  simp_all [-Nat.reduceAdd, -BitVec.getLsbD_eq_getElem, -BitVec.extractLsb'_toNat, wellFormed, base, decodeQpos,
      decodeChecks]

theorem qposSet (g : Guard) (q : QReg) (b : SReg) : Statement (.qposSet g q b) := by
  refine ofStrand rfl rfl rfl (fun h => ⟨rfl, rfl, (decode_4B _ _ rfl).trans ?_⟩)
  simp_all [-Nat.reduceAdd, -BitVec.getLsbD_eq_getElem, -BitVec.extractLsb'_toNat, wellFormed, base, decodeQpos,
      decodeChecks]

theorem qflag (g : Guard) (d : PReg) (q : QReg) (k : BitVec 3) : Statement (.qflag g d q k) := by
  refine ofStrand rfl rfl rfl (fun h => ⟨rfl, rfl, (decode_4C _ _ rfl).trans ?_⟩)
  simp_all [-Nat.reduceAdd, -BitVec.getLsbD_eq_getElem, -BitVec.extractLsb'_toNat, wellFormed, base, decodeChecks,
      extract_high, extract_low]

theorem qclr (g : Guard) (flush : Bool) (q : QReg) : Statement (.qclr g flush q) := by
  refine ofStrand rfl rfl rfl (fun h => ⟨rfl, rfl, (decode_4D _ _ rfl).trans ?_⟩)
  cases flush <;> simp_all [bit, -Nat.reduceAdd, -BitVec.getLsbD_eq_getElem, -BitVec.extractLsb'_toNat, wellFormed, base,
      decodeChecks, StrandFields.fn0]

theorem merge (g : Guard) (comb : BitVec 3) (kz vfmt tof : Bool) (scope : ScopeCode) (t : TokIx) (a : SReg) (off : BitVec 29) : Statement (.merge g comb kz vfmt tof scope t a off) := by
  refine ofStrand rfl rfl rfl (fun h => ⟨rfl, rfl, (decode_50 _ _ rfl).trans ?_⟩)
  cases kz <;> cases vfmt <;> cases tof <;> simp_all [bit, -Nat.reduceAdd, -BitVec.getLsbD_eq_getElem, -BitVec.extractLsb'_toNat, wellFormed, base, ofsScoped,
      decodeChecks, StrandFields.off, StrandFields.scope, extract_high, extract_low, BitVec.getLsbD_append]

theorem route (g : Guard) (scope : ScopeCode) (t : TokIx) (a : SReg) (off : BitVec 29) : Statement (.route g scope t a off) := by
  refine ofStrand rfl rfl rfl (fun h => ⟨rfl, rfl, (decode_51 _ _ rfl).trans ?_⟩)
  simp_all [-Nat.reduceAdd, -BitVec.getLsbD_eq_getElem, -BitVec.extractLsb'_toNat, wellFormed, base, ofsScoped,
      decodeChecks, StrandFields.off, StrandFields.scope, extract_high, extract_low]

theorem hacc (g : Guard) (comb : BitVec 2) (vfmt : Bool) (scope : ScopeCode) (t : TokIx) (a : SReg) (off : BitVec 29) : Statement (.hacc g comb vfmt scope t a off) := by
  refine ofStrand rfl rfl rfl (fun h => ⟨rfl, rfl, (decode_52 _ _ rfl).trans ?_⟩)
  cases vfmt <;> simp_all [bit, -Nat.reduceAdd, -BitVec.getLsbD_eq_getElem, -BitVec.extractLsb'_toNat, wellFormed, base, ofsScoped,
      decodeChecks, StrandFields.off, StrandFields.scope, extract_high, extract_low, BitVec.getLsbD_append]

theorem hflush (g : Guard) (keep : Bool) (scope : ScopeCode) (t : TokIx) (a : SReg) (off : BitVec 29) : Statement (.hflush g keep scope t a off) := by
  refine ofStrand rfl rfl rfl (fun h => ⟨rfl, rfl, (decode_53 _ _ rfl).trans ?_⟩)
  cases keep <;> simp_all [bit, -Nat.reduceAdd, -BitVec.getLsbD_eq_getElem, -BitVec.extractLsb'_toNat, wellFormed, base, ofsScoped,
      decodeChecks, StrandFields.fn0, StrandFields.off, StrandFields.scope, extract_high, extract_low]

theorem gload (g : Guard) (x : GReg) (a : SReg) (off : BitVec 29) : Statement (.gload g x a off) := by
  refine ofStrand rfl rfl rfl (fun h => ⟨rfl, rfl, (decode_58 _ _ rfl).trans ?_⟩)
  simp_all [-Nat.reduceAdd, -BitVec.getLsbD_eq_getElem, -BitVec.extractLsb'_toNat, wellFormed, base, ofs,
      decodeGenOff, decodeChecks, StrandFields.off, StrandFields.scope, extract_high, extract_low]

theorem grun (g : Guard) (scope : ScopeCode) (x : GReg) (b : SReg) (f : FReg) (t : TokIx) : Statement (.grun g scope x b f t) := by
  refine ofStrand rfl rfl rfl (fun h => ⟨rfl, rfl, (decode_59 _ _ rfl).trans ?_⟩)
  simp_all [-Nat.reduceAdd, -BitVec.getLsbD_eq_getElem, -BitVec.extractLsb'_toNat, wellFormed, base, decodeGrun,
      decodeChecks, StrandFields.fn0, StrandFields.scope, extract_high, extract_low]

theorem grunT (g : Guard) (scope : ScopeCode) (x : GReg) (f : FReg) (t : TokIx) : Statement (.grunT g scope x f t) := by
  refine ofStrand rfl rfl rfl (fun h => ⟨rfl, rfl, (decode_59 _ _ rfl).trans ?_⟩)
  simp_all [-Nat.reduceAdd, -BitVec.getLsbD_eq_getElem, -BitVec.extractLsb'_toNat, wellFormed, base, decodeGrun,
      decodeChecks, StrandFields.fn0, StrandFields.scope, extract_high, extract_low]

theorem ginv (g : Guard) (scope : ScopeCode) (x : GReg) (b a : SReg) (cap : BitVec 18) (t : TokIx) : Statement (.ginv g scope x b a cap t) := by
  refine ofStrand rfl rfl rfl (fun h => ⟨rfl, rfl, (decode_5A _ _ rfl).trans ?_⟩)
  simp_all [-Nat.reduceAdd, -BitVec.getLsbD_eq_getElem, -BitVec.extractLsb'_toNat, wellFormed, base, decodeChecks,
      StrandFields.scope, extract_high, extract_low]

theorem gsave (g : Guard) (x : GReg) (a : SReg) (off : BitVec 29) : Statement (.gsave g x a off) := by
  refine ofStrand rfl rfl rfl (fun h => ⟨rfl, rfl, (decode_5B _ _ rfl).trans ?_⟩)
  simp_all [-Nat.reduceAdd, -BitVec.getLsbD_eq_getElem, -BitVec.extractLsb'_toNat, wellFormed, base, ofs,
      decodeGenOff, decodeChecks, StrandFields.off, StrandFields.scope, extract_high, extract_low]

theorem grest (g : Guard) (x : GReg) (a : SReg) (off : BitVec 29) : Statement (.grest g x a off) := by
  refine ofStrand rfl rfl rfl (fun h => ⟨rfl, rfl, (decode_5C _ _ rfl).trans ?_⟩)
  simp_all [-Nat.reduceAdd, -BitVec.getLsbD_eq_getElem, -BitVec.extractLsb'_toNat, wellFormed, base, ofs,
      decodeGenOff, decodeChecks, StrandFields.off, StrandFields.scope, extract_high, extract_low]

theorem bload (g : Guard) (k : BitVec 2) (a : SReg) (off : BitVec 29) : Statement (.bload g k a off) := by
  refine ofStrand rfl rfl rfl (fun h => ⟨rfl, rfl, (decode_60 _ _ rfl).trans ?_⟩)
  simp_all [-Nat.reduceAdd, -BitVec.getLsbD_eq_getElem, -BitVec.extractLsb'_toNat, wellFormed, base, ofs,
      decodeChecks, StrandFields.off, StrandFields.scope, extract_high, extract_low]

theorem brun (g : Guard) (scope : ScopeCode) (t : TokIx) (k : BitVec 2) : Statement (.brun g scope t k) := by
  refine ofStrand rfl rfl rfl (fun h => ⟨rfl, rfl, (decode_61 _ _ rfl).trans ?_⟩)
  simp_all [-Nat.reduceAdd, -BitVec.getLsbD_eq_getElem, -BitVec.extractLsb'_toNat, wellFormed, base, decodeChecks,
      StrandFields.scope, extract_high, extract_low]

theorem barg (g : Guard) (n : BitVec 6) (b : SReg) : Statement (.barg g n b) := by
  refine ofStrand rfl rfl rfl (fun h => ⟨rfl, rfl, (decode_62 _ _ rfl).trans ?_⟩)
  simp_all [-Nat.reduceAdd, -BitVec.getLsbD_eq_getElem, -BitVec.extractLsb'_toNat, wellFormed, base, decodeChecks,
      extract_high, extract_low]

theorem bdrain (g : Guard) : Statement (.bdrain g) := by
  refine ofStrand rfl rfl rfl (fun h => ⟨rfl, rfl, (decode_63 _ _ rfl).trans ?_⟩)
  simp_all [-Nat.reduceAdd, -BitVec.getLsbD_eq_getElem, -BitVec.extractLsb'_toNat, wellFormed, base, decodeBare,
      decodeChecks]

theorem bstat (g : Guard) (d : SReg) (sel : BitVec 2) : Statement (.bstat g d sel) := by
  refine ofStrand rfl rfl rfl (fun h => ⟨rfl, rfl, (decode_64 _ _ rfl).trans ?_⟩)
  simp_all [-Nat.reduceAdd, -BitVec.getLsbD_eq_getElem, -BitVec.extractLsb'_toNat, wellFormed, base, decodeChecks,
      extract_high, extract_low]

theorem bkill (g : Guard) : Statement (.bkill g) := by
  refine ofStrand rfl rfl rfl (fun h => ⟨rfl, rfl, (decode_65 _ _ rfl).trans ?_⟩)
  simp_all [-Nat.reduceAdd, -BitVec.getLsbD_eq_getElem, -BitVec.extractLsb'_toNat, wellFormed, base, decodeBare,
      decodeChecks]

theorem bswap (g : Guard) (scope : ScopeCode) (t : TokIx) (mask : BitVec 4) : Statement (.bswap g scope t mask) := by
  refine ofStrand rfl rfl rfl (fun h => ⟨rfl, rfl, (decode_66 _ _ rfl).trans ?_⟩)
  simp_all [-Nat.reduceAdd, -BitVec.getLsbD_eq_getElem, -BitVec.extractLsb'_toNat, wellFormed, base, decodeChecks,
      StrandFields.scope, extract_high, extract_low]

theorem reform (g : Guard) (use : BitVec 4) (own : BitVec 8) : Statement (.reform g use own) := by
  refine ofStrand rfl rfl rfl (fun h => ⟨rfl, rfl, (decode_67 _ _ rfl).trans ?_⟩)
  simp_all [-Nat.reduceAdd, -BitVec.getLsbD_eq_getElem, -BitVec.extractLsb'_toNat, wellFormed, base, decodeChecks,
      extract_high, extract_low]

theorem gear (g : Guard) (hi : Bool) (sp : BitVec 3) : Statement (.gear g hi sp) := by
  refine ofStrand rfl rfl rfl (fun h => ⟨rfl, rfl, (decode_68 _ _ rfl).trans ?_⟩)
  cases hi <;> simp_all [bit, -Nat.reduceAdd, -BitVec.getLsbD_eq_getElem, -BitVec.extractLsb'_toNat, wellFormed, base,
      decodeChecks, extract_high, extract_low, BitVec.getLsbD_append]

theorem spine (g : Guard) (sp : BitVec 3) : Statement (.spine g sp) := by
  refine ofStrand rfl rfl rfl (fun h => ⟨rfl, rfl, (decode_69 _ _ rfl).trans ?_⟩)
  simp_all [-Nat.reduceAdd, -BitVec.getLsbD_eq_getElem, -BitVec.extractLsb'_toNat, wellFormed, base, decodeChecks,
      extract_high, extract_low]

theorem rvote (g : Guard) (d : SReg) (lv : BitVec 3) : Statement (.rvote g d lv) := by
  refine ofStrand rfl rfl rfl (fun h => ⟨rfl, rfl, (decode_6A _ _ rfl).trans ?_⟩)
  simp_all [-Nat.reduceAdd, -BitVec.getLsbD_eq_getElem, -BitVec.extractLsb'_toNat, wellFormed, base, decodeChecks,
      StrandFields.fn0, extract_high, extract_low]

theorem rvoteOff (g : Guard) (d : SReg) : Statement (.rvoteOff g d) := by
  refine ofStrand rfl rfl rfl (fun h => ⟨rfl, rfl, (decode_6A _ _ rfl).trans ?_⟩)
  simp_all [-Nat.reduceAdd, -BitVec.getLsbD_eq_getElem, -BitVec.extractLsb'_toNat, wellFormed, base, decodeChecks,
      StrandFields.fn0]

theorem tick (g : Guard) (d : SReg) : Statement (.tick g d) := by
  refine ofStrand rfl rfl rfl (fun h => ⟨rfl, rfl, (decode_6B _ _ rfl).trans ?_⟩)
  simp_all [-Nat.reduceAdd, -BitVec.getLsbD_eq_getElem, -BitVec.extractLsb'_toNat, wellFormed, base, decodeDest,
      decodeChecks]

theorem realign (g : Guard) (d a : SReg) : Statement (.realign g d a) := by
  refine ofStrand rfl rfl rfl (fun h => ⟨rfl, rfl, (decode_6C _ _ rfl).trans ?_⟩)
  simp_all [-Nat.reduceAdd, -BitVec.getLsbD_eq_getElem, -BitVec.extractLsb'_toNat, wellFormed, base, decodeChecks]

theorem tsend (g : Guard) (scope : ScopeCode) (t : TokIx) (a : SReg) (off : BitVec 29) : Statement (.tsend g scope t a off) := by
  refine ofStrand rfl rfl rfl (fun h => ⟨rfl, rfl, (decode_6D _ _ rfl).trans ?_⟩)
  simp_all [-Nat.reduceAdd, -BitVec.getLsbD_eq_getElem, -BitVec.extractLsb'_toNat, wellFormed, base, ofsScoped,
      decodeChecks, StrandFields.off, StrandFields.scope, extract_high, extract_low]

theorem latq (g : Guard) (d a b : SReg) : Statement (.latq g d a b) := by
  refine ofStrand rfl rfl rfl (fun h => ⟨rfl, rfl, (decode_6E _ _ rfl).trans ?_⟩)
  simp_all [-Nat.reduceAdd, -BitVec.getLsbD_eq_getElem, -BitVec.extractLsb'_toNat, wellFormed, base, decodeLatq,
      decodeChecks]

theorem latqNow (g : Guard) (d : SReg) : Statement (.latqNow g d) := by
  refine ofStrand rfl rfl rfl (fun h => ⟨rfl, rfl, (decode_6E _ _ rfl).trans ?_⟩)
  simp_all [-Nat.reduceAdd, -BitVec.getLsbD_eq_getElem, -BitVec.extractLsb'_toNat, wellFormed, base, decodeLatq,
      decodeChecks]

theorem latqRaw (g : Guard) (d : SReg) : Statement (.latqRaw g d) := by
  refine ofStrand rfl rfl rfl (fun h => ⟨rfl, rfl, (decode_6E _ _ rfl).trans ?_⟩)
  simp_all [-Nat.reduceAdd, -BitVec.getLsbD_eq_getElem, -BitVec.extractLsb'_toNat, wellFormed, base, decodeLatq,
      decodeChecks]

theorem krd (g : Guard) (d : SReg) (idx : BitVec 12) : Statement (.krd g d idx) := by
  refine ofStrand rfl rfl rfl (fun h => ⟨rfl, rfl, (decode_70 _ _ rfl).trans ?_⟩)
  cases hk : kregPriv idx.toNat with
  | none => simp [wellFormed, hk] at h
  | some k => cases k <;> simp_all [-Nat.reduceAdd, -BitVec.getLsbD_eq_getElem, -BitVec.extractLsb'_toNat, wellFormed, hubOnly, base,
      decodeKindex, Except.bind, decodeChecks, extract_high, extract_low]

theorem kwr (g : Guard) (idx : BitVec 12) (a : SReg) : Statement (.kwr g idx a) := by
  refine ofStrand rfl rfl rfl (fun h => ⟨rfl, rfl, (decode_71 _ _ rfl).trans ?_⟩)
  cases hk : kregPriv idx.toNat with
  | none => simp [wellFormed, hk] at h
  | some k => cases k <;> simp_all [-Nat.reduceAdd, -BitVec.getLsbD_eq_getElem, -BitVec.extractLsb'_toNat, wellFormed, hubOnly, base,
      decodeKindex, Except.bind, decodeChecks, extract_high, extract_low]

theorem trap (g : Guard) (code : BitVec 8) : Statement (.trap g code) := by
  refine ofStrand rfl rfl rfl (fun h => ⟨rfl, rfl, (decode_72 _ _ rfl).trans ?_⟩)
  simp_all [-Nat.reduceAdd, -BitVec.getLsbD_eq_getElem, -BitVec.extractLsb'_toNat, wellFormed, base, decodeChecks,
      extract_high, extract_low]

theorem tret (g : Guard) : Statement (.tret g) := by
  refine ofStrand rfl rfl rfl (fun h => ⟨rfl, rfl, (decode_73 _ _ rfl).trans ?_⟩)
  simp_all [-Nat.reduceAdd, -BitVec.getLsbD_eq_getElem, -BitVec.extractLsb'_toNat, wellFormed, base, decodeBare,
      decodeChecks]

theorem ckpt (g : Guard) (d : PReg) : Statement (.ckpt g d) := by
  refine ofStrand rfl rfl rfl (fun h => ⟨rfl, rfl, (decode_74 _ _ rfl).trans ?_⟩)
  simp_all [-Nat.reduceAdd, -BitVec.getLsbD_eq_getElem, -BitVec.extractLsb'_toNat, wellFormed, base, decodeChecks]

theorem est (g : Guard) (a : SReg) : Statement (.est g a) := by
  refine ofStrand rfl rfl rfl (fun h => ⟨rfl, rfl, (decode_75 _ _ rfl).trans ?_⟩)
  simp_all [-Nat.reduceAdd, -BitVec.getLsbD_eq_getElem, -BitVec.extractLsb'_toNat, wellFormed, base, decodeChecks]

theorem stopr (g : Guard) (d a : SReg) (off : BitVec 29) : Statement (.stopr g d a off) := by
  refine ofStrand rfl rfl rfl (fun h => ⟨rfl, rfl, (decode_76 _ _ rfl).trans ?_⟩)
  simp_all [-Nat.reduceAdd, -BitVec.getLsbD_eq_getElem, -BitVec.extractLsb'_toNat, wellFormed, base, ofs,
      decodeChecks, StrandFields.off, StrandFields.scope, extract_high, extract_low]

theorem idle (g : Guard) (a : SReg) : Statement (.idle g a) := by
  refine ofStrand rfl rfl rfl (fun h => ⟨rfl, rfl, (decode_77 _ _ rfl).trans ?_⟩)
  simp_all [-Nat.reduceAdd, -BitVec.getLsbD_eq_getElem, -BitVec.extractLsb'_toNat, wellFormed, base, decodeChecks]

theorem idleWake (die core : Nat) : Statement (.idleWake die core) := ofEvent rfl rfl

theorem apbaseWrite (g : Guard) (space : BitVec 2) (a : SReg) : Statement (.apbaseWrite g space a) := ofEvent rfl rfl

theorem trkcfgWrite (g : Guard) (n : BitVec 4) (a : SReg) : Statement (.trkcfgWrite g n a) := ofEvent rfl rfl

theorem trkstatStep (g : Guard) (n : BitVec 4) (a : SReg) : Statement (.trkstatStep g n a) := ofEvent rfl rfl

theorem trkstatClr (g : Guard) (n : BitVec 4) (a : SReg) : Statement (.trkstatClr g n a) := ofEvent rfl rfl

theorem schstatStop (g : Guard) (slot : BitVec 3) (a : SReg) : Statement (.schstatStop g slot a) := ofEvent rfl rfl

theorem xinvOnePage (g : Guard) (a : SReg) : Statement (.xinvOnePage g a) := ofEvent rfl rfl

theorem xinvOwner (g : Guard) (a : SReg) : Statement (.xinvOwner g a) := ofEvent rfl rfl

theorem xinvAll (g : Guard) (a : SReg) : Statement (.xinvAll g a) := ofEvent rfl rfl

theorem shootdownAck (die unit : Nat) : Statement (.shootdownAck die unit) := ofEvent rfl rfl

theorem swportClr (g : Guard) (port : BitVec 4) (a : SReg) : Statement (.swportClr g port a) := ofEvent rfl rfl

theorem pctlResume (g : Guard) (a : SReg) : Statement (.pctlResume g a) := ofEvent rfl rfl

theorem pctlKill (g : Guard) (a : SReg) : Statement (.pctlKill g a) := ofEvent rfl rfl

theorem mcmdRefresh (die : Nat) (arg : BitVec 32) : Statement (.mcmdRefresh die arg) := ofEvent rfl rfl

theorem mcmdQrefresh (die : Nat) (arg : BitVec 32) : Statement (.mcmdQrefresh die arg) := ofEvent rfl rfl

theorem mcmdRelease (die : Nat) (arg : BitVec 32) : Statement (.mcmdRelease die arg) := ofEvent rfl rfl

theorem mcmdRestart (die : Nat) (arg : BitVec 32) : Statement (.mcmdRestart die arg) := ofEvent rfl rfl

theorem mcmdDrainBudget (die : Nat) (arg : BitVec 32) : Statement (.mcmdDrainBudget die arg) := ofEvent rfl rfl

theorem mcmdInvalid (die : Nat) (op : BitVec 8) (arg : BitVec 32) : Statement (.mcmdInvalid die op arg) := ofEvent rfl rfl

theorem hdoorWrite (die : Nat) (ring : BitVec 4) : Statement (.hdoorWrite die ring) := ofEvent rfl rfl

theorem doestatRsp (g : Guard) (a : SReg) : Statement (.doestatRsp g a) := ofEvent rfl rfl

theorem tdictlSelect (g : Guard) (a : SReg) : Statement (.tdictlSelect g a) := ofEvent rfl rfl

theorem tdictlLock (g : Guard) (a : SReg) : Statement (.tdictlLock g a) := ofEvent rfl rfl

theorem tdictlReport (g : Guard) (a : SReg) : Statement (.tdictlReport g a) := ofEvent rfl rfl

theorem tdictlState (g : Guard) (a : SReg) : Statement (.tdictlState g a) := ofEvent rfl rfl

theorem tdictlStart (g : Guard) (a : SReg) : Statement (.tdictlStart g a) := ofEvent rfl rfl

theorem tdictlStop (g : Guard) (a : SReg) : Statement (.tdictlStop g a) := ofEvent rfl rfl

theorem tdictlReserved (g : Guard) (a : SReg) : Statement (.tdictlReserved g a) := ofEvent rfl rfl

theorem cfgStage (die tile : Nat) : Statement (.cfgStage die tile) := ofEvent rfl rfl

theorem cfgCommit (die tile : Nat) : Statement (.cfgCommit die tile) := ofEvent rfl rfl

theorem cfgDiscard (die tile : Nat) : Statement (.cfgDiscard die tile) := ofEvent rfl rfl

theorem cfgInvalid (die tile : Nat) : Statement (.cfgInvalid die tile) := ofEvent rfl rfl

theorem verify : Statement .verify := ofEvent rfl rfl

theorem advancingCycle (r : RegionId) : Statement (.advancingCycle r) := ofEvent rfl rfl

theorem heldCycle (r : RegionId) : Statement (.heldCycle r) := ofEvent rfl rfl

theorem emptyCycle (r : RegionId) : Statement (.emptyCycle r) := ofEvent rfl rfl

theorem pend : Statement .pend := ofPattern rfl rfl (by simp [decodePatternOp])

theorem pset (d : XReg) (imm : BitVec 14) : Statement (.pset d imm) := ofPattern rfl rfl (by simp [decodePatternOp])

theorem pmov (d a : XReg) : Statement (.pmov d a) := ofPattern rfl rfl (by simp [decodePatternOp])

theorem padd (d a b : XReg) : Statement (.padd d a b) := ofPattern rfl rfl (by simp [decodePatternOp])

theorem paddi (d a : XReg) (imm : BitVec 14) : Statement (.paddi d a imm) := ofPattern rfl rfl (by simp [decodePatternOp])

theorem psub (d a b : XReg) : Statement (.psub d a b) := ofPattern rfl rfl (by simp [decodePatternOp])

theorem pmul (d a b : XReg) : Statement (.pmul d a b) := ofPattern rfl rfl (by simp [decodePatternOp])

theorem pmuli (d a : XReg) (imm : BitVec 14) : Statement (.pmuli d a imm) := ofPattern rfl rfl (by simp [decodePatternOp])

theorem pdivi (d a : XReg) (imm : BitVec 14) : Statement (.pdivi d a imm) := ofPattern rfl rfl (by simp [decodePatternOp])

theorem pmodi (d a : XReg) (imm : BitVec 14) : Statement (.pmodi d a imm) := ofPattern rfl rfl (by simp [decodePatternOp])

theorem pand (d a b : XReg) : Statement (.pand d a b) := ofPattern rfl rfl (by simp [decodePatternOp])

theorem pxor (d a b : XReg) : Statement (.pxor d a b) := ofPattern rfl rfl (by simp [decodePatternOp])

theorem pshr (d a : XReg) (imm : BitVec 14) : Statement (.pshr d a imm) := ofPattern rfl rfl (by simp [decodePatternOp])

theorem pshl (d a : XReg) (imm : BitVec 14) : Statement (.pshl d a imm) := ofPattern rfl rfl (by simp [decodePatternOp])

theorem phash (d a b : XReg) (imm : BitVec 14) : Statement (.phash d a b imm) := ofPattern rfl rfl (by simp [decodePatternOp])

theorem pmin (d a b : XReg) : Statement (.pmin d a b) := ofPattern rfl rfl (by simp [decodePatternOp])

theorem pmax (d a b : XReg) : Statement (.pmax d a b) := ofPattern rfl rfl (by simp [decodePatternOp])

theorem ploop (d a : XReg) (imm : BitVec 14) : Statement (.ploop d a imm) := ofPattern rfl rfl (by simp [decodePatternOp])

theorem pbr (cond a b : XReg) (imm : BitVec 14) : Statement (.pbr cond a b imm) := ofPattern rfl rfl (by simp [decodePatternOp])

theorem pemit (a b : XReg) : Statement (.pemit a b) := ofPattern rfl rfl (by simp [decodePatternOp])

theorem pskip (cond a b : XReg) : Statement (.pskip cond a b) := ofPattern rfl rfl (by simp [decodePatternOp])

theorem pband (d a b : XReg) : Statement (.pband d a b) := ofPattern rfl rfl (by simp [decodePatternOp])

theorem pdil (d a b : XReg) (imm : BitVec 14) : Statement (.pdil d a b imm) := ofPattern rfl rfl (by simp [decodePatternOp])

theorem pbdiag (d a : XReg) (imm : BitVec 14) : Statement (.pbdiag d a imm) := ofPattern rfl rfl (by simp [decodePatternOp])

theorem pkron (d a : XReg) : Statement (.pkron d a) := ofPattern rfl rfl (by simp [decodePatternOp])

theorem ptab (d a : XReg) (imm : BitVec 14) : Statement (.ptab d a imm) := ofPattern rfl rfl (by simp [decodePatternOp])

theorem pswap (d a : XReg) : Statement (.pswap d a) := ofPattern rfl rfl (by simp [decodePatternOp])

theorem coordinatePush (die tile gen : Nat) : Statement (.coordinatePush die tile gen) := ofEvent rfl rfl

theorem genRunaway (die tile gen : Nat) : Statement (.genRunaway die tile gen) := ofEvent rfl rfl

theorem grunComplete (die tile gen : Nat) : Statement (.grunComplete die tile gen) := ofEvent rfl rfl

theorem ginvComplete (die tile gen : Nat) : Statement (.ginvComplete die tile gen) := ofEvent rfl rfl

theorem holdWatchdogExpiry (r : RegionId) : Statement (.holdWatchdogExpiry r) := ofEvent rfl rfl

theorem waitWatchdogExpiry (u : Agent) : Statement (.waitWatchdogExpiry u) := ofEvent rfl rfl

theorem heldAccessWatchdogExpiry (i : Nat) : Statement (.heldAccessWatchdogExpiry i) := ofEvent rfl rfl

theorem drainWatchdogExpiry (u : Agent) (q : Nat) : Statement (.drainWatchdogExpiry u q) := ofEvent rfl rfl

theorem barrierTimeout (u : Agent) : Statement (.barrierTimeout u) := ofEvent rfl rfl

theorem decodeLineRead (r : RegionId) (port : Nat) : Statement (.decodeLineRead r port) := ofEvent rfl rfl

theorem encodeLineWrite (r : RegionId) (port : Nat) : Statement (.encodeLineWrite r port) := ofEvent rfl rfl

theorem anchorLoad (r : RegionId) : Statement (.anchorLoad r) := ofEvent rfl rfl

theorem mapperResult (u : Agent) (res : Option MapImage) : Statement (.mapperResult u res) := ofEvent rfl rfl

theorem mapperTimeout (u : Agent) : Statement (.mapperTimeout u) := ofEvent rfl rfl

theorem runStart (r : RegionId) : Statement (.runStart r) := ofEvent rfl rfl

theorem blockRunComplete (r : RegionId) : Statement (.blockRunComplete r) := ofEvent rfl rfl

theorem regionLendBegin (r : RegionId) : Statement (.regionLendBegin r) := ofEvent rfl rfl

theorem copyEngineStart (die : Nat) : Statement (.copyEngineStart die) := ofEvent rfl rfl

theorem copyComplete (u : Agent) (t : Nat) : Statement (.copyComplete u t) := ofEvent rfl rfl

theorem scheduleRelease (u : Agent) (slot : Nat) : Statement (.scheduleRelease u slot) := ofEvent rfl rfl

theorem collectiveComplete (u : Agent) (t : Nat) : Statement (.collectiveComplete u t) := ofEvent rfl rfl

theorem feedPush (u : Agent) (q : Nat) : Statement (.feedPush u q) := ofEvent rfl rfl

theorem drainWrite (u : Agent) (q : Nat) : Statement (.drainWrite u q) := ofEvent rfl rfl

theorem irregularOpStart (die tile engine : Nat) : Statement (.irregularOpStart die tile engine) := ofEvent rfl rfl

theorem mergeComplete (die tile : Nat) : Statement (.mergeComplete die tile) := ofEvent rfl rfl

theorem routeComplete (die tile : Nat) : Statement (.routeComplete die tile) := ofEvent rfl rfl

theorem haccComplete (die tile : Nat) : Statement (.haccComplete die tile) := ofEvent rfl rfl

theorem hflushComplete (die tile : Nat) : Statement (.hflushComplete die tile) := ofEvent rfl rfl

theorem tsendArrive (u : Agent) (t : Nat) : Statement (.tsendArrive u t) := ofEvent rfl rfl

theorem tsendDeliver (die tile : Nat) : Statement (.tsendDeliver die tile) := ofEvent rfl rfl

theorem tsendComplete (u : Agent) (t : Nat) : Statement (.tsendComplete u t) := ofEvent rfl rfl

theorem milepostAlignment (u : Agent) (skew : List (BitVec 1)) : Statement (.milepostAlignment u skew) := ofEvent rfl rfl

theorem memoryAccessPerform (i : Nat) : Statement (.memoryAccessPerform i) := ofEvent rfl rfl

theorem walkComplete (die i : Nat) : Statement (.walkComplete die i) := ofEvent rfl rfl

theorem accessCounterHalving (die : Nat) : Statement (.accessCounterHalving die) := ofEvent rfl rfl

theorem migrationStart (owner : Nat) (va : Word) (frame : Nat) : Statement (.migrationStart owner va frame) := ofEvent rfl rfl

theorem migrationCas (i : Nat) : Statement (.migrationCas i) := ofEvent rfl rfl

theorem migrationAbortTimeout (i : Nat) : Statement (.migrationAbortTimeout i) := ofEvent rfl rfl

theorem migrationUnlock (i : Nat) : Statement (.migrationUnlock i) := ofEvent rfl rfl

theorem swelinFlitReceive (die port : Nat) (flit : Flit) : Statement (.swelinFlitReceive die port flit) := ofEvent rfl rfl

theorem swelinPortTrained (die port : Nat) (lanes : BitVec 3) (peerPkg : BitVec 10) (peerPort : BitVec 4) : Statement (.swelinPortTrained die port lanes peerPkg peerPort) := ofEvent rfl rfl

theorem linkAckTimeout (i : Nat) : Statement (.linkAckTimeout i) := ofEvent rfl rfl

theorem causewayDown (die edge : Nat) : Statement (.causewayDown die edge) := ofEvent rfl rfl

theorem hostCompletionTimeout (i : Nat) : Statement (.hostCompletionTimeout i) := ofEvent rfl rfl

theorem hostBar2Access (func : Nat) (off : Word) (acc : HostAccess) : Statement (.hostBar2Access func off acc) := ofEvent rfl rfl

theorem hostPostingWrite (func page off : Nat) (bytes : List Byte) : Statement (.hostPostingWrite func page off bytes) := ofEvent rfl rfl

theorem launchCommit (func page off : Nat) (bytes : List Byte) : Statement (.launchCommit func page off bytes) := ofEvent rfl rfl

theorem hostBarWriteOutside (func off : Nat) : Statement (.hostBarWriteOutside func off) := ofEvent rfl rfl

theorem hostConfigWrite (reg : ConfigReg) (value : Word) : Statement (.hostConfigWrite reg value) := ofEvent rfl rfl

theorem ideStreamFailure (stream : Nat) : Statement (.ideStreamFailure stream) := ofEvent rfl rfl

theorem doeRequestArrive (bytes : List Byte) : Statement (.doeRequestArrive bytes) := ofEvent rfl rfl

theorem doeRequestPresent : Statement .doeRequestPresent := ofEvent rfl rfl

theorem spdmRequest (bytes : List Byte) : Statement (.spdmRequest bytes) := ofEvent rfl rfl

theorem spdmSnapshot (owner : Nat) (nonce : Word) : Statement (.spdmSnapshot owner nonce) := ofEvent rfl rfl

theorem spdmReset (owner : Nat) (nonce : Word) (sig : List Byte) : Statement (.spdmReset owner nonce sig) := ofEvent rfl rfl

theorem powerOn : Statement .powerOn := ofEvent rfl rfl

theorem bringupComplete : Statement .bringupComplete := ofEvent rfl rfl

theorem idleSweep (die tile : Nat) : Statement (.idleSweep die tile) := ofEvent rfl rfl

theorem selfTestResult (die tile : Nat) (fails : FailMap) : Statement (.selfTestResult die tile fails) := ofEvent rfl rfl

theorem trimWindowEnd (die cluster : Nat) : Statement (.trimWindowEnd die cluster) := ofEvent rfl rfl

theorem uncorrectableError (die cluster : Nat) (site : ErrSite) : Statement (.uncorrectableError die cluster site) := ofEvent rfl rfl

theorem trimFreezeExpiry (die cluster : Nat) : Statement (.trimFreezeExpiry die cluster) := ofEvent rfl rfl

theorem islandHoldoffExpiry (die cluster : Nat) : Statement (.islandHoldoffExpiry die cluster) := ofEvent rfl rfl

theorem gearFabricStopped (die tile : Nat) : Statement (.gearFabricStopped die tile) := ofEvent rfl rfl

theorem islandLevelReached (die tile : Nat) : Statement (.islandLevelReached die tile) := ofEvent rfl rfl

theorem spineClockStable (die tile : Nat) : Statement (.spineClockStable die tile) := ofEvent rfl rfl

theorem gearDeferRelease (die tile : Nat) : Statement (.gearDeferRelease die tile) := ofEvent rfl rfl

theorem packageStallHandshake : Statement .packageStallHandshake := ofEvent rfl rfl

theorem handshakeRelease (table : List (BitVec 3 × BitVec 16)) : Statement (.handshakeRelease table) := ofEvent rfl rfl

theorem dutyWrite (r : RegionId) (pattern : BitVec 32) : Statement (.dutyWrite r pattern) := ofEvent rfl rfl

theorem schedulerTick : Statement .schedulerTick := ofEvent rfl rfl

theorem admission (die queue : Nat) (place : Placement) : Statement (.admission die queue place) := ofEvent rfl rfl

theorem preemptionDecision (die queue : Nat) : Statement (.preemptionDecision die queue) := ofEvent rfl rfl

theorem drainExpiry (task : Nat) : Statement (.drainExpiry task) := ofEvent rfl rfl

theorem recallStart (die owner : Nat) : Statement (.recallStart die owner) := ofEvent rfl rfl

theorem saveDeadlineExpiry (task : Nat) : Statement (.saveDeadlineExpiry task) := ofEvent rfl rfl

theorem contextSaveComplete (task : Nat) : Statement (.contextSaveComplete task) := ofEvent rfl rfl

theorem killComplete (task : Nat) : Statement (.killComplete task) := ofEvent rfl rfl

theorem taskRetire (task : Nat) : Statement (.taskRetire task) := ofEvent rfl rfl

theorem agentStop (x : StopAgent) : Statement (.agentStop x) := ofEvent rfl rfl

theorem skidBoundExpiry (x : StopAgent) : Statement (.skidBoundExpiry x) := ofEvent rfl rfl

theorem causewayRestored (die edge : Nat) : Statement (.causewayRestored die edge) := ofEvent rfl rfl

theorem swelinPortDown (die port : Nat) : Statement (.swelinPortDown die port) := ofEvent rfl rfl

theorem argumentUpdateDelivered (r : RegionId) : Statement (.argumentUpdateDelivered r) := ofEvent rfl rfl

theorem islandCapChange (die cluster : Nat) (cap : BitVec 3) : Statement (.islandCapChange die cluster cap) := ofEvent rfl rfl

theorem mgmtCommandComplete (die : Nat) : Statement (.mgmtCommandComplete die) := ofEvent rfl rfl

theorem configPortCommandDone (die tile : Nat) : Statement (.configPortCommandDone die tile) := ofEvent rfl rfl

end Sys2Proof.Laws.RoundTrip
end

