-- ==== Sys2Proof/Tests/Slice0.lean ====
section
/-! SUPPORT. Tests: a term that each check of WellFormed refuses, words written out from the spec's encodings, single steps on
small states with results taken from the spec, and for each statement with hypotheses a state and operands that meet them. -/

set_option Elab.async false

namespace Sys2Proof.Tests

open Sys2Proof.Machine Sys2Proof.Claims

/-! ## Small states -/

/-- The guard that always holds. -/
def g0 : Guard := ⟨0, false⟩
/-- A guard on p1. -/
def g1 : Guard := ⟨1, false⟩
/-- The strand, the hub core and the region of the states below. -/
def u0 : Agent := .strand 0 0 0
def h0 : Agent := .hub 0 0
def r0 : RegionId := ⟨0, 0, 0⟩

/-- A task of owner 1 on one tile and one slice. -/
def task0 : Task :=
  { st := .running, lrec := 0, owner := 1, die := 0, queue := 0, tiles := [(0, 0)], slices := [(0, 0)], est := 5, admitted := 0 }

/-- A region over the four quads of the tile. -/
def region0 : Region := { quads := [(0, 0), (0, 1), (0, 2), (0, 3)], qrows := 2, qcols := 2 }

/-- A part in which a strand has its turn, with its TILE window at 0x100000. -/
def strandS (c : Ctx) : State :=
  { ctxs := [(0, { c with run := .running, task := some 0, apTile := 0x100001, apDie := 0x20000001 })], tiles := [(0, { holder := some 0 })]
    regions := [(0, region0)], tasks := [(0, task0)], cur := .tile 0 0, power := .ready }

/-- A part in which a hub core has its turn. -/
def hubS (c : Ctx) : State := { ctxs := [(2304, { c with run := .running })], cur := .hub 0 0, power := .ready }

/-- A register file. -/
def regs (l : List (Nat × Word)) : Ctx := { s := l }

/-- What holds of the next state that exec answers. -/
def after (i : Instr) (s : State) (p : State → Bool) : Bool :=
  match exec i s with
  | .next t => p t
  | _ => false

/-- What holds of the next state that a step answers. -/
def afterStep (s : State) (p : State → Bool) : Bool :=
  match step s with
  | .next t => p t
  | _ => false

/-- The fault that a strand holds, as class and detail. -/
def faultOf (s : State) (u : Agent) : Option (Nat × Nat) := (s.ctx u).fault.map (fun f => (f.cls, f.detail))

/-- Whether a word decodes to an instruction, as a hub core or a strand reads it. -/
def reads (hub : Bool) (w : Word) (i : Instr) : Bool :=
  match decodeStrand hub w with
  | .ok j => decide (j = i)
  | .error _ => false

/-- Whether a word is refused with a fault. -/
def refuses (hub : Bool) (w : Word) (e : DecodeFault) : Bool :=
  match decodeStrand hub w with
  | .ok _ => false
  | .error x => decide (x = e)

/-! ## Well-formedness: an ill-formed term for each check -/

theorem test_bfx_range : wellFormed (.bfx g0 false 1 2 60 5) = false := by decide +kernel
theorem test_bfi_range : wellFormed (.bfi g0 1 2 0 0) = false := by decide +kernel
theorem test_sext_zero : wellFormed (.sext g0 1 2 0) = false := by decide +kernel
theorem test_zext_65 : wellFormed (.zext g0 1 2 65) = false := by decide +kernel
theorem test_cmp_cond : wellFormed (.cmp g0 6 false 1 2 (.reg 3)) = false := by decide +kernel
theorem test_loop_last : wellFormed (.loop g0 1 2 0) = false := by decide +kernel
theorem test_ld_order : wellFormed (.ld g0 ⟨3, 3, 0, 1⟩ 1 2 3 0) = false := by decide +kernel
theorem test_ld_hint : wellFormed (.ld g0 ⟨3, 0, 3, 0⟩ 1 2 3 0) = false := by decide +kernel
theorem test_st_scope : wellFormed (.st g0 ⟨3, 1, 0, 7⟩ 1 2 3 0) = false := by decide +kernel
theorem test_ld_plain_scope : wellFormed (.ld g0 ⟨3, 0, 0, 1⟩ 1 2 3 0) = false := by decide +kernel
theorem test_ld2_odd : wellFormed (.ld2 g0 ⟨3, 0, 0, 0⟩ 7 2 3 0) = false := by decide +kernel
theorem test_st2_odd : wellFormed (.st2 g0 ⟨3, 0, 0, 0⟩ 7 2 3 0) = false := by decide +kernel
theorem test_atom_size : wellFormed (.atom g0 ⟨1, 2, 0, 1⟩ 0 1 2 3 0) = false := by decide +kernel
theorem test_atom_aop : wellFormed (.atom g0 ⟨3, 2, 0, 1⟩ 9 1 2 3 0) = false := by decide +kernel
theorem test_cas_order : wellFormed (.cas g0 ⟨3, 0, 0, 0⟩ 1 2 3 0) = false := by decide +kernel
theorem test_apcv_space : (wellFormed (.apcvRel g0 3 1 2) || wellFormed (.apcvGen g0 3 1 2)) = false := by decide +kernel
theorem test_fence_empty : wellFormed (.fence g0 false false true true 1) = false := by decide +kernel
theorem test_meet_scope : (wellFormed (.meetArrive g0 0 1 1 4) || wellFormed (.meetWait g0 5 1 1)) = false := by decide +kernel
theorem test_meet_count : wellFormed (.meetAw g0 1 1 1 0) = false := by decide +kernel
theorem test_stage_zero : wellFormed (.stage g0 1 0) = false := by decide +kernel
theorem test_qflag_kind : wellFormed (.qflag g0 1 2 7) = false := by decide +kernel
theorem test_merge_comb : wellFormed (.merge g0 5 false false false 1 1 2 0) = false := by decide +kernel
theorem test_engine_scope :
    (wellFormed (.route g0 0 1 2 0) || wellFormed (.hacc g0 0 false 7 1 2 0) || wellFormed (.hflush g0 false 0 1 2 0) ||
      wellFormed (.grun g0 0 1 2 3 0) || wellFormed (.grunT g0 7 1 2 0) || wellFormed (.brun g0 0 1 2) || wellFormed (.tsend g0 0 1 2 0)) = false := by
  decide +kernel
theorem test_ginv_cap : wellFormed (.ginv g0 1 1 2 3 0 0) = false := by decide +kernel
theorem test_bstat_sel : wellFormed (.bstat g0 1 3) = false := by decide +kernel
theorem test_bswap_one : wellFormed (.bswap g0 1 1 4) = false := by decide +kernel
theorem test_kreg_index : (wellFormed (.krd g0 1 0x013) || wellFormed (.kwr g0 0x305 1)) = false := by decide +kernel
theorem test_rows_ranges : (wellFormed (.swportClr g0 9 1) || wellFormed (.apbaseWrite g0 3 1)) = false := by decide +kernel
theorem test_pattern_immediates :
    (wellFormed (.pdivi 1 2 0) || wellFormed (.pmodi 1 2 0x3FFF) || wellFormed (.pshr 1 2 32) || wellFormed (.pshl 1 2 32) ||
      wellFormed (.phash 1 2 3 0) || wellFormed (.ploop 1 2 64) || wellFormed (.pdil 1 2 3 0) || wellFormed (.pbdiag 1 2 0) ||
      wellFormed (.ptab 1 2 4)) = false := by decide +kernel
theorem test_pattern_branches : (wellFormed (.pbr 1 2 3 0) || wellFormed (.pskip 0 1 0) || wellFormed (.pskip 5 0 0)) = false := by
  decide +kernel

/-! ## Decoding: words from the spec's encodings -/

/-- OPC 0x01, D = 4, A = 4, FN[5] = 1, IMM = 8, guard ?!p2 (R25). -/
theorem test_decode_add : reads false 0x02A4202000000008 (.add ⟨2, true⟩ 4 4 (.imm 8)) = true := by decide +kernel
/-- R25. -/
theorem test_decode_ld : reads false 0x600511A420000010 (.ld g0 ⟨2, 1, 0, 1⟩ 5 2 6 16) = true := by decide +kernel
/-- R83. -/
theorem test_decode_apcv : reads false 0x6E05300000000000 (.apcvRel g0 0 5 6) = true := by decide +kernel
/-- `meet.aw.cluster s5, #3, #16`: OPC 0x3A, D = 5, SCOPE 2, slot 3, N 16 (R287). -/
theorem test_decode_meet : reads false 0x7405000240030010 (.meetAw g0 2 5 3 16) = true := by decide +kernel
theorem test_decode_qset : reads false 0x9000500000000000 (.qset g0 0 10 0) = true := by decide +kernel
theorem test_decode_gload : reads false 0xB001500000000000 (.gload g0 1 10 0) = true := by decide +kernel
theorem test_decode_bload : reads false 0xC000500000000000 (.bload g0 0 10 0) = true := by decide +kernel
theorem test_decode_rvote : reads false 0xD405000000000004 (.rvote g0 5 4) = true := by decide +kernel
theorem test_decode_krd : refuses true 0xE00D0000000000E3 (.illegal 5) = true := by decide +kernel
theorem test_decode_loop_brk : reads false 0x5800000100000000 (.loopBrk g0) = true := by decide +kernel
theorem test_decode_bfi : reads false 0x2A08580000000208 (.bfi g0 8 11 8 8) = true := by decide +kernel
theorem test_decode_cpy : reads false 0x8002200000000000 (.cpy g0 2 4 0) = true := by decide +kernel
theorem test_decode_merge : reads false 0xA0C1881860000000 (.merge ⟨3, false⟩ 0 true true false 3 1 17 0) = true := by decide +kernel
theorem test_decode_idle_strand : refuses false 0xEE00000000000000 .priv = true := by decide +kernel
theorem test_decode_reserved : refuses false 0x02A4206000000008 (.illegal 2) = true := by decide +kernel
theorem test_decode_pattern : decodePattern 0x59D14004 = some (.pdil 7 4 5 4) := by decide +kernel

/-! ## Integers, predicates, transfers -/

theorem test_add_wraps : after (.add g0 3 1 (.imm 0xFFFFFFFE)) (strandS (regs [(1, 1)])) (fun t => t.getS u0 3 == 0xFFFFFFFFFFFFFFFF && (t.ctx u0).pc == 8) = true := by
  decide +kernel
theorem test_sub_order : after (.sub g0 1 1 (.reg 2)) (strandS (regs [(1, 5), (2, 7)])) (fun t => t.getS u0 1 == 0xFFFFFFFFFFFFFFFE) = true := by
  decide +kernel
/-- R253: −7 by 2. -/
theorem test_div_signed : after (.div g0 true 3 1 (.imm 2)) (strandS (regs [(1, 0xFFFFFFFFFFFFFFF9)])) (fun t => t.getS u0 3 == 0xFFFFFFFFFFFFFFFD) = true := by
  decide +kernel
theorem test_rem_signed : after (.rem g0 true 3 1 (.imm 2)) (strandS (regs [(1, 0xFFFFFFFFFFFFFFF9)])) (fun t => t.getS u0 3 == 0xFFFFFFFFFFFFFFFF) = true := by
  decide +kernel
/-- R253: the natural quotient, the overflow, the zero divisor. -/
theorem test_div_natural : after (.div g0 false 3 1 (.imm 2)) (strandS (regs [(1, 0xFFFFFFFFFFFFFFF9)])) (fun t => t.getS u0 3 == 0x7FFFFFFFFFFFFFFC) = true := by
  decide +kernel
theorem test_div_overflow : after (.div g0 true 3 1 (.imm 0xFFFFFFFF)) (strandS (regs [(1, 0x8000000000000000)])) (fun t => t.getS u0 3 == 0x8000000000000000) = true := by
  decide +kernel
theorem test_rem_zero : after (.rem g0 false 3 1 (.reg 0)) (strandS (regs [(1, 5)])) (fun t => t.getS u0 3 == 5) = true := by decide +kernel
theorem test_sar_all : after (.sar g0 3 1 (.imm 64)) (strandS (regs [(1, 0x8000000000000000)])) (fun t => t.getS u0 3 == 0xFFFFFFFFFFFFFFFF) = true := by
  decide +kernel
theorem test_clz_zero : after (.clz g0 3 1) (strandS {}) (fun t => t.getS u0 3 == 64) = true := by decide +kernel
theorem test_bfx_signed : after (.bfx g0 true 3 1 4 4) (strandS (regs [(1, 0x80)])) (fun t => t.getS u0 3 == 0xFFFFFFFFFFFFFFF8) = true := by decide +kernel
theorem test_bfi_keeps : after (.bfi g0 3 1 8 8) (strandS (regs [(1, 0x1FF), (3, 0xABCDEF)])) (fun t => t.getS u0 3 == 0xABFFEF) = true := by decide +kernel
theorem test_movh_low : after (.movh g0 3 0x12345678) (strandS (regs [(3, 0xFFFFFFFFFFFFFFFF)])) (fun t => t.getS u0 3 == 0x12345678FFFFFFFF) = true := by
  decide +kernel
theorem test_write_s0 : after (.movi g0 0 7) (strandS {}) (fun t => t.getS u0 0 == 0 && (t.ctx u0).s == []) = true := by decide +kernel
theorem test_cmp_signed : after (.cmp g0 2 true 5 1 (.imm 0)) (strandS (regs [(1, 0x8000000000000000)])) (fun t => t.getP u0 5) = true := by decide +kernel
theorem test_guard_false : after (.movi g1 3 7) (strandS {}) (fun t => t.getS u0 3 == 0 && (t.ctx u0).pc == 8) = true := by decide +kernel
/-- R259: seven words back. -/
theorem test_br_back : after (.br g0 0xFFFFFFF9) (strandS { pc := 0x40 }) (fun t => (t.ctx u0).pc == 8) = true := by decide +kernel
theorem test_call_links : after (.call g0 2) (strandS { pc := 0x40 }) (fun t => (t.ctx u0).pc == 0x50 && t.getS u0 30 == 0x48) = true := by decide +kernel
theorem test_brx_misaligned : after (.brx g0 true 1) (strandS (regs [(1, 0x44)])) (fun t => faultOf t u0 == some (3, 1) && t.getS u0 30 == 0) = true := by
  decide +kernel
theorem test_loop_again :
    after (.nop g0) (strandS { pc := 0x18, loops := [⟨0, 2, 0x10, 0x18, 4⟩] }) (fun t => (t.ctx u0).pc == 0x10 && t.getS u0 4 == 1) = true := by
  decide +kernel
theorem test_loop_zero : after (.loop g0 4 1 3) (strandS (regs [])) (fun t => (t.ctx u0).pc == 0x20 && (t.ctx u0).loops == []) = true := by decide +kernel
theorem test_halt : after (.halt g0) (strandS {}) (fun t => (t.ctx u0).run == .halted) = true := by decide +kernel
theorem test_trap : after (.trap g0 9) (strandS { pc := 0x10 }) (fun t => faultOf t u0 == some (0x14, 9) && (t.ctx u0).pc == 0x18 && t.halted u0) = true := by
  decide +kernel
theorem test_hub_trap :
    after (.trap g0 9) (hubS { pc := 0x10, htvec := 0x1000 })
      (fun t => (t.ctx h0).pc == 0x1000 && (t.ctx h0).hepc == 0x18 && (t.ctx h0).hcause == 0x1409 && (t.ctx h0).hstat) = true := by
  decide +kernel
theorem test_double_fault : after (.trap g0 9) (hubS { hstat := true }) (fun t => (t.ctx h0).run == .halted && (t.die 0).dblf == 1 && (t.die 0).stop == 1) = true := by
  decide +kernel
theorem test_tret : after (.tret g0) (hubS { hepc := 0x80, hstat := true }) (fun t => (t.ctx h0).pc == 0x80 && !(t.ctx h0).hstat) = true := by decide +kernel
theorem test_idle_waits : after (.idle g0 0) (hubS {}) (fun t => (t.ctx h0).stall == .idle 0 && (t.ctx h0).pc == 0) = true := by decide +kernel
theorem test_ckpt : after (.ckpt g0 2) { strandS {} with tasks := [(0, { task0 with st := .draining })] } (fun t => t.getP u0 2) = true := by decide +kernel
theorem test_est : after (.est g0 1) (strandS (regs [(1, 0x100000000)])) (fun t => (t.task 0).map (·.est) == some 0xFFFFFFFF) = true := by decide +kernel

/-- A strand has its turn: the hypothesis of the statements about strand instructions. -/
theorem witness_issues : Issues (strandS {}) u0 g0 ∧ Issues (hubS {}) h0 g0 := ⟨⟨by decide +kernel, by decide +kernel⟩, ⟨by decide +kernel, by decide +kernel⟩⟩
/-- IntegerResults, DivisionResults, ShiftAndCountResults, NopYieldFence, TakenTransfers with an aligned target, PrefetchAndWalks. -/
theorem witness_strand : Issues (strandS (regs [(1, 8)])) u0 g0 ∧ ((strandS (regs [(1, 8)])).getS u0 1).toNat % 8 = 0 :=
  ⟨⟨by decide +kernel, by decide +kernel⟩, by decide +kernel⟩
/-- BitFieldResults at both ends of the range of LEN; PredicateResults at the last condition. -/
theorem witness_fields : bitFieldWf 0 64 = true ∧ bitFieldWf 63 1 = true ∧ 1 ≤ (64 : BitVec 7).toNat ∧ (64 : BitVec 7).toNat ≤ 64 ∧ (5 : BitVec 3).toNat ≤ 5 := by
  decide +kernel
/-- PredicateLogic: words of PLOG with and without a reserved bit. -/
theorem witness_plog :
    let f : StrandFields := { opc := 0x21, pg := 0, pn := 0, d := 3, a := 2, b := 0, fn := 0, imm := 1 }
    f.imm ≠ 0 ∧ reads false { f with imm := 0 }.word (.plog g0 0 3 2 0) = true := by decide +kernel
/-- FailedGuardOnlyRetires: a false guard, and a unit in which nothing may issue. -/
theorem witness_guards : (strandS {}).issuer = some u0 ∧ guardHolds ((strandS {}).ctx u0) g1 = false ∧ ({} : State).issuer = none := by decide +kernel
/-- LoopEndStep: a popped entry, then one that goes on, one that ends elsewhere, and none. -/
theorem witness_loops :
    let e : LoopEntry := ⟨1, 2, 0x10, 0x18, 4⟩
    e.last = 0x18 ∧ e.n.toNat ≤ (e.i + 1).toNat ∧ ((0 : Word) + 1).toNat < (2 : Word).toNat := by decide +kernel
/-- MisalignedTransfersTrap, HandlerReturn, and the double fault. -/
theorem witness_misaligned : ((hubS { s := [(1, 4)], hepc := 4, hstat := true }).getS h0 1).toNat % 8 ≠ 0 ∧
    ((hubS { hepc := 4, hstat := true }).ctx h0).hepc.toNat % 8 ≠ 0 ∧ ((hubS { hepc := 4, hstat := true }).ctx h0).hstat = true ∧
    ((hubS { hepc := 8 }).ctx h0).hepc.toNat % 8 = 0 := by decide +kernel
theorem witness_handler : Issues (hubS { hepc := 4, hstat := true }) (.hub 0 0) g0 := ⟨by decide +kernel, by decide +kernel⟩
/-- LoopForms: a zero count, a full stack, and a push. -/
theorem witness_loop_forms :
    ((strandS {}).ctx u0).getS 1 = 0 ∧ ((strandS (regs [(1, 3)])).ctx u0).getS 1 ≠ 0 ∧ ((strandS (regs [(1, 3)])).ctx u0).loops.length < 4 ∧
      4 ≤ ((strandS { s := [(1, 3)], loops := List.replicate 4 ⟨0, 1, 0, 0, 0⟩ }).ctx u0).loops.length := by decide +kernel
/-- DecodeOfEncodeIsInstruction and DecodedWordIsItsEncoding: a strand word and a pattern word. -/
theorem witness_encoding :
    wellFormed (.add ⟨2, true⟩ 4 4 (.imm 8)) = true ∧ encodeStrand (.add ⟨2, true⟩ 4 4 (.imm 8)) = some 0x02A4202000000008 ∧
      encodePattern (.pset 5 0x3FFF) = some 0x05403FFF ∧ decodePattern 0x05403FFF = some (.pset 5 0x3FFF) := by decide +kernel
/-- Rejections: an unassigned opcode, a hub core's instruction, a tile's instruction; the three kinds of control-register index. -/
theorem witness_rejections :
    (0x38 : Nat) * 2 ^ 57 / 2 ^ 57 = 0x38 ∧ refuses false 0xFE00000000000000 (.illegal 1) = true ∧ refuses false 0xE600000000000000 .priv = true ∧
      refuses true 0x5A00000000000000 (.illegal 5) = true ∧ kregPriv 0x013 = none ∧ kregPriv 0x300 = some .hub ∧ kregPriv 0x040 = some .tile ∧
      (encodeStrand (.krd g0 1 0x013)).isSome = true ∧ (encodeStrand (.kwr g0 0x300 1)).isSome = true := by decide +kernel
/-- RegisterOnlyFrame. -/
theorem witness_frame : registerWrites (.movi g0 3 7) = some ([3], fun _ => false) ∧ after (.movi g0 3 7) (strandS {}) (fun _ => true) = true :=
  ⟨rfl, by decide +kernel⟩

/-! ## A step -/

/-- A strand at TILE offset 0 whose word there is `add s4, s4, #8` guarded by p2 negated (R25). -/
def codeS : State :=
  { strandS { pc := 0x100000 } with mem := mwrite [] (2 ^ 56) [0x08, 0, 0, 0, 0x20, 0x20, 0xA4, 0x02] }

theorem test_step_add : afterStep codeS (fun t => t.getS u0 4 == 8 && (t.ctx u0).pc == 0x100008) = true := by decide +kernel
theorem test_step_illegal : afterStep { codeS with mem := mwrite [] (2 ^ 56) [0, 0, 0, 0, 0, 0, 0, 0xFE] } (fun t => faultOf t u0 == some (1, 1)) = true := by
  decide +kernel
/-- With nothing to issue a beat passes, here the eighth of a tick (R303, R310). -/
theorem test_step_tick : afterStep { State.reset with power := .ready, beat := 7 } (fun t => (t.die 0).tick == 1 && (t.die 3).raw == 1 && t.beat == 0) = true := by
  decide +kernel
theorem test_reset_off : afterStep State.reset (fun t => t == State.reset) = true := by decide +kernel
/-- StepRunsDecodedInstruction: a turn that fetches, an event, a turn, a generator's word, and nothing to issue. -/
theorem witness_step_fetch : ∃ s1 p, routePart codeS (codeS.req u0) .fetch (codeS.ctx u0).pc 8 = (s1, .ok p) ∧ locked s1 p.loc 8 = false ∧
    poisonedAt s1 p.loc 8 = false := ⟨_, _, rfl, by decide +kernel, by decide +kernel⟩
theorem witness_step :
    turnOk codeS.cur = true ∧ codeS.moves = [] ∧ codeS.issuer = some u0 ∧ ({ codeS with moves := [.event .schedulerTick] } : State).moves = [.event .schedulerTick] ∧
      (State.reset.withFetchWord 32 0x05403FFF).generator = some (0, 0, 0) ∧ State.reset.issuer = none ∧ State.reset.generator = none := by decide +kernel
theorem witness_step_fault :
    (match routePart codeS (codeS.req u0) .fetch 0x8000000000000000 8 with
    | (_, .fault _) => true
    | _ => false) = true := by decide +kernel
/-- IssueOrder. -/
theorem witness_order : (strandS {}).cur = .tile 0 0 ∧ (strandS {}).ready (.strand 0 0 0) = true := by decide +kernel
/-- StepKeepsMemoryCanonical, MemoryLaws. -/
theorem witness_memory : Safety.memInv codeS ∧ afterStep codeS (fun _ => true) = true := ⟨by unfold Safety.memInv; decide +kernel, by decide +kernel⟩

/-! ## Faults, the lanes, the itinerary -/

/-- A halted task with a record on its slow lane. -/
def recS (fast : Bool) (c : Ctx) : State :=
  { hubS c with tasks := [(0, if fast then { task0 with fast := [(0, 0x123)] } else { task0 with slow := [(32, 0x123)] })], dies := [(0, { lanehub := 0 })] }

theorem test_stopr :
    after (.stopr g0 3 1 0) (recS true { s := [(1, 0x200000)] , apTile := 0, apDie := 1 }) (fun t => t.getS h0 3 == 3 && mget t.mem (2 ^ 58 + 0x200000) == 0x23 &&
      ((t.task 0).map (fun k => k.fast.length)) == some 0) = true := by decide +kernel
theorem test_stopr_empty : after (.stopr g0 3 1 0) (hubS (regs [(3, 9)])) (fun t => t.getS h0 3 == 0 && t.mem == []) = true := by decide +kernel
theorem test_isol_freezes : (((takeFault (hubS {}) h0 { cls := 0x0E, detail := 1, addr := 0 }).ctx h0).frozen) = true := by decide +kernel

/-- A strand whose tile has an itinerary at TILE offset 0x100 with two items. -/
def itS (cur : BitVec 32) : State :=
  { strandS {} with
    tiles := [(0, { holder := some 0, itbase := 0x100101, itcur := cur })]
    mem := mwrite [] (2 ^ 56 + 0x100) ([2, 0, 0, 0, 0, 0, 0, 0] ++ [0x11, 0, 0, 0, 0, 0, 0, 0] ++ [0x22, 0, 0, 0, 0, 0, 0, 0]) }

theorem test_itnext_item : after (.itnext g0 3 1) (itS 1) (fun t => t.getS u0 3 == 0x22 && !t.getP u0 1 && (t.tile 0 0).itcur == 2) = true := by decide +kernel
theorem test_itnext_end : after (.itnext g0 3 1) (itS 2) (fun t => t.getS u0 3 == 0 && t.getP u0 1 && (t.tile 0 0).itcur == 2) = true := by decide +kernel

/-- HubHandlerEntry: outside a handler, inside one, and ISOL. -/
theorem witness_hub_entry : (3 : Nat) ≠ 0x0E ∧ ((hubS {}).ctx h0).hstat = false ∧ ((hubS { hstat := true }).ctx h0).hstat = true := by decide +kernel
/-- StrandFaultHaltsPartition: the halt line down, up, and no task. -/
theorem witness_strand_fault :
    ((strandS {}).ctx u0).task = some 0 ∧ (strandS {}).task 0 = some task0 ∧ task0.halt = none ∧
      ({ task0 with halt := some .fault } : Task).halt ≠ none ∧ ((hubS {}).ctx u0).task = none := by decide +kernel
/-- TaskControl. -/
theorem witness_task_control : (hubS {}).taskOf h0 = none ∧ (strandS {}).taskOf u0 = some 0 ∧ (strandS {}).task 0 = some task0 := by decide +kernel
/-- IdleWaits: a deadline that has come, the doorbell, a record, and none of them; a core that waits. -/
theorem witness_idle :
    ((5 : Word) ≠ 0 ∧ (5 : Word).toNat ≤ (({ hubS {} with dies := [(0, { tick := 5 })] } : State).die 0).tick.toNat) ∧
      (({ hubS {} with dies := [(0, { hdoor := 1 })] } : State).die 0).hdoor.getLsbD 0 = true ∧ stopNext (recS true {}) 0 0 ≠ none ∧
      stopNext (hubS {}) 0 0 = none ∧ ((hubS { stall := .idle 5 }).ctx h0).stall = .idle 5 ∧ ((hubS { stall := .idle 5 }).ctx h0).frozen = false := by
  decide +kernel
/-- StopRecordRead: a misaligned address, an empty lane, a record on either lane, and a store that faults. -/
theorem witness_stopr :
    (0x200001 : Nat) % 64 ≠ 0 ∧ stopNext (hubS {}) 0 0 = none ∧ stopNext (recS true {}) 0 0 = some (true, 0, 0x123) ∧
      stopNext (recS false {}) 0 0 = some (false, 0, 0x123) ∧
      (match writeGen (recS false {}) ((recS false {}).req h0) 0x200000 (leBytes 64 0x123) with | (_, .ok ()) => true | _ => false) = true ∧
      (match writeGen (recS false {}) ((recS false {}).req h0) 0x8000000000000000 (leBytes 64 0x123) with | (_, .fault _) => true | _ => false) = true := by
  decide +kernel
/-- ItineraryNext: none, exhausted, an item, and a header with a reserved bit. -/
theorem witness_itinerary :
    ((strandS {}).tile 0 0).itbase.toNat % 2 = 0 ∧ ((itS 1).tile 0 0).itbase.toNat % 2 = 1 ∧
      readGen (noteIssue (itS 1) u0) ((noteIssue (itS 1) u0).req u0) 0x100100 8 = (noteIssue (itS 1) u0, .ok [2, 0, 0, 0, 0, 0, 0, 0]) ∧
      leNat [2, 0, 0, 0, 0, 0, 0, 0] < 2 ^ 32 ∧ leNat [2, 0, 0, 0, 0, 0, 0, 0] ≤ ((itS 2).tile 0 0).itcur.toNat ∧
      ((itS 1).tile 0 0).itcur.toNat < leNat [2, 0, 0, 0, 0, 0, 0, 0] ∧ 2 ^ 32 ≤ leNat [0, 0, 0, 0, 1, 0, 0, 0] ∧
      readGen (noteIssue (itS 1) u0) ((noteIssue (itS 1) u0).req u0) 0x100110 8 = (noteIssue (itS 1) u0, .ok [0x22, 0, 0, 0, 0, 0, 0, 0]) := by
  decide +kernel

/-! ## Memory, tokens, barriers -/

/-- A strand with a value and an address in its TILE window. -/
def memS (v a : Word) : State := { strandS (regs [(1, a), (2, v), (3, 5)]) with mem := mwrite [] (2 ^ 56) [1, 2, 3, 4, 5, 6, 7, 8] }

theorem test_ld_half : after (.ld g0 ⟨1, 0, 0, 0⟩ 4 1 3 1) (memS 0 0xFFFF8) (fun t => t.getS u0 4 == 0x0504) = true := by decide +kernel
theorem test_ld_scaled : after (.ld g0 ⟨1, 0, 0, 0⟩ 4 1 3 0x1FFFFFFC) (memS 0 0x0FFFFC) (fun t => t.getS u0 4 == 0x0403) = true := by decide +kernel
theorem test_ld_byte_top : after (.ld g0 ⟨0, 0, 0, 0⟩ 4 1 0 7) (memS 0 0x100000) (fun t => t.getS u0 4 == 8) = true := by decide +kernel
theorem test_ld2_pair :
    after (.ld2 g0 ⟨2, 0, 0, 0⟩ 4 1 0 0) (memS 0 0x100000) (fun t => t.getS u0 4 == 0x04030201 && t.getS u0 5 == 0x08070605) = true := by decide +kernel
theorem test_st_byte :
    after (.st g0 ⟨0, 0, 0, 0⟩ 2 1 0 3) (memS 0x1FF 0x100000) (fun t => mread t.mem (2 ^ 56) 5 == [1, 2, 3, 0xFF, 5]) = true := by decide +kernel
theorem test_st2_order :
    after (.st2 g0 ⟨1, 0, 0, 0⟩ 2 1 0 0) (memS 0xABCD 0x100000) (fun t => mread t.mem (2 ^ 56) 5 == [0xCD, 0xAB, 5, 0, 5]) = true := by decide +kernel
theorem test_ld_misaligned : after (.ld g0 ⟨2, 1, 0, 1⟩ 4 1 0 2) (memS 0 0x100000) (fun t => faultOf t u0 == some (3, 1) && t.getS u0 4 == 0) = true := by
  decide +kernel
/-- R86: adding 1 to a bank word of 0 returns 0 and leaves 1. -/
theorem test_atom_add :
    after (.atom g0 ⟨2, 2, 0, 1⟩ 0 4 1 3 8) (memS 0 0x100000) (fun t => t.getS u0 4 == 0 && mread t.mem (2 ^ 56 + 8) 4 == [5, 0, 0, 0]) = true := by
  decide +kernel
theorem test_atom_min_signed :
    after (.atom g0 ⟨2, 2, 0, 1⟩ 5 4 1 2 0) (memS 0xFFFFFFFF 0x100000) (fun t => t.getS u0 4 == 0x04030201 && mread t.mem (2 ^ 56) 4 == [255, 255, 255, 255]) = true := by
  decide +kernel
theorem test_cas_fails :
    after (.cas g0 ⟨2, 2, 0, 1⟩ 3 1 2 0) (memS 7 0x100000) (fun t => t.getS u0 3 == 0x04030201 && mread t.mem (2 ^ 56) 4 == [1, 2, 3, 4]) = true := by
  decide +kernel
theorem test_cas_swaps :
    after (.cas g0 ⟨2, 2, 0, 1⟩ 3 1 2 0) (memS 0x04030201 0x100000) (fun t => t.getS u0 3 == 0x04030201 && mread t.mem (2 ^ 56) 4 == [5, 0, 0, 0]) = true := by
  decide +kernel
theorem test_apcv_rel : after (.apcvRel g0 0 4 1) (memS 0 0x1ABCDE) (fun t => t.getS u0 4 == 0xABCDE) = true := by decide +kernel
theorem test_apcv_gen_beyond : after (.apcvGen g0 0 4 1) (memS 0 0x100000) (fun t => t.getS u0 4 == 0xFFFFFFFFFFFFFFFF) = true := by decide +kernel
theorem test_apin_any : after (.apin g0 3 1 1) (memS 0 0x200000) (fun t => !t.getP u0 1) = true := by decide +kernel
theorem test_wait_done : after (.wait g0 false 1 5) (strandS { tok := [(0, ⟨.done, 0⟩), (2, ⟨.error, 1⟩)] }) (fun t => !t.getP u0 1 && (t.ctx u0).pc == 8) = true := by
  decide +kernel
theorem test_wait_stalls : after (.wait g0 false 1 5) (strandS { tok := [(0, ⟨.done, 0⟩), (2, ⟨.busy, 0⟩)] }) (fun t => (t.ctx u0).stall == .wait false 1 5) = true := by
  decide +kernel
theorem test_tokq_clear_busy : after (.tokqClr g0 2) (strandS { tok := [(2, ⟨.busy, 0⟩)] }) (fun t => faultOf t u0 == some (0x0B, 3)) = true := by decide +kernel
theorem test_meet_last : after (.meetAw g0 1 4 3 1) (strandS {}) (fun t => t.getS u0 4 == 0 && (t.ctx u0).stall == .none && (barSlot t u0 1 3).phase == 1) = true := by
  decide +kernel
theorem test_meet_waits : after (.meetAw g0 1 4 3 2) (strandS {}) (fun t => (t.ctx u0).stall == .meet 1 3 0 && (barSlot t u0 1 3).count == 1) = true := by decide +kernel

/-- The parts of an 8-byte access at the base of the TILE window. -/
def tbPart (n : Nat) : Place := ⟨2 ^ 56, false, false, n⟩

/-- LoadResults, StoreResults, StoreFrame, AtomicResults: an aligned access that is routed to the tile buffer. -/
theorem witness_routed (need : Need) :
    routed (memS 0 0x100000) u0 false need 0x100000 8 (noteIssue (memS 0 0x100000) u0) [tbPart 8] ∧ partFault (noteIssue (memS 0 0x100000) u0) true 0x100000 [tbPart 8] = none ∧
      partFault (noteIssue (memS 0 0x100000) u0) false 0x100000 [tbPart 8] = none ∧
      (0x100000 : Word).toNat % 8 = 0 ∧ 2 ≤ (3 : BitVec 2).toNat ∧ after (.st g0 ⟨3, 0, 0, 0⟩ 2 1 0 0) (memS 0 0x100000) (fun _ => true) = true := by
  refine ⟨⟨?_, ?_⟩, by decide +kernel, by decide +kernel, by decide +kernel, by decide +kernel, by decide +kernel⟩
  · cases need <;> decide +kernel
  · unfold AtHome; decide +kernel
theorem witness_routed_pair : routed (memS 0 0x100000) u0 false .load 0x100000 16 (noteIssue (memS 0 0x100000) u0) [tbPart 16] :=
  ⟨by decide +kernel, by unfold AtHome; decide +kernel⟩
/-- TileWindowStoreLoad: the last aligned offset of the window. -/
theorem witness_tile_window :
    let s := memS 0 0x1FFFF8
    Issues s u0 g0 ∧ (s.ctx u0).apTile.toNat % 2 = 1 ∧ (s.ctx u0).apTile.toNat / 2 ^ 20 = (s.getS u0 1).toNat / 2 ^ 20 ∧ (s.getS u0 1).toNat % 8 = 0 ∧
      Memory.wf s.mem = true ∧ Clear s u0 ∧ poisonedAt s (2 ^ 56 + 0xFFFF8) 8 = false :=
  ⟨⟨by decide +kernel, by decide +kernel⟩, by decide +kernel, by decide +kernel, by decide +kernel, by decide +kernel, by unfold Clear; decide +kernel, by decide +kernel⟩
/-- TileWindowAccesses: the first access in a unit of 64 KiB, and the last of 16 bytes. -/
theorem witness_tile_accesses :
    Clear (memS 0 0x100000) u0 ∧ InTile (memS 0 0x100000) u0 0x100000 1 ∧ InTile (memS 0 0x100000) u0 0x1FFFF0 16 ∧ Sound (memS 0 0x100000) u0 0x100000 16 := by
  unfold Clear InTile Sound; decide +kernel
/-- MisalignedAccessesTrap. -/
theorem witness_misaligned_access : (1 : BitVec 2) ≠ 0 ∧ (0x100004 : Word).toNat % 8 ≠ 0 ∧ (0x100004 : Word).toNat % min 16 8 ≠ 0 := by decide +kernel
/-- ApertureConversions: inside and outside a window, an offset within and beyond its size, a disabled window. -/
theorem witness_apertures :
    (2 : BitVec 2) ≠ 3 ∧ ((strandS {}).ctx u0).apTile.toNat % 2 = 1 ∧ 0x100000 ≤ (0x1FFFFF : Nat) ∧ (0x1FFFFF : Nat) < 0x100000 + 2 ^ 20 ∧
      ((strandS {}).ctx u0).apClus.toNat % 2 = 0 ∧ (0xFFFFF : Nat) < 2 ^ 20 ∧ 2 ^ 20 ≤ (0x100000 : Nat) := by decide +kernel
/-- PrefetchAndWalks: a page of no window that is not held, a walk in flight. -/
theorem witness_walks :
    u0.isHub = false ∧ windowOf ((strandS {}).req u0 false) 0x40000000 = .virt ∧
      (({ strandS {} with dies := [(0, { walks := [⟨1, 0x40000000, [0]⟩] })] } : State).die 0).walks[0]? = some ⟨1, 0x40000000, [0]⟩ ∧
      (match walkOwner (strandS {}) 0 1 0x40000000 with | .fault _ => true | _ => false) = true := by decide +kernel
/-- An owner with a page table at 0x1000 whose leaves map the first two GiB to themselves (R39, R40). -/
def ownerS (s : State) : State :=
  { s with owners := [(1, { v := true, troot := 0x1000, grant := 3 })], mem := mwrite (mwrite s.mem 0x1000 [1, 0x20]) 0x2000 [0x0F, 0, 0, 0, 0, 0, 0, 0, 0x0F, 0, 0, 0x40] }
theorem test_walk_leaf : (match walkOwner (ownerS (strandS {})) 0 1 0x12345678 with | .ok l => leafPa l 0x12345678 == 0x12345678 && l.size == 2 | _ => false) = true := by
  decide +kernel
theorem witness_walk_ok :
    (match walkOwner (ownerS (strandS {})) 0 1 0x12345678 with | .ok l => populated (ownerS (strandS {})) 0 (leafPa l 0x12345678) 1 | _ => false) = true := by
  decide +kernel
theorem test_store_through_pages :
    after (.st g0 ⟨3, 0, 0, 0⟩ 2 1 0 0) (ownerS (strandS (regs [(1, 0x48000000), (2, 0x55)]))) (fun t => mget t.mem 0x48000000 == 0x55) = true := by decide +kernel
theorem test_load_no_owner : after (.ld g0 ⟨3, 0, 0, 0⟩ 2 1 0 0) (strandS (regs [(1, 0x48000000)])) (fun t => (faultOf t u0).map (·.1) == some 4) = true := by
  decide +kernel

/-- An access that waits for another package's answer. -/
def pend0 (k : AccKind) : Pending := { agent := u0, kind := k, addr := 0x40000000, size := 8, len := 8, nc := false, task := some 0, parts := [(0x40000, 8)], remote := false, host := false, ticks := 9 }
/-- NopYieldFence: with no abandoned access, and with one that is still to be performed. -/
theorem witness_fence :
    let s : State := { strandS {} with pend := [{ pend0 (.store [1]) with stale := true }] }
    Issues s u0 g0 ∧ (∀ p ∈ s.pend, p.agent = u0 ∧ p.stale = true ∧ p.orphan = false) ∧ Clear (strandS {}) u0 ∧
      after (.fence g0 true true true true 3) s (fun t => (t.ctx u0).pc == 0) = true ∧ inScope s u0 3 0x40000 = true ∧ inScope s u0 1 0x40000 = false := by
  refine ⟨⟨?_, ?_⟩, ?_, ?_, ?_⟩
  case refine_4 => unfold Clear; decide +kernel
  all_goals decide +kernel
/-- AccessesWait: aligned addresses whose translation waits for a walk, and whose frame a migration has locked. -/
theorem witness_accesses_wait :
    let s := ownerS (strandS (regs [(1, 0x48040000), (2, 5), (6, 6)]))
    let l : State := { s with locks := [(0x48040000, 65536)] }
    let w : State := s.modDie 0 (fun y => { y with walks := (List.range 64).map (fun i => ⟨1, nat64 (65536 * i), [0]⟩) })
    let o : SmOpt := ⟨3, 0, 0, 0⟩
    let is : List Instr := [.ld g0 o 4 1 0 0, .st g0 o 4 1 0 0, .ld2 g0 o 4 1 0 0, .st2 g0 o 4 1 0 0, .atom g0 ⟨3, 2, 0, 1⟩ 0 4 1 2 0, .cas g0 ⟨3, 2, 0, 1⟩ 4 1 2 0]
    (0x48040000 : Word).toNat % 16 = 0 ∧ Clear l u0 ∧ Clear w u0 ∧
      is.all (fun i => after i l (fun t => t.pend.length == 1 && (t.ctx u0).stall == .access && t.mem == l.mem)) = true ∧
      is.all (fun i => after i w (fun t => t.pend == [] && (t.ctx u0).pc == 0 && (t.ctx u0).stall == .none && (t.ctx u0).fault.isNone)) = true ∧
      hostAtomic (.atom 0 4 2) = true ∧ hostAtomic (.atom 1 4 2) = false := by
  unfold Clear; decide +kernel
/-- A strand that waits for it. -/
def waitS (k : AccKind) : State := { strandS { stall := .access } with pend := [pend0 k] }
theorem test_waiting_load : after (.memoryAccessPerform 0) { waitS (.load 4 false) with mem := [(0x40000, 7)] } (fun t => t.getS u0 4 == 7 && t.pend == [] && (t.ctx u0).pc == 8) = true := by
  decide +kernel
/-- WaitingAccessPerforms: a store and a load. -/
theorem witness_waiting :
    (waitS (.store [1])).pend[0]? = some (pend0 (.store [1])) ∧ (pend0 (.store [1])).parts ≠ [] ∧ (pend0 (.load 4 false)).orphan = false ∧
      ((waitS (.store [1])).ctx u0).stall = .access ∧ (∀ x ∈ pendPlaces (pend0 (.store [1])), locked (waitS (.store [1])) x.loc x.len = false) ∧
      (∀ x ∈ pendPlaces (pend0 (.store [1])), homeReach (waitS (.store [1])) 0 x.loc = true) ∧ (pend0 (.store [1])).remote = false ∧
      (pend0 (.store [1])).answered = false ∧ (pend0 (.store [1])).stale = false ∧
      partFault (waitS (.load 4 false)) true 0x40000000 (pendPlaces (pend0 (.load 4 false))) = none ∧
      partFault (waitS (.store [1])) false 0x40000000 (pendPlaces (pend0 (.store [1]))) = none := by decide +kernel
/-- WaitingAccessPerforms: a probe, and an access whose page is held. -/
theorem witness_waiting_probe :
    (waitS (.probe (some 2))).pend[0]? = some (pend0 (.probe (some 2))) ∧ (∀ x ∈ pendPlaces (pend0 (.probe (some 2))), homeReach (waitS (.probe (some 2))) 0 x.loc = true) ∧
      locked { waitS (.load 4 false) with locks := [(0x40000, 65536)] } 0x40000 8 = true := by decide +kernel
theorem test_probe_answered : after (.memoryAccessPerform 0) (waitS (.probe (some 2))) (fun t => t.pend.all (fun p => p.answered) && t.pend.length == 1) = true := by decide +kernel
/-- MeetBarriers: a free slot and one that counts for another N; a wait that goes on at once, one that stalls, one that ends. -/
theorem witness_barriers :
    let t (b : Barrier) : State := setBarSlot (strandS { stall := .meet 1 3 0 }) u0 1 3 b
    (16 : BitVec 16) ≠ 0 ∧ (barSlot (strandS {}) u0 1 3).count = 0 ∧ (barSlot (t ⟨0, 1, 4⟩) u0 1 3).n = 4 ∧ (barSlot (t ⟨0, 1, 4⟩) u0 1 3).count ≠ 0 ∧
      (barSlot (t ⟨1, 0, 4⟩) u0 1 3).phase ≠ 0 ∧ (barSlot (strandS {}) u0 1 3).phase = 0 ∧ tfind ((strandS {}).ctx u0).met 0 = none ∧
      tfind ((strandS { met := [(0, 1)] }).ctx u0).met 0 = some 1 ∧ ((t ⟨1, 0, 4⟩).ctx u0).stall = .meet 1 3 0 ∧ mayProceed (t ⟨1, 0, 4⟩) u0 = true ∧ hasCycles (t ⟨1, 0, 4⟩) u0 = true := by decide +kernel
/-- TokenWaits: each state of a token, a stalled WAIT that is over. -/
theorem witness_tokens :
    let s := strandS { tok := [(0, ⟨.busy, 0⟩), (1, ⟨.done, 0⟩), (2, ⟨.error, 1⟩)], stall := .wait true 1 3 }
    ((s.ctx u0).getTok 0).st = .busy ∧ ((s.ctx u0).getTok 1).st = .done ∧ ((s.ctx u0).getTok 2).st = .error ∧ ((s.ctx u0).getTok 3).st = .idle ∧
      (s.ctx u0).stall = .wait true 1 3 ∧ mayProceed s u0 = true ∧ hasCycles s u0 = true := by decide +kernel
/-- StallWatchdogs: the three stalls at their limits. -/
theorem witness_watchdogs :
    let s (c : Ctx) : State := strandS c
    let w := s { stall := .wait false 1 1, tok := [(0, ⟨.busy, 0⟩)], ticks := 1000000 }
    let m := s { stall := .meet 1 3 0, ticks := 20000000 }
    w.taskOf u0 = some 0 ∧ w.task 0 = some task0 ∧ mayProceed w u0 = true ∧ recBits task0.lrec 991 960 = 0 ∧ recBits task0.lrec 1023 992 = 0 ∧
      (w.ctx u0).stall = .wait false 1 1 ∧ waitOver (w.ctx u0) false 1 = false ∧ 1000000 ≤ (w.ctx u0).ticks ∧
      (m.ctx u0).stall = .meet 1 3 0 ∧ (barSlot m u0 1 3).phase = 0 ∧ 20000000 ≤ (m.ctx u0).ticks := by decide +kernel
/-- StallWatchdogs: an operation whose access a migration has held for as long as the record allows, and a strand's own. -/
theorem witness_watchdog_op :
    let o : EngOp := { kind := .copy, st := .started, agent := u0, tok := 2, scope := 1, desc := 0, apTile := 0x100001, apClus := 0, apDie := 0 }
    let s (k : AccKind) : State :=
      { strandS { tok := [(2, ⟨.busy, 0⟩)], stall := .access } with pend := [{ pend0 k with heldTicks := 1000000 }], ops := [(2, o)], locks := [(0x40000, 65536)] }
    let a := s (.probe (some 2))
    a.op u0 2 = some o ∧ opRuns a o = true ∧ (a.pend[0]?).map (·.heldTicks) = some 1000000 ∧ mayProceed a u0 = true ∧ locked a 0x40000 8 = true ∧
      a.pend.all (fun x => x.task == some 0 && !x.orphan && !x.stale && !x.answered && x.failed.isNone) = true ∧ isProbe (pend0 (.store [1])) = false ∧
      after (.heldAccessWatchdogExpiry 0) a (fun t => t.getTok u0 2 == ⟨.error, 1⟩ && t.pend == []) = true ∧
      after (.heldAccessWatchdogExpiry 0) (s (.store [1])) (fun t => faultOf t u0 == some (9, 3) && t.pend == []) = true := by decide +kernel
theorem test_wait_watchdog :
    after (.waitWatchdogExpiry u0) (strandS { stall := .wait false 1 1, tok := [(0, ⟨.busy, 0⟩)], ticks := 1000000 }) (fun t => faultOf t u0 == some (9, 2)) = true := by
  decide +kernel

/-! ## Gears, islands, time, links, power -/

/-- A strand whose tile stands in some state of a change. -/
def gearS (x : Tile) (c : Ctx) : State := { strandS c with tiles := [(0, { x with holder := some 0 })] }
/-- A change of tile 0 to gear 1 and spine 3, for the strand in slot 0. -/
def ch0 : Change := ⟨some 0, some true, 3⟩

theorem test_gear_begins :
    after (.gear g0 true 3) (gearS { g1ok := true } {}) (fun t => (t.tile 0 0).st == .quiesce && !(t.tile 0 0).gear && (t.ctx u0).stall == .gear) = true := by
  decide +kernel
/-- Spine 4 runs at 1,350 MHz (R289): gear 0 must not take it (R293). -/
theorem test_gear_frequency : after (.gear g0 false 4) (strandS {}) (fun t => faultOf t u0 == some (0x10, 1)) = true := by decide +kernel
theorem test_spine_same : after (.spine g0 5) (strandS {}) (fun t => (t.ctx u0).pc == 8 && (t.tile 0 0).st == .run) = true := by decide +kernel
theorem test_gear_done :
    after (.spineClockStable 0 0) (gearS { st := .settle, change := [ch0] } { stall := .gear })
      (fun t => (t.tile 0 0).gear && (t.tile 0 0).spine == 3 && (t.tile 0 0).st == .run && (t.ctx u0).pc == 8) = true := by decide +kernel
theorem test_island_ramps : after (.islandLevelReached 0 0) (gearS { st := .ramp, change := [ch0] } {}) (fun t => (t.island 0 0).lvl == 4 && (t.tile 0 0).st == .switch) = true := by
  decide +kernel
/-- R295: to gear 1 the supply comes up before the multiplexer moves. -/
theorem test_switch_up :
    after (.islandLevelReached 0 0) (gearS { st := .switch, change := [ch0] } {}) (fun t => (t.tile 0 0).rail && (t.tile 0 0).mux == 5 && (t.tile 0 0).st == .switch) = true := by
  decide +kernel
theorem test_rvote_cap : after (.rvote g0 3 4) { strandS {} with dies := [(0, { islands := [(0, { cap := 3 })] })] } (fun t => faultOf t u0 == some (0x10, 4)) = true := by
  decide +kernel
theorem test_realign : after (.realign g0 3 1) { strandS (regs [(1, 77)]) with dies := [(0, { raw := 1000 })] } (fun t => (t.ctx u0).stall == .realign 77 3 1512 false) = true := by
  decide +kernel
theorem test_align :
    after (.milepostAlignment u0 []) { strandS { stall := .realign 77 3 1512 false } with dies := [(0, { raw := 1512 })] }
      (fun t => visible t u0 0 == 77 && t.getS u0 3 == 1512 && (t.ctx u0).pc == 8) = true := by decide +kernel
theorem test_latq_far : after (.latq g0 3 1 2) (strandS (regs [(1, 4), (2, 0)])) (fun t => t.getS u0 3 == 0xFFFFFFFFFFFFFFFF) = true := by decide +kernel
theorem test_port_degraded : after (.swelinPortTrained 0 8 2 9 1) { State.reset with power := .ready } (fun t => (swPort t 0 8).st == .degraded && (swPort t 0 8).peerPkg == 9) = true := by
  decide +kernel
theorem test_flit_bad :
    after (.swelinFlitReceive 0 1 .bad) { State.reset with dies := [(0, { ports := [(1, { st := .up, fails := 16 })] })] }
      (fun t => (swPort t 0 1).st == .train && (swPort t 0 1).crcerr == 1) = true := by decide +kernel

/-- GearChangeIssue: a tile alone, each of its checks, and a change to what the tile runs. -/
theorem witness_gear :
    let s := strandS {}
    let y := gearS { g1ok := true } {}
    gearTiles s 0 0 = [0] ∧ arrivalOpen s 0 [0] = false ∧ (s.tile 0 0).change = [] ∧ 1000 < (spineAt s 4).freq.toNat ∧ (s.tile 0 0).g1ok = false ∧
      gearFault s 0 0 false 5 = none ∧ (s.tile 0 0).gear = false ∧ (s.tile 0 0).spine = 5 ∧ gearFault y 0 0 true 3 = none ∧ ¬ ((y.tile 0 0).gear = true ∧ (y.tile 0 0).spine = 3) := by
  decide +kernel
/-- GearChangeSequence: each state of the sequence, and a deferred change. -/
theorem witness_gear_sequence :
    let y (x : Tile) : State := gearS x { stall := .gear }
    let d := y { defer := true, change := [ch0], g1ok := true }
    gearTiles (y {}) 0 0 = [0] ∧ ((y { st := .quiesce }).tile 0 0).st = .quiesce ∧ ((y { st := .ramp, change := [ch0] }).tile 0 0).change = [ch0] ∧
      ((y { st := .settle, change := [ch0] }).tile 0 0).st = .settle ∧ ch0.slot = some 0 ∧ ((y {}).ctx u0).stall = .gear ∧ ((y {}).task 0).map (·.resuming) = some false ∧
      ((y { st := .switch, change := [ch0], rail := true }).tile 0 0).rail = true ∧ ((y { st := .switch, change := [⟨some 0, some false, 5⟩], rail := true, mux := 3 }).tile 0 0).mux ≠ 5 ∧
      (d.tile 0 0).st = .run ∧ (d.tile 0 0).defer = true ∧ arrivalOpen d 0 [0] = false ∧ mayProceed d u0 = true ∧ d.shake = false ∧
      gearFault d 0 0 true 3 = none ∧ (true, ch0.spine) ≠ ((d.tile 0 0).gear, (d.tile 0 0).spine) := by decide +kernel
/-- IslandVotes, PackageStall, TrimWindows. -/
theorem witness_islands :
    let s : State := { strandS {} with dies := [(0, { islands := [(0, { lvl := 3, cap := 3 })], trims := [(0, { cecnt := 15 }), (1, { cecnt := 16 }), (2, { frz := true }), (3, { wins := 1 })], tick := 2000000 })] }
    (s.island 0 0).cap.toNat < (4 : BitVec 3).toNat ∧ (3 : BitVec 3).toNat ≤ (s.island 0 0).cap.toNat ∧ (s.island 0 0).hold = 0 ∧ islandDemand s 0 0 < (s.island 0 0).lvl.toNat ∧
      (∀ t ∈ clusterTiles 0, (s.tile 0 t).st = .run) ∧ (∀ e ∈ s.tiles, e.2.st = .run) ∧ s.region r0 = some region0 ∧ 2000000 * ((s.trim 0 0).wins + 1) ≤ (s.die 0).tick.toNat ∧ (s.die 0).tick.toNat < 2000000 * ((s.trim 0 3).wins + 1) ∧
      (s.trim 0 0).frz = false ∧ (s.trim 0 0).cecnt.toNat < (s.trim 0 0).cetgt.toNat ∧ (s.trim 0 0).hadUnc = false ∧
      ¬ (s.trim 0 1).cecnt.toNat < (s.trim 0 1).cetgt.toNat ∧ (s.trim 0 2).frz = true ∧ (s.trim 0 2).frzleft = 0 := by decide +kernel
theorem witness_handshake : ({ strandS {} with shake := true } : State).shake = true ∧ (List.replicate 8 ((0 : BitVec 3), (500 : BitVec 16))).length = 8 := by decide +kernel
/-- TimeQueries on both sides of the range of a die number; RealignMilepost at the instant. -/
theorem witness_time :
    let s : State := { strandS { stall := .realign 77 3 1512 false, s := [(1, 3), (2, 4)] } with dies := [(0, { raw := 1512 })] }
    (s.getS u0 1).toNat ≤ 3 ∧ 3 < (s.getS u0 2).toNat ∧ (s.ctx u0).stall = .realign 77 3 1512 false ∧ (s.die 0).raw = 1512 ∧ mayProceed s u0 = true ∧
      s.taskOf u0 = some 0 ∧ s.task 0 = some task0 ∧ (0, 0) ∈ task0.tiles := by decide +kernel

/-- RealignMilepost: past the instant. -/
theorem witness_realign_done :
    let s := strandS { stall := .realign 77 3 1512 true }
    (s.ctx u0).stall = .realign 77 3 1512 true ∧ mayProceed s u0 = true ∧ after (.milepostAlignment u0 []) s (fun t => t.getS u0 3 == 1512 && (t.ctx u0).pc == 8) = true := by decide +kernel

/-- The descriptor of a timed send of 8 bytes from TILE offset 0x40 to offset 0x80 of logical tile 0 of die 0, at milepost 100. -/
def tsDesc (mp : Nat) : BitVec 512 := BitVec.ofNat 512 (0x100040 + mp * 2 ^ 64 + 0x80 * 2 ^ 152)
/-- A strand with that descriptor at TILE offset 0, and a send in some state. -/
def sendS (mp : Nat) (l : Tab EngOp) (tl : Tile) (raw : Word) (c : Ctx) : State :=
  { strandS c with
    mem := mwrite (mwrite [] (2 ^ 56) (leBytes 32 (tsDesc mp).toNat)) (2 ^ 56 + 0x40) [0xAA], ops := l, tiles := [(0, { tl with holder := some 0 })]
    dies := [(0, { raw := raw })] }
/-- A timed send. -/
def send0 (st : OpSt) : EngOp := { kind := .tsend, st := st, agent := u0, tok := 1, scope := 1, desc := tsDesc 100, apTile := 0x100001, apClus := 0, apDie := 0, data := [0xAA, 0, 0, 0, 0, 0, 0, 0] }

theorem test_tsend :
    after (.tsend g0 1 1 1 0) (sendS 100 [] {} 0 (regs [(1, 0x100000)])) (fun t => (t.getTok u0 1).st == .busy && (t.op u0 1).map (·.data) == some [0xAA, 0, 0, 0, 0, 0, 0, 0]) = true := by
  decide +kernel
theorem test_tsend_far : after (.tsend g0 1 1 1 0) (sendS (2 ^ 30 + 1) [] {} 0 (regs [(1, 0x100000)])) (fun t => faultOf t u0 == some (1, 0x3D)) = true := by decide +kernel
theorem test_tsend_deliver :
    after (.tsendDeliver 0 0) (sendS 100 [(1, send0 .arrived)] { sends := [1] } 100 {}) (fun t => mget t.mem (2 ^ 56 + 0x80) == 0xAA && (t.tile 0 0).sends == []) = true := by
  decide +kernel
/-- A send with a flag: its data lands first, in a step of its own (R316). -/
theorem test_tsend_data_first :
    let f := { send0 .arrived with desc := tsDesc 100 + BitVec.ofNat 512 (2 ^ 138) }
    after (.tsendDeliver 0 0) (sendS 100 [(1, f)] { sends := [1] } 100 {}) (fun t => mget t.mem (2 ^ 56 + 0x80) == 0xAA && (t.op u0 1).map (·.st) == some .landed) = true := by decide +kernel
theorem test_tsend_late :
    after (.tsendArrive u0 1) (sendS 100 [(1, send0 .started)] {} 101 { tok := [(1, ⟨.busy, 0⟩)] }) (fun t => mget t.mem (2 ^ 56 + 0x80) == 0xAA && (t.getTok u0 1).st == .error) = true := by
  decide +kernel
/-- TimedSends: at issue, at its bound, on arrival in time and late, at its milepost, and written. -/
theorem witness_tsend :
    let s := sendS 100 [(1, send0 .started)] {} 100 { tok := [(1, ⟨.busy, 0⟩)] }
    let d := sendS 100 [(1, send0 .arrived)] { sends := [1] } 100 {}
    let w := sendS 100 [(1, send0 .written)] {} 100 { tok := [(1, ⟨.busy, 0⟩)] }
    s.op u0 1 = some (send0 .started) ∧ opRuns s (send0 .started) = true ∧ sendAhead s (send0 .started) = false ∧ tsTile s u0 (tsDesc 100) = some 0 ∧
      (s.tile 0 0).sends.length < 32 ∧ (visible s u0 0).toNat ≤ (tsMp (tsDesc 100)).toNat ∧ (tsMp (tsDesc 99)).toNat < (visible s u0 0).toNat ∧
      dueSend d 0 0 = some (send0 .arrived) ∧ w.op u0 1 = some (send0 .written) ∧ opRuns w (send0 .written) = true := by decide +kernel
theorem witness_tsend_issue :
    let s := sendS 100 [] {} 0 (regs [(1, 0x100000)])
    (0x100000 : Word).toNat % 32 = 0 ∧ readLoads (noteIssue s u0) ((noteIssue s u0).req u0) 0x100000 4 = (noteIssue s u0, .ok (leBytes 32 (tsDesc 100).toNat)) ∧
      (s.getTok u0 1).st ≠ .busy ∧ (s.getTok u0 1).st ≠ .error ∧ reportPending s u0 1 = false ∧ tsFault s u0 (tsDesc 100) = none ∧
      tsBad (tsDesc (2 ^ 30 + 1)) = false ∧ (visible s u0 0).toNat + 2 ^ 30 < (tsMp (tsDesc (2 ^ 30 + 1))).toNat ∧
      readGen s (s.req u0) (dSrc (tsDesc 100)) (tsLen (tsDesc 100)) = (s, .ok [0xAA, 0, 0, 0, 0, 0, 0, 0]) := by decide +kernel
/-- LinkEvents: a port that may be trained, one that receives, its sixteenth failed replay, a remote access that is never answered. -/
theorem witness_links :
    let s : State := { strandS { stall := .access } with
      pend := [{ pend0 (.store [1]) with parts := [(2 ^ 41 + 0x40000, 8)], remote := true, ticks := 2000000 }], dies := [(0, { ports := [(1, { st := .up, fails := 15 }), (2, { st := .up, fails := 16 })] })] }
    (swPort s 0 0).st = .down ∧ (swPort s 0 1).st = .up ∧ (swPort s 0 1).fails < 16 ∧ 16 ≤ (swPort s 0 2).fails ∧
      s.pend[0]? = some { pend0 (.store [1]) with parts := [(2 ^ 41 + 0x40000, 8)], remote := true, ticks := 2000000 } ∧ (s.ctx u0).stall = .access ∧ mayProceed s u0 = true ∧
      s.pend.all (fun q => remotePart s q (2 ^ 41 + 0x40000)) = true ∧ isHost (2 ^ 41 + 0x40000) = false ∧
      after (.linkAckTimeout 0) s (fun t => (faultOf t u0).map (·.1) == some 0x16 && t.pend.map (·.stale) == [true]) = true := by decide +kernel
/-- A home whose owner 1 grants packages 0 and 3, and a request of package 3. -/
def homeS (l : List RemoteRec) : State :=
  { State.reset with
    power := .ready, owners := [(1, { v := true, grant := BitVec.ofNat 5120 (3 + 2 ^ 4096 + 2 ^ 4099) })], homeRecs := l, dies := [(0, { ports := [(1, { st := .up })] })] }
def req0 (pkg : Nat) (k : RemoteKind) : RemoteReq := ⟨pkg, 2, 9, 4, 1, false, 0x50000, k⟩
theorem test_remote_write :
    after (.swelinFlitReceive 0 1 (.request (req0 3 (.write [7])))) (homeS []) (fun t => mget t.mem 0x50000 == 7 && t.homeRecs.length == 1 && t.homeOut.length == 1 && t.access == [(5 * 4096 + 14, 1)]) = true := by decide +kernel
/-- R47: one for a frame that a migration has locked is held. -/
theorem test_remote_held :
    after (.swelinFlitReceive 0 1 (.request (req0 3 (.write [7])))) { homeS [] with locks := [(0x50000, 65536)] } (fun t => t.mem == [] && t.homeRecs == [] && t.homeHeld.length == 1) = true := by
  decide +kernel
/-- R320: a repeat is answered from the record and performed no second time. -/
theorem test_remote_repeat :
    after (.swelinFlitReceive 0 1 (.request (req0 3 (.write [7])))) (homeS [⟨3, 9, 4, .done []⟩]) (fun t => t.mem == [] && t.homeRecs.length == 1 && t.homeOut.length == 1) = true := by
  decide +kernel
/-- LinkEvents: a request that is new, one whose package the grant leaves out, one that is repeated. -/
theorem witness_remote :
    let s := homeS []
    (swPort s 0 1).st = .up ∧ s.homeRecs.find? (recordOf (req0 3 (.read 8))) = none ∧ locked s 0x50000 8 = false ∧ s.homeHeld = [] ∧
      (s.owner 1).grant.toNat.testBit (4096 + 3) = true ∧ (s.owner 1).grant.toNat.testBit (4096 + 4) = false ∧ (0x50000 : Nat).testBit 52 = false ∧
      locPkg 0x50000 = s.pkg.toNat ∧ inCapacity 0x50000 8 = true ∧ poisonedAt s 0x50000 8 = false ∧
      (homeS [⟨3, 9, 4, .done []⟩]).homeRecs.find? (recordOf (req0 3 (.read 8))) = some ⟨3, 9, 4, .done []⟩ := by decide +kernel
/-- PowerAndSelfTest: an error in a tile buffer, and a corrected one in an element of a tile on the fast rail. -/
theorem witness_errors :
    siteIn 0 0 (.word (2 ^ 56)) = true ∧ siteTrimmed { State.reset with tiles := [(0, { rail := true })] } (.word (2 ^ 56)) = true ∧
      siteTrimmed State.reset (.word (2 ^ 56)) = false ∧ (({ State.reset with tiles := [(0, { rail := true })] } : State).tile 0 0).rail = true := by decide +kernel
theorem test_corrected : after (.uncorrectableError 0 0 (.corrected (.element r0 0 0))) { State.reset with tiles := [(0, { rail := true })] } (fun t => (t.trim 0 0).cecnt == 1) = true := by
  decide +kernel
/-- TimedSends: a descriptor and its data in the TILE window; a send with a flag whose data is written. -/
theorem witness_tsend_tile :
    let s := sendS 100 [] {} 0 (regs [(1, 0x100000)])
    InTile s u0 0x100000 32 ∧ Sound s u0 0x100000 32 ∧ BitVec.ofNat 512 (numOf (tileBytes s u0 0x100000 32)) = tsDesc 100 ∧ InTile s u0 (dSrc (tsDesc 100)) (tsLen (tsDesc 100)) ∧
      Sound s u0 (dSrc (tsDesc 100)) (tsLen (tsDesc 100)) ∧ tsFen (tsDesc 100) = false ∧ dieReach s 0 (tsDie (tsDesc 100)) = true := by
  unfold InTile Sound; decide +kernel
/-- PowerAndSelfTest. -/
theorem witness_power :
    let s : State := { State.reset with power := .ready, dies := [(0, { sweepTicks := 100000000 })], tiles := [(1, { testing := true })] }
    State.reset.power = .off ∧ ({ State.reset with power := .bringup } : State).power = .bringup ∧ 100000000 ≤ (s.die 0).sweepTicks ∧ (s.tile 0 0).holder = none ∧
      (s.tile 0 0).testing = false ∧ tileFailed s 0 0 = false ∧ (s.tile 0 1).testing = true ∧ tfind (s.die 0).spare 1 = none := by decide +kernel
theorem test_self_test_column : after (.selfTestResult 0 1 [(0, 5), (3, 5)]) { State.reset with tiles := [(1, { testing := true })] }
    (fun t => tfind (t.die 0).spare 1 == some 5 && (t.die 0).failed == [] && (t.die 0).dmver == 1) = true := by decide +kernel
/-- R348: three failing elements of one column, and of two. -/
theorem test_self_test_tile : after (.selfTestResult 0 1 [(0, 5), (3, 5), (9, 6)]) { State.reset with tiles := [(1, { testing := true })] }
    (fun t => (tfind (t.die 0).spare 1).isNone && (t.die 0).failed == [1] && (t.die 0).cache == []) = true := by decide +kernel
theorem witness_self_test :
    ((0, 5) : Nat × Nat) ∈ [(0, 5), (3, 5), (7, 5)] ∧ (∀ y ∈ [((0, 5) : Nat × Nat), (3, 5), (7, 5)], y.2 = 5) ∧ (∃ y ∈ [((0, 5) : Nat × Nat), (3, 6)], y.2 ≠ 5) := by decide +kernel

/-! ## Control registers, paging, management, trust -/

theorem test_krd_tokens : after (.krd g0 3 0x020) (strandS { tok := [(0, ⟨.done, 0⟩), (1, ⟨.error, 1⟩)] }) (fun t => t.getS u0 3 == 0xE) = true := by decide +kernel
theorem test_kwr_window :
    after (.kwr g0 0x010 1) (strandS (regs [(1, 0x2FFFFE)])) (fun t => (t.ctx u0).apTile == 0x200001) = true := by decide +kernel
theorem test_kwr_numflg :
    after (.kwr g0 0x0A0 1) { strandS (regs [(1, 5)]) with regions := [(0, { region0 with numflg := 0x1F })] } (fun t => ((t.region r0).map (·.numflg)) == some 0x1A) = true := by
  decide +kernel
theorem test_trk_step :
    after (.trkstatStep g0 0 1) { strandS (regs [(1, 0x4000000000000000)]) with trks := [(0, { cur := 7, w := 2, window := [1, 2, 3] })] }
      (fun t => (t.trk 0 0 0).window == [2, 3, 7] && (t.trk 0 0 0).cur == 0) = true := by decide +kernel
theorem test_htvec : after (.kwr g0 0x300 1) (hubS (regs [(1, 0x1007)])) (fun t => (t.ctx h0).htvec == 0x1000) = true := by decide +kernel
/-- R354: core 0 can clear its own bit only. -/
theorem test_hdoor : after (.kwr g0 0x603 1) { hubS (regs [(1, 4)]) with dies := [(0, { hdoor := 3 })] } (fun t => (t.die 0).hdoor == 6) = true := by decide +kernel
theorem test_xinv : after (.kwr g0 0x311 1) (hubS (regs [(1, 0x100000001)])) (fun t => ((t.die 0).shoot.map (fun x => (x.kind, x.owner, x.left.length))) == some (1, 1, 37)) = true := by
  decide +kernel
theorem test_xinv_bad : after (.kwr g0 0x311 1) (hubS { s := [(1, 3)], htvec := 0x80 }) (fun t => (t.ctx h0).hcause == 0x103 && (t.ctx h0).pc == 0x80) = true := by
  decide +kernel
theorem test_drain_budget : after (.mcmdDrainBudget 0 7) (hubS {}) (fun t => t.budget == 7 && (t.die 0).busy) = true := by decide +kernel
theorem test_mcmd_busy : after (.mcmdRestart 0 0) { hubS {} with dies := [(0, { busy := true, stop := 1 })] } (fun t => (t.die 0).err && (t.die 0).stop == 1) = true := by
  decide +kernel
theorem test_tdi_start_nonce :
    after (.tdictlStart g0 1) { hubS (regs [(1, 0x500000004)]) with vfs := [(5, { st := .locked, nonce := 1 })] } (fun t => t.doe.res == 4 && (t.vf 5).st == .locked) = true := by
  decide +kernel
/-- R384: the answers of STATE, and of LOCK and REPORT that are refused. -/
theorem test_tdi_state :
    after (.tdictlState g0 1) { hubS (regs [(1, 0x500000003)]) with vfs := [(5, { st := .run })] } (fun t => t.doe.res == 0 && t.doe.len == 1 && mget t.mem (2 ^ 58 + 0x810) == 2) = true := by
  decide +kernel
theorem test_tdi_lock_refused :
    after (.tdictlLock g0 1) { hubS (regs [(1, 0x500000001)]) with vfs := [(5, { st := .run })] } (fun t => t.doe.res == 3) = true ∧
      after (.tdictlLock g0 1) { hubS (regs [(1, 0x500000001)]) with ide := [] } (fun t => t.doe.res == 1) = true ∧
      after (.tdictlLock g0 1) { hubS (regs [(1, 0x500000001)]) with ide := [(0, 5)], tasks := [(0, { task0 with vf := 5 })] } (fun t => t.doe.res == 2) = true ∧
      after (.tdictlState g0 1) (hubS (regs [(1, 3)])) (fun t => t.doe.res == 3) = true := by decide +kernel
theorem test_tdi_stop_tasks :
    after (.tdictlStop g0 1) { hubS (regs [(1, 0x500000005)]) with vfs := [(5, { st := .run })], tasks := [(0, { task0 with vf := 5 })] }
      (fun t => (t.task 0).any (fun k => k.st == .killing && k.finish == some (5, 0x17)) && (t.ctx h0).stall == .tdiStop 5 && (t.vf 5).stopping) = true := by
  decide +kernel
/-- FIPS 180-4: the digest of the empty message, and of "abc". -/
theorem test_sha256 :
    sha256 [] = bytesOf 32 0x55b852781b9995a44c939b64e441ae2724b96f99c8f4fb9a141cfc9842c4b0e3 ∧
      sha256 [0x61, 0x62, 0x63] = bytesOf 32 0xad1500f261ff10b49c7a1796a36103b02322ae5dde404141eacf018fbf1678ba := by decide +kernel
theorem test_tdi_stop : after (.tdictlStop g0 1) { hubS (regs [(1, 0x500000005)]) with vfs := [(5, { st := .run })] } (fun t => t.doe.res == 0 && (t.vf 5).st == .unlocked) = true := by
  decide +kernel

/-- ControlRegisterReads and StrandRegisterWrites: a region, no region, windows that are and are not canonical, tracker targets, the commands of
TRKSTAT and SCHSTAT. -/
theorem witness_registers :
    let s := strandS { sch := [(2, { st := .run }), (3, { st := .waittok })] }
    ownRegion s u0 = some r0 ∧ s.region r0 = some region0 ∧ ownRegion (hubS {}) h0 = none ∧ u0.isHub = false ∧
      canonical 0x200000 = true ∧ canonical 0x8000000000000000 = false ∧ (0x0F000000 : Nat) / 2 ^ 24 % 16 = 15 ∧ (0x0B000000 : Nat) / 2 ^ 24 % 16 = 11 ∧
      (0x4000000000000000 : Word).getLsbD 62 = true ∧ (0x4000000000000000 : Word).getLsbD 61 = false ∧ (0x2000000000000000 : Word).getLsbD 61 = true ∧
      (0x400000000 : Word).getLsbD 34 = true ∧ ((s.ctx u0).getSch 2).st = .run ∧ ((s.ctx u0).getSch 3).st = .waittok := by decide +kernel
/-- HubRegisterWrites at the last island and port, with a base that is not canonical, and a core that restarts itself. -/
theorem test_kwr_die_base :
    after (.kwr g0 0x012 1) (hubS (regs [(1, 0x8000000000000000)])) (fun t => (t.ctx h0).apDie == 1 && (t.ctx h0).pc == 8) = true ∧
      after (.kwr g0 0x012 1) (hubS (regs [(1, 0x7FFFFFFF)])) (fun t => (t.ctx h0).apDie == 0x60000001) = true := by decide +kernel
theorem test_restart_self :
    after (.kwr g0 0x601 1) (hubS { s := [(1, 4)], htvec := 0x87, hstat := true, pc := 0x40 }) (fun t => (t.ctx h0).pc == 0x80 && !(t.ctx h0).hstat && (t.die 0).busy) = true ∧
      after (.kwr g0 0x601 1) (hubS { s := [(1, 0x100000004)], htvec := 0x87, pc := 0x40 }) (fun t => (t.ctx h0).pc == 0x48 && (t.die 0).busy) = true := by decide +kernel
theorem witness_hub_registers : (35 : BitVec 12).toNat < 36 ∧ (8 : BitVec 4).toNat ≤ 8 ∧ (0x80 : Word).getLsbD 7 = true := by decide +kernel
/-- Shootdowns: each kind, no other in progress; a bad one; the last acknowledgement. -/
theorem witness_shootdown :
    let x : Shoot := ⟨0, 1, 1, 0, 0, [(1, 36)]⟩
    let s : State := { hubS { stall := .xinv } with dies := [(0, { shoot := some x })] }
    ((hubS {}).die 0).shoot = none ∧ (0x100000001 : Nat) % 4 = 1 ∧ (0x100000001 : Nat) / 4 % 4 < 2 ∧ (0x100000001 : Nat) / 16 % 4 ≠ 3 ∧ (3 : Nat) % 4 = 3 ∧
      (s.die 0).shoot = some x ∧ x.left = [(1, 36)] ∧ s.pend = [] ∧ s.migs = [] ∧ (s.die 1).shoot = none ∧ (s.ctx (.hub 0 x.core)).stall = .xinv := by decide +kernel

/-- A migration of the 64 KiB page at 0x50000 to 0x60000, whose leaf lies at 0x2000. -/
def mig0 (st : MigStep) : Migration := ⟨1, 0x50000, 0x2000, 0x5000F, 0, 0x50000, 0x60000, 0, st, 40000, []⟩
/-- PageMigration: the start, the compare and swap, the end and the abort. -/
theorem witness_migration :
    let s (st : MigStep) : State := { hubS {} with migs := [mig0 st], mem := mwrite [] 0x2000 [0x0F, 0, 5], dies := [(0, { halveTicks := 2000000 })] }
    (s .copying).migs[0]? = some (mig0 .copying) ∧ Memory.wf (s .copying).mem = true ∧ (mig0 .copying).leafAt + 8 ≤ (mig0 .copying).new ∧
      (mig0 .copying).old + 2 ^ pageBits 0 ≤ (mig0 .copying).new ∧ mnat (s .copying).mem 0x2000 8 = (mig0 .copying).leaf.toNat ∧
      (s (.shooting true)).migs[0]? = some (mig0 (.shooting true)) ∧ (mig0 (.shooting true)).left = [] ∧ 40000 ≤ (mig0 .copying).ticks ∧ { mig0 .copying with ticks := 39999 }.ticks < 40000 ∧ (s .copying).pend = [] ∧
      2000000 ≤ ((s .copying).die 0).halveTicks := by decide +kernel
def migS : State :=
  { hubS {} with owners := [(1, { v := true, troot := 0x1000 })], pools := [(2, [2 ^ 24 + 6])], access := [(20481, 3)], mem := mwrite (mwrite [] 0x1000 [1, 0x10]) 0x1028 [0x0F, 0, 5] }
theorem table_of_migS : ∀ i ∈ List.range 512,
    ((mnat migS.mem (0x1000 + 8 * i) 8).testBit 0 && !(mnat migS.mem (0x1000 + 8 * i) 8).testBit 1) = false ∨ bitsOf (mnat migS.mem (0x1000 + 8 * i) 8) 52 12 * 4096 = 0x1000 := by
  decide +kernel
theorem tables_of_migS : ∀ k, tableIn migS 0x50000 65536 k 0x1000 = false
  | 0 => by decide +kernel
  | k + 1 => by
    have ih := tables_of_migS k
    simp only [tableIn, Bool.or_eq_false_iff, List.any_eq_false]
    refine ⟨by decide +kernel, fun i hi => ?_⟩
    rcases table_of_migS i hi with h | h
    · simp only [h, Bool.false_and]
      exact Bool.false_ne_true
    · simp [h, ih]
/-- PageMigration: under AUTO a page goes to the die with the most accesses (R45). -/
theorem witness_migration_start :
    walkOwner migS 0 1 0x50000 = .ok ⟨0x5000F, 0, 0x1028⟩ ∧ mayMigrate migS 1 ⟨0x5000F, 0, 0x1028⟩ 0x50000 (2 ^ 40 + 0x60000) (2 ^ 16) = true := by
  have h : holdsTable migS 0x50000 65536 = false := by
    simp only [holdsTable, show migS.owners = [(1, { v := true, troot := 0x1000 })] from rfl, List.any_cons, List.any_nil, Bool.or_false]
    exact (Bool.and_eq_false_iff.2 (Or.inr (tables_of_migS 3)))
  refine ⟨by decide +kernel, ?_⟩
  simp only [mayMigrate]
  decide +kernel
/-- R45: not to a die with fewer accesses. -/
theorem test_policy_third_die : policyAllows migS 0 0x50000 (2 ^ 41 + 0x60000) 65536 = false := by decide +kernel
/-- ManagementCommands: the table entries that they read, a frozen master, a stopped core. -/
theorem witness_management :
    let e : List Byte := leBytes 32 (2 ^ 140 + 2 ^ 144 + 5 * 2 ^ 215)
    let s : State := { hubS {} with mem := mwrite [] 0x10020 e, mgbase := 0x10000, dies := [(0, { stop := 1, frz := [(3, ⟨0, 0, 0, 1, false, u0, none, 0⟩)] })] }
    (s.die 0).busy = false ∧ tableBytes? s (s.mgbase.toNat + 32 * 1) 32 = some e ∧ ownerBad s 1 (leNat e) = false ∧
      tfind (s.die 0).frz 3 = some ⟨0, 0, 0, 1, false, u0, none, 0⟩ ∧ (s.die 0).stop.getLsbD 0 = true ∧ s.power = .ready ∧
      ({ s with dies := [(0, { busy := true })] }.die 0).busy = true ∧ 5 < (6 : BitVec 8).toNat := by decide +kernel
theorem no_entry (n f : Nat) : (List.replicate n 0).filter (fun e : Nat => e.testBit 31 && bitsOf e 17 9 == f) = [] := by
  simp
theorem mread_empty (a n : Nat) : mread [] a n = List.replicate n 0 := by
  induction n generalizing a with
  | zero => rfl
  | succ n ih => simp [mread, mget, tget, tfind, ih, List.replicate_succ]
theorem witness_queue_map :
    tableBytes? (hubS {}) 0x4000 1024 = some (List.replicate 1024 0) ∧ elemsOf 4 (List.replicate 1024 0) = List.replicate 256 0 ∧
      qmapBad (List.replicate 256 0) = false := by
  refine ⟨?_, ?_, ?_⟩
  · rw [tableBytes?, if_pos (by decide +kernel), show (hubS {}).mem = [] from rfl, mread_empty]
  · simp only [elemsOf, List.length_replicate, List.drop_replicate, List.take_replicate]
    decide +kernel
  · simp only [qmapBad, no_entry]
    decide +kernel
theorem witness_unlocked : ∀ f, vfLocked ((hubS {}).vf f) = false := fun _ => rfl
/-- MailboxRequests: a request at the largest length, the next to present, and a response at its bounds. -/
theorem witness_mailbox :
    let s : State := { hubS (regs [(1, 0x8000080000000000)]) with doe := { queue := [[1, 2]], base := 0x1000 } }
    (hubS {}).power ≠ .off ∧ (List.replicate 2048 (0 : Byte)).length ≤ 2048 ∧ 2048 < (List.replicate 2049 (0 : Byte)).length ∧ s.doe.queue = [1, 2] :: [] ∧ s.doe.present = false ∧
      s.doe.base.toNat % 2 ^ 29 + 2 ≤ 0x1DE00000 ∧ Memory.wf s.mem = true ∧ (0x8000080000000000 : Word).getLsbD 63 = true ∧ 16 ≤ (16 : Nat) ∧
      (0x8000080000000000 : Nat) / 2 ^ 32 % 2 ^ 12 = 2048 ∧ (∀ p ∈ s.pend, p.agent ≠ h0) := by decide +kernel
/-- InterfaceCommands: the end of the last task of an interface that stops. -/
theorem witness_stop_ends :
    let y : Task := { task0 with st := .killing, tiles := [], slices := [], vf := 5, finish := some (5, 0x17) }
    let s : State := { hubS { stall := .tdiStop 5 } with vfs := [(5, { st := .run, stopping := true })], tasks := [(0, y)] }
    lrCpl y.lrec = 0 ∧ allStopped s 0 = true ∧ (∀ e ∈ s.ctxs, e.2.task = some 0 → e.1 ≠ agentKey h0) ∧ (s.vf 5).stopping = true ∧ (s.ctx h0).stall = .tdiStop 5 ∧
      y.resuming = false ∧ after (.killComplete 0) s (fun t => (t.vf 5).st == .unlocked && !(t.vf 5).stopping && (t.ctx h0).stall == .none) = true := by decide +kernel
/-- InterfaceCommands: each command on an interface of each state. -/
theorem witness_interfaces :
    let s (x : Vf) : State := { hubS {} with vfs := [(5, x)], ide := [(0, 5)] }
    ((s {}).vf 5).stopping = false ∧ ((s {}).vf 5).st = .unlocked ∧ (leNat (reqBytes (s {}) 18 1), 5) ∈ (s {}).ide ∧ leNat (reqBytes (s {}) 20 16) = 0 ∧
      vfHasWork (s {}) 5 = false ∧ ((s { st := .locked }).vf 5).st = .locked ∧ leNat (reqBytes (s { st := .locked }) 16 32) = ((s { st := .locked }).vf 5).nonce.toNat ∧
      leNat (reqBytes (s { st := .locked, nonce := 1 }) 16 32) ≠ ((s { st := .locked, nonce := 1 }).vf 5).nonce.toNat ∧ (s {}).tasks = [] ∧ (0x500000007 : Nat) % 8 = 7 := by decide +kernel

/-! ## The index generator -/

/-- Context 0 of the tile in a run of strand 0 that pushes to f2 on token t5, NR = NC = 16. -/
def runG (x : Gen) : Gen := { x with st := .run, nr := 16, nc := 16, mode := .push u0 2 5 }
/-- The operation of a run. -/
def gop (k : OpKind) : EngOp :=
  { kind := k, st := .started, agent := u0, tok := 5, scope := 1, desc := 0, apTile := 0x100001, apClus := 0, apDie := 0x20000001 }
/-- A part in which that context has its turn, with a region over f. -/
def genS (x : Gen) (r : Region) : State :=
  { strandS { tok := [(5, ⟨.busy, 0⟩)] } with gens := [(0, x)], cur := .gen 0 0 0, ops := [(5, gop (.grun 0))], regions := [(0, r)] }
/-- The part in which context 0 runs with some registers at word 1 of nine. -/
def patS (l : List (Nat × Half)) : State := genS (runG { x := l, prog := List.replicate 9 0, pc := 1, kt0 := 0x8000000000000001, kt1 := 0x0102030405060708 }) region0
/-- The entries of f2 after an instruction. -/
def fifo2 (i : Instr) (s : State) (l : List (Nat × Nat)) : Bool :=
  after i s (fun t => (agentFifo t u0 2).entries.map (fun v => (v.w.toNat % 2 ^ 32, v.w.toNat / 2 ^ 32)) == l)

theorem test_pdivi_floor : after (.pdivi 3 1 4) (patS [(1, 0xFFFFFFF7)]) (fun t => (t.gen 0 0 0).getX 3 == 0xFFFFFFFD) = true := by decide +kernel
theorem test_pmodi_floor : after (.pmodi 3 1 4) (patS [(1, 0xFFFFFFF7)]) (fun t => (t.gen 0 0 0).getX 3 == 3 && (t.gen 0 0 0).steps == 1) = true := by decide +kernel
theorem test_phash_top : after (.phash 3 1 2 8) (patS [(1, 3), (2, 2)]) (fun t => (t.gen 0 0 0).getX 3 == 0x25) = true := by decide +kernel
theorem test_ptab_bit : after (.ptab 3 1 0) (patS [(1, 127)]) (fun t => (t.gen 0 0 0).getX 3 == 1) = true := by decide +kernel
theorem test_ptab_byte : after (.ptab 3 1 3) (patS [(1, 9)]) (fun t => (t.gen 0 0 0).getX 3 == 7) = true := by decide +kernel
theorem test_pmin_signed : after (.pmin 3 1 2) (patS [(1, 0xFFFFFFFF), (2, 1)]) (fun t => (t.gen 0 0 0).getX 3 == 0xFFFFFFFF) = true := by decide +kernel
theorem test_pswap : after (.pswap 3 1) (patS [(1, 5), (3, 6)]) (fun t => (t.gen 0 0 0).getX 3 == 5 && (t.gen 0 0 0).getX 1 == 6) = true := by decide +kernel
theorem test_ploop_none : after (.ploop 6 0 3) (patS [(0, 0), (6, 9)]) (fun t => (t.gen 0 0 0).pc == 5 && (t.gen 0 0 0).getX 6 == 0) = true := by decide +kernel
theorem test_ploop_iterates :
    after (.pset 3 7) (genS (runG { prog := List.replicate 9 0, pc := 4, loops := [⟨0, 2, 2, 4, 6⟩] }) region0)
      (fun t => (t.gen 0 0 0).pc == 2 && (t.gen 0 0 0).getX 6 == 1 && (t.gen 0 0 0).getX 3 == 7) = true := by decide +kernel
theorem test_pskip_last : after (.pskip 0 0 0) (genS (runG { prog := [0, 0] }) region0) (fun t => (t.gen 0 0 0).ended) = true := by decide +kernel
/-- Row 9 of the banded mask: (9, 1) and (9, 5), the tap at column −3 clipped; then (9, 7), (9, 8) and (9, 9). -/
theorem test_pdil_row9 : fifo2 (.pdil 7 4 5 4) (patS [(4, 3), (5, 0xFFFFFFFF), (7, 9)]) [(9, 1), (9, 5)] = true := by decide +kernel
theorem test_pdil_clips : after (.pdil 7 4 5 4) (patS [(4, 3), (5, 0xFFFFFFFF), (7, 9)]) (fun t => (t.gen 0 0 0).clip == 1 && (t.gen 0 0 0).emit == 2) = true := by decide +kernel
theorem test_pband_row9 : fifo2 (.pband 7 2 3) (patS [(2, 2), (3, 0), (7, 9)]) [(9, 7), (9, 8), (9, 9)] = true := by decide +kernel
theorem test_pbdiag : fifo2 (.pbdiag 7 1 4) (patS [(1, 1), (7, 5)]) [(5, 8), (5, 9), (5, 10), (5, 11)] = true := by decide +kernel
theorem test_pemit_full :
    after (.pemit 1 2) (genS (runG { prog := [0], x := [(1, 3)] }) { region0 with fifos := [(2, { entries := List.replicate 64 {} })] })
      (fun t => (t.gen 0 0 0).todo == [(3, 0)] && (t.gen 0 0 0).emit == 0) = true := by decide +kernel
/-- The widened band: (4, 0) again raises GEN detail 0x02 with GBAD = (4, 0), and the table keeps what was collected. -/
theorem test_ginv_twice :
    after (.pband 7 2 3) (genS { runG { x := [(2, 4), (7, 4)], prog := [0, 0], got := [(3, 3), (4, 0)] } with mode := .collect u0 5 128, walkAt := 0x104000 } region0)
      (fun t => (t.gen 0 0 0).bad == 4 && (t.gen 0 0 0).emit == 2 && (t.gen 0 0 0).st == .ready && t.getTok u0 5 == ⟨.error, 1⟩ &&
        mread t.mem (2 ^ 56 + 0x4000) 24 == [3, 0, 0, 0, 3, 0, 0, 0, 4, 0, 0, 0, 0, 0, 0, 0, 0, 0, 0, 0, 0, 0, 0, 0]) = true := by decide +kernel
/-- A coordinate that is new is collected; one beyond the table's length is GEN detail 0x03. -/
theorem test_ginv_collects :
    after (.pemit 2 7) (genS { runG { x := [(2, 4), (7, 3)], prog := [0, 0], got := [(3, 3)] } with mode := .collect u0 5 2, walkAt := 0x104000 } region0)
      (fun t => (t.gen 0 0 0).got == [(3, 3), (4, 3)] && (t.gen 0 0 0).emit == 1) = true ∧
    after (.pemit 2 7) (genS { runG { x := [(2, 4), (7, 3)], prog := [0, 0], got := [(3, 3), (1, 1)] } with mode := .collect u0 5 2, walkAt := 0x104000 } region0)
      (fun t => t.getTok u0 5 == ⟨.error, 1⟩ && (t.op u0 5).any (fun o => o.fault.any (fun f => f.cls == 0x0C && f.detail == 3)) && (t.gen 0 0 0).emit == 2) = true := by
  decide +kernel
/-- R137: GRUN begins with x2 to x15 zero. -/
theorem test_grun_registers : after (.grun g0 1 0 1 2 5) { strandS (regs [(1, 0x0000000500000010)]) with gens := [(0, { st := .ready, prog := [0], x := [(2, 9), (15, 9)] })] }
    (fun t => (t.gen 0 0 0).getX 2 == 0 && (t.gen 0 0 0).getX 15 == 0 && (t.gen 0 0 0).getX 0 == 16) = true := by decide +kernel
/-- The sorted walk: (0, 0) before (12, 0) before (1, 1). -/
theorem test_ginv_sorts :
    after (.ginvComplete 0 0 0) (genS { runG { prog := [0], pc := 1, ended := true, got := [(1, 1), (12, 0), (0, 0)] } with mode := .collect u0 5 128, walkAt := 0x104000 } region0)
      (fun t => (t.gen 0 0 0).wcnt == 3 && (t.gen 0 0 0).walk && t.getTok u0 5 == ⟨.done, 0⟩ && mread t.mem (2 ^ 56 + 0x4008) 9 == [12, 0, 0, 0, 0, 0, 0, 0, 1]) = true := by
  decide +kernel
/-- A transposed run pushes the pair with its fields exchanged. -/
theorem test_transposed :
    fifo2 (.coordinatePush 0 0 0) { genS { runG { walkAt := 0x104000, wcnt := 1 } with mode := .transposed u0 2 5 0 } region0 with mem := mwrite [] (2 ^ 56 + 0x4000) [12, 0, 0, 0, 1] }
      [(1, 12)] = true := by decide +kernel
theorem test_gsave_fields :
    after (.gsave g0 0 1 0) { strandS (regs [(1, 0x100000)]) with gens := [(0, { st := .ready, prog := [0x05403FFF], walk := true, nr := 16, nc := 3, emit := 69 })] }
      (fun t => mread t.mem (2 ^ 56 + 64) 4 == [0xFF, 0x3F, 0x40, 0x05] && mread t.mem (2 ^ 56 + 336) 11 == [16, 0, 0, 0, 3, 0, 0, 0, 1, 0, 10] && mget t.mem (2 ^ 56 + 416) == 69) = true := by
  decide +kernel

/-- PatternArithmetic and PatternEmitters: a context that has its turn; PatternControl: each condition, and both signs of a count. -/
theorem witness_pattern :
    (patS []).generator = some (0, 0, 0) ∧ (4 : XReg).toNat ≤ 4 ∧ ((runG { x := [(1, 0xFFFFFFFF)] }).getX 1).toInt ≤ 0 ∧ 0 < ((runG { x := [(1, 1)] }).getX 1).toInt ∧
      1 < (runG { prog := [0, 0] }).prog.length ∧ (∀ l ∈ ([⟨1, 2, 1, 3, 6⟩] : List GenLoop), l.last = 3 ∧ l.n ≤ l.i + 1) := by decide +kernel
theorem witness_emitters :
    let s := patS []
    let x := s.gen 0 0 0
    ¬ (15 : Half).toInt < 0 ∧ (15 : Half).toInt < x.nr.toInt ∧ ¬ (16 : Half).toInt < x.nc.toInt ∧ x.mode = .push u0 2 5 ∧ 0 < (agentFifo s u0 2).room ∧
      (agentFifo (genS x { region0 with fifos := [(2, { entries := List.replicate 64 {} })] }) u0 2).room = 0 := by decide +kernel
/-- The image of a program of one word at TILE offset 0. -/
def gimg (count : Nat) (w : Half) : List Byte := leBytes 8 count ++ leBytes 8 (16 + 2 ^ 32) ++ leBytes 16 0 ++ leBytes 4 w.toNat ++ leBytes 4 0
/-- A strand with that image. -/
def imgS (count : Nat) (w : Half) : State := { strandS (regs [(1, 0x100000), (2, 0x100001)]) with mem := mwrite [] (2 ^ 56) (gimg count w) }
/-- GeneratorLoad: a misaligned image, an empty program, a word that is rejected, and a program that loads. -/
theorem witness_generator_load :
    let s := imgS 1 0x05403FFF
    let n := noteIssue s u0
    Issues s u0 g0 ∧ (s.gen 0 0 0).st ≠ .run ∧ (0x100001 : Word).toNat % 16 ≠ 0 ∧ (0x100000 : Word).toNat % 16 = 0 ∧
      readLoads n (n.req u0) 0x100000 4 = (n, .ok ((gimg 1 0x05403FFF).take 32)) ∧ readLoads n (n.req u0) 0x100020 1 = (n, .ok ((gimg 1 0x05403FFF).drop 32)) ∧
      InTile s u0 0x100000 40 ∧ Sound s u0 0x100000 40 ∧ tileBytes s u0 0x100000 32 = (gimg 1 0x05403FFF).take 32 ∧ halves [0xFF, 0x3F, 0x40, 0x05] = [0x05403FFF] ∧
      badWord [0x05403FFF] = none ∧ badWord [0xFF000000] = some 0 ∧ ((gimg 0 0).take 1).map (·.toNat) = [0] := by
  unfold InTile Sound; refine ⟨⟨?_, ?_⟩, ?_⟩ <;> decide +kernel
theorem test_gload : after (.gload g0 1 1 0) (imgS 1 0x05403FFF) (fun t => (t.gen 0 0 1).st == .ready && (t.gen 0 0 1).prog == [0x05403FFF] && (t.gen 0 0 1).nc == 1) = true := by
  decide +kernel
theorem test_gload_bad_word : after (.gload g0 1 1 0) (imgS 1 0xFF000000) (fun t => faultOf t u0 == some (0x0C, 1) && (t.gen 0 0 1).st == .empty) = true := by decide +kernel
theorem test_grun : after (.grun g0 1 0 1 2 5) { strandS (regs [(1, 0x0000000500000010)]) with gens := [(0, { st := .ready, prog := [0] })] }
    (fun t => (t.gen 0 0 0).getX 0 == 16 && (t.gen 0 0 0).getX 1 == 5 && (t.getTok u0 5).st == .busy) = true := by decide +kernel
/-- GeneratorRuns: contexts and tokens in each state, a FIFO that has a producer and one that has none, and the last table that fits. -/
theorem witness_generator_runs :
    let s : State := { strandS (regs [(1, 0x1FFFF8), (2, 0x1FFFFC)]) with
      gens := [(0, { st := .ready, walk := true }), (1, runG {}), (2, { st := .ready })]
      ctxs := [(0, { (strandS {}).ctx u0 with s := [(1, 0x1FFFF8), (2, 0x1FFFFC)], tok := [(1, ⟨.done, 0⟩), (2, ⟨.busy, 0⟩), (3, ⟨.error, 1⟩)] })]
      regions := [(0, { region0 with fifos := [(3, { producer := some (.gen 1) })] })] }
    Issues s u0 g0 ∧ (s.gen 0 0 0).st = .ready ∧ (s.gen 0 0 1).st = .run ∧ (s.gen 0 0 2).walk = false ∧ (s.gen 0 0 3).st = .empty ∧ ownRegion s u0 ≠ none ∧
      (s.getTok u0 0).st = .idle ∧ (s.getTok u0 1).st = .done ∧ (s.getTok u0 2).st = .busy ∧ (s.getTok u0 3).st = .error ∧ reportPending s u0 0 = false ∧
      (agentFifo s u0 2).producer = none ∧ (agentFifo s u0 3).producer ≠ none ∧ (s.ctx u0).apTile.toNat % 2 = 1 ∧
      (s.ctx u0).apTile.toNat / 2 ^ 20 = (s.getS u0 1).toNat / 2 ^ 20 ∧ (s.getS u0 1).toNat % 8 = 0 ∧ (s.getS u0 1).toNat % 2 ^ 20 + 8 * (1 : BitVec 18).toNat ≤ 2 ^ 20 ∧
      (s.getS u0 2).toNat % 8 ≠ 0 := by
  refine ⟨⟨?_, ?_⟩, ?_⟩ <;> decide +kernel
/-- GeneratorRunEnds: a stalled emitter, a walk at its last entry and past it, an ended push and collection, and a run without an end. -/
theorem witness_generator_ends :
    let s := { genS { runG { walkAt := 0x104000, wcnt := 1, steps := 2 ^ 32 } with todo := [(3, 0)] } region0 with mem := mwrite [] (2 ^ 56 + 0x4000) [12, 0, 0, 0, 1, 0, 0, 0] }
    (s.gen 0 0 0).st = .run ∧ (s.tile 0 0).st = .run ∧ s.shake = false ∧ u0.isHub = false ∧ s.op u0 5 = some (gop (.grun 0)) ∧ opRuns s (gop (.grun 0)) = true ∧ (s.gen 0 0 0).todo = [(3, 0)] ∧
      0 < (agentFifo s u0 2).room ∧ readGen s (s.opReq (gop (.grun 0))) (0x104000 + nat64 0) 8 = (s, .ok [12, 0, 0, 0, 1, 0, 0, 0]) ∧ ownRegion s u0 ≠ none ∧ 2 ^ 32 ≤ (s.gen 0 0 0).steps ∧
      after (.grunComplete 0 0 0) (genS (runG { prog := [0], pc := 1, ended := true }) region0) (fun t => t.getTok u0 5 == ⟨.done, 0⟩) = true ∧
      after (.genRunaway 0 0 0) (genS (runG { prog := [0], steps := 2 ^ 32 }) region0) (fun t => t.getTok u0 5 == ⟨.error, 1⟩) = true ∧
      after (.grunComplete 0 0 0) (genS { runG { wcnt := 1 } with mode := .transposed u0 2 5 1 } region0) (fun t => (t.gen 0 0 0).st == .ready) = true := by decide +kernel
/-- GeneratorImages: an image is written and read back. -/
theorem witness_generator_images :
    let c : Gen := { st := .ready, prog := [0x05403FFF], walk := true, nr := 16, nc := 3, emit := 69, pc := 1 }
    let s : State := { strandS (regs [(1, 0x100000), (2, 0x100001)]) with gens := [(0, c)] }
    Issues s u0 g0 ∧ (s.gen 0 0 0).st ≠ .run ∧ (s.getS u0 2).toNat % 64 ≠ 0 ∧ (s.getS u0 1).toNat % 64 = 0 ∧ (genImage c).length = 512 ∧
      InTile s u0 0x100000 512 ∧ Sound s u0 0x100000 512 ∧ Memory.wf s.mem = true ∧ (genOfImage (genImage c) {}).toOption.map (fun y => (y.prog, y.pc, y.emit, y.walk, y.nc)) = some ([0x05403FFF], 1, 69, true, 3) := by
  unfold InTile Sound; refine ⟨⟨?_, ?_⟩, ?_⟩ <;> decide +kernel

/-! ## Copy engines, configuration ports, the host -/

/-- A descriptor: one row of `len` bytes from `src` to `dst`, SCOPE tile. -/
def cdesc (kind src dst len : Nat) : BitVec 512 :=
  BitVec.ofNat 512 (src + dst * 2 ^ 64 + len * 2 ^ 128 + 2 ^ 160 + 2 ^ 176 + kind * 2 ^ 320 + 2 ^ 324)
/-- A strand with a descriptor at TILE offset 0 and eight bytes at offset 0x40. -/
def copyS (d : BitVec 512) (l : Tab EngOp) (c : Ctx) : State :=
  { strandS { c with s := [(1, 0x100000), (2, 0x100008)] } with
    mem := mwrite (mwrite [] (2 ^ 56) (leBytes 64 d.toNat)) (2 ^ 56 + 0x40) [1, 2, 3, 4, 5, 6, 7, 8], ops := l }
/-- A started operation with a descriptor. -/
def cop (k : OpKind) (d : BitVec 512) (st : OpSt) : EngOp := { gop k with st := st, desc := d }
/-- A copy from offset 0x40 to 0x80. -/
def cd0 : BitVec 512 := cdesc 0 0x100040 0x100080 8

theorem test_cpy : after (.cpy g0 5 1 0) (copyS cd0 [] {}) (fun t => (t.getTok u0 5).st == .busy && (t.op u0 5).map (·.kind) == some .copy) = true := by decide +kernel
theorem test_cpy_overlap : after (.cpy g0 5 1 0) (copyS (cdesc 0 0x100040 0x100047 8) [] {}) (fun t => faultOf t u0 == some (1, 0x24)) = true := by decide +kernel
theorem test_cpyx_kind : after (.cpyx g0 5 1 0) (copyS cd0 [] {}) (fun t => faultOf t u0 == some (1, 0x20)) = true := by decide +kernel
theorem test_cpyx_shape :
    after (.cpyx g0 5 1 0) (copyS (cdesc 2 0x100040 0x100080 8 + BitVec.ofNat 512 (3 * 2 ^ 400 + 2 ^ 416)) [] {}) (fun t => faultOf t u0 == some (1, 0x22)) = true := by
  decide +kernel
theorem test_copy_moves :
    after (.copyComplete u0 5) (copyS cd0 [(5, cop .copy cd0 .started)] { tok := [(5, ⟨.busy, 0⟩)] })
      (fun t => mread t.mem (2 ^ 56 + 0x80) 9 == [1, 2, 3, 4, 5, 6, 7, 8, 0] && t.getTok u0 5 == ⟨.done, 0⟩) = true := by decide +kernel
/-- R92: a FILL repeats the eight bytes of its pattern. -/
theorem test_fill :
    let d := cdesc 1 0x0807060504030201 0x100080 11
    after (.copyComplete u0 5) (copyS d [(5, cop .fill d .started)] { tok := [(5, ⟨.busy, 0⟩)] })
      (fun t => mread t.mem (2 ^ 56 + 0x80) 12 == [1, 2, 3, 4, 5, 6, 7, 8, 1, 2, 3, 0]) = true := by decide +kernel
/-- R92: two rows of two planes, with row strides 0x10 and 0x20, and plane strides 0x100 and 0x200. -/
def cdGrid (kind src : Nat) : BitVec 512 :=
  BitVec.ofNat 512 (src + 0x100800 * 2 ^ 64 + 2 * 2 ^ 128 + 2 * 2 ^ 160 + 2 * 2 ^ 176 + 0x10 * 2 ^ 192 + 0x20 * 2 ^ 224 + 0x100 * 2 ^ 256 + 0x200 * 2 ^ 288 + kind * 2 ^ 320 + 2 ^ 324)
def gridS (k : OpKind) (d : BitVec 512) : State :=
  let s := copyS d [(5, cop k d .started)] { tok := [(5, ⟨.busy, 0⟩)] }
  { s with mem := mwrite (mwrite (mwrite (mwrite s.mem (2 ^ 56 + 0x400) [1, 2]) (2 ^ 56 + 0x410) [3, 4]) (2 ^ 56 + 0x500) [5, 6]) (2 ^ 56 + 0x510) [7, 8] }
theorem test_copy_rows :
    after (.copyComplete u0 5) (gridS .copy (cdGrid 0 0x100400)) (fun t => [0x800, 0x820, 0xA00, 0xA20].map (fun a => mread t.mem (2 ^ 56 + a) 3) ==
      [[1, 2, 0], [3, 4, 0], [5, 6, 0], [7, 8, 0]] && t.getTok u0 5 == ⟨.done, 0⟩) = true := by decide +kernel
theorem test_fill_rows :
    after (.copyComplete u0 5) (gridS .fill (cdGrid 1 0x0B0A)) (fun t => [0x800, 0x820, 0xA00, 0xA20].all (fun a => mread t.mem (2 ^ 56 + a) 3 == [0xA, 0xB, 0])) = true := by
  decide +kernel
/-- CopyPerforms: every row of both planes lies in the TILE window, and no two of the rows written meet. -/
theorem witness_copy_rows :
    let d := cdGrid 0 0x100400
    let s := gridS .copy d
    dPlanes d = 2 ∧ dRows d = 2 ∧ dLen d = 2 ∧ dNtf d = false ∧ dKind d = 0 ∧ opRuns s (cop .copy d .started) = true ∧ s.pend = [] ∧ (cop .copy d .started).apTile = (s.ctx u0).apTile ∧
      InTile s u0 0x100400 2 ∧ Sound s u0 0x100510 2 ∧ InTile s u0 0x100A20 2 ∧ tileLoc u0 0x100800 + 2 ≤ tileLoc u0 0x100820 ∧ tileLoc u0 0x100510 + 2 ≤ tileLoc u0 0x100800 := by
  unfold InTile Sound; decide +kernel
theorem test_stage_saturates : after (.stage g0 2 200) (strandS { sch := [(2, { st := .run, ctr := 100, count := 1 })] }) (fun t => ((t.ctx u0).getSch 2).ctr == 255) = true := by decide +kernel
theorem test_cpys_header : after (.cpys g0 2 1 0) (copyS 257 [] {}) (fun t => faultOf t u0 == some (1, 0x25)) = true := by decide +kernel

/-- The descriptor of a rank of an all-gather of four bytes: SRC at 0x40 + 4·rank, DST at 0x80 + 16·rank. -/
def gather (rank : Nat) : BitVec 512 := cdesc 3 (0x100040 + 4 * rank) (0x100080 + 16 * rank) 4 + BitVec.ofNat 512 (2 * 2 ^ 384 + 3 * 2 ^ 387 + rank * 2 ^ 410)
/-- Two ranks of it, in strands 0 and 1. -/
def rank (j : Nat) : EngOp := { cop .coll (gather j) .started with agent := .strand 0 0 j, num := 2 }
/-- The state with both ranks issued. -/
def collS (y : EngOp) : State :=
  let s := copyS 0 [(5, rank 0), (13, y)] { tok := [(5, ⟨.busy, 0⟩)] }
  { s with ctxs := s.ctxs ++ [(1, { s.ctx u0 with tok := [(5, ⟨.busy, 0⟩)] })] }
theorem test_all_gather :
    after (.collectiveComplete u0 5) (collS (rank 1)) (fun t => mread t.mem (2 ^ 56 + 0x80) 8 == [1, 2, 3, 4, 5, 6, 7, 8] && mread t.mem (2 ^ 56 + 0x90) 8 == [1, 2, 3, 4, 5, 6, 7, 8] &&
      t.getTok u0 5 == ⟨.done, 0⟩ && (t.getTok (.strand 0 0 1) 5).st == .busy) = true := by decide +kernel
theorem test_collective_mismatch :
    after (.collectiveComplete u0 5) (collS { rank 1 with desc := gather 1 + BitVec.ofNat 512 (4 * 2 ^ 128) }) (fun t => t.getTok u0 5 == ⟨.error, 3⟩ && t.getTok (.strand 0 0 1) 5 == ⟨.error, 3⟩) = true := by
  decide +kernel

/-- CopyIssue: each kind, a misaligned address, tokens in each state, and the extents. -/
theorem witness_copy_issue :
    let s := copyS cd0 [] {}
    let n := noteIssue s u0
    let x := cdesc 2 0x100040 0x100080 8 + BitVec.ofNat 512 (2 ^ 400 + 2 ^ 416)
    Issues s u0 g0 ∧ (s.getS u0 2).toNat % 64 ≠ 0 ∧ (s.getS u0 1).toNat % 64 = 0 ∧ readLoads n (n.req u0) 0x100000 8 = (n, .ok (leBytes 64 cd0.toNat)) ∧
      (n.getTok u0 5).st = .idle ∧ reportPending n u0 5 = false ∧ descBits cd0 383 333 = 0 ∧ descBits cd0 326 324 = 1 ∧ descBits cd0 447 384 = 0 ∧
      copyExtentFault n (n.req u0) cd0 = none ∧ dEmpty cd0 = false ∧ copyExtentFault n (n.req u0) (cdesc 0 0x100040 0x100047 8) = some (flt clsIllegal 0x24) ∧
      dEmpty (cdesc 0 0 0 0) = true ∧ dNtf cd0 = false ∧ descBits x 323 320 = 2 ∧ ownRegion n u0 ≠ none ∧ copyExtentFault n (n.req u0) x = none ∧
      descBits x 431 416 = 1 ∧ descBits x 415 400 = 1 := by
  refine ⟨⟨?_, ?_⟩, ?_⟩ <;> decide +kernel
theorem witness_coll_issue :
    let s := { copyS (gather 0) [] {} with mem := mwrite [] (2 ^ 56) (leBytes 16 (2 + 0x100040 * 2 ^ 64) ++ List.replicate 48 0 ++ leBytes 16 0), tasks := [(0, { task0 with lrec := BitVec.ofNat 2048 (0x100000 * 2 ^ 256) })] }
    collOwnFault (gather 0) = none ∧ (groupEntry s (s.req u0) (gather 0)).2 = .ok (2, 0x100040) ∧ (groupMembers s (s.req u0) 0x100040 2).2 = .ok (List.replicate 16 0) ∧ collFieldFault (gather 0) 2 = none ∧ collExtentFault s (s.req u0) (gather 0) 2 = none := by decide +kernel
/-- CopyPerforms: an engine that is free, a copy and a fill that have started. -/
theorem witness_copy_performs :
    let s := copyS cd0 [(5, cop .copy cd0 .started)] { tok := [(5, ⟨.busy, 0⟩)] }
    let q := s.opReq (cop .copy cd0 .started)
    let w := copyS cd0 [(5, cop .copy cd0 (.queued 3)), (6, { cop .copy cd0 (.queued 2) with tok := 6 })] {}
    enginesBusy w 0 + (w.die 0).lost < 32 ∧ oldestQueued w (fun x => opFreezeKind x.kind == 1 && x.agent.die == 0 && opRuns w x) = some { cop .copy cd0 (.queued 2) with tok := 6 } ∧
      s.op u0 5 = some (cop .copy cd0 .started) ∧ opRuns s (cop .copy cd0 .started) = true ∧ dRows cd0 = 1 ∧ dPlanes cd0 = 1 ∧ dLen cd0 ≠ 0 ∧
      route s q .load (dSrc cd0) (dLen cd0) = (s, .ok [⟨2 ^ 56 + 0x40, false, false, 8⟩]) ∧ route s q .store (dDst cd0) (dLen cd0) = (s, .ok [⟨2 ^ 56 + 0x80, false, false, 8⟩]) ∧
      waitsNow s q [⟨2 ^ 56 + 0x40, false, false, 8⟩] = false ∧ waitsNow s q [⟨2 ^ 56 + 0x80, false, false, 8⟩] = false ∧
      partFault s true (dSrc cd0) [⟨2 ^ 56 + 0x40, false, false, 8⟩] = none ∧ partFault s false (dDst cd0) [⟨2 ^ 56 + 0x80, false, false, 8⟩] = none ∧
      (cop .copy cd0 .started).apTile = (s.ctx u0).apTile ∧ (∀ p ∈ s.pend, p.agent ≠ u0) ∧ InTile s u0 (dSrc cd0) 8 ∧ Sound s u0 (dSrc cd0) 8 ∧ InTile s u0 (dDst cd0) 8 ∧ (∀ x ∈ locsOf [⟨2 ^ 56 + 0x40, false, false, 8⟩], x ∉ locsOf [⟨2 ^ 56 + 0x80, false, false, 8⟩]) ∧
      (locsOf [⟨2 ^ 56 + 0x80, false, false, 8⟩]).Nodup := by unfold InTile Sound; decide +kernel
/-- A table of one entry at TILE offset 0, with its descriptor at 0x40. -/
def schS (stage : Nat) (t : TokSt) (ctr : Nat) : State :=
  { strandS { sch := [(2, { st := .run, ctr := ctr, count := 1, table := 0x100000 })], tok := [(0, ⟨t, 0⟩)] } with
    mem := mwrite (mwrite [] (2 ^ 56) (leBytes 8 1 ++ leBytes 8 0 ++ leBytes 16 (0x100040 + stage * 2 ^ 64))) (2 ^ 56 + 0x40) (leBytes 64 cd0.toNat) }
theorem test_schedule_release : after (.scheduleRelease u0 2) (schS 1 .idle 1) (fun t => (t.getTok u0 0).st == .busy && ((t.ctx u0).getSch 2).st == .done) = true := by decide +kernel
theorem test_schedule_waits : after (.scheduleRelease u0 2) (schS 0 .busy 0) (fun t => ((t.ctx u0).getSch 2).st == .waittok) = true := by decide +kernel
theorem test_schedule_stage : after (.scheduleRelease u0 2) (schS 1 .idle 0) (fun t => ((t.ctx u0).getSch 2).st == .run && (t.getTok u0 0).st == .idle) = true := by decide +kernel
theorem witness_schedules :
    let s := schS 0 .idle 0
    let e := leBytes 16 (0x100040)
    Issues (copyS 1 [] {}) u0 g0 ∧ ((copyS 1 [] {}).getS u0 2).toNat % 16 ≠ 0 ∧ ((s.ctx u0).getSch 2).st = .run ∧ ((s.ctx u0).getSch 2).cursor < ((s.ctx u0).getSch 2).count ∧ mayProceed s u0 = true ∧
      readLoads s (schReq s u0 2) (0x100000 + 16 + nat64 (16 * 0)) 2 = (s, .ok e) ∧ numOf e / 2 ^ 64 ≤ ((s.ctx u0).getSch 2).ctr ∧ e.length = 16 ∧
      readLoads s (schReq s u0 2) 0x100040 8 = (s, .ok (leBytes 64 cd0.toNat)) ∧ reportPending s u0 0 = false ∧ dEmpty cd0 = false ∧
      (match (admitDesc s (schReq s u0 2) 0 cd0 (fun _ => true)).2 with
      | .ok _ => true
      | _ => false) = true := by
  refine ⟨⟨?_, ?_⟩, ?_⟩ <;> decide +kernel
/-- Collectives: ranks that agree and ranks that do not; and sources of the results' laws, for two ranks of eight bytes. -/
theorem witness_collectives :
    let s := collS (rank 1)
    s.op u0 5 = some (rank 0) ∧ opRuns s (rank 0) = true ∧ (collSet s (rank 0)).any (collDiffer (rank 0)) = false ∧ collRanks s (collSet s (rank 0)) (rank 0) = some [some (rank 0), some (rank 1)] ∧
      farDiffers s [some (rank 0), some (rank 1)] = (false, s) ∧ collRead (rank 0).desc s 0 [some (rank 0), some (rank 1)] = (s, .ok [[1, 2, 3, 4], [5, 6, 7, 8]], none) ∧ (rank 0).st ≠ .written ∧
      (collSet (collS { rank 1 with num := 3 }) (rank 0)).any (collDiffer (rank 0)) = true ∧
      (∀ b ∈ [List.replicate 8 (1 : Byte), List.replicate 8 2], b.length = dLen (cdesc 3 0 0 8)) ∧ dCop (cdesc 3 0 0 8) = 0 ∧ dLen (cdesc 3 0 0 8) % (2 * elemBytes (dEfmt (cdesc 3 0 0 8))) = 0 := by
  decide +kernel

/-- R108, R109: the INT32 sums of two ranks, cut in segments, and an all-to-all; p = 2, LEN = 8. -/
theorem test_collective_values :
    let srcs : List (List Byte) := [leBytes 4 0xFFFFFFFF ++ leBytes 4 5, leBytes 4 2 ++ leBytes 4 6]
    let d (c : Nat) : BitVec 512 := cdesc 3 0 0 8 + BitVec.ofNat 512 (c * 2 ^ 384)
    (List.range 5).map (fun c => dCop (d c)) = [0, 1, 2, 3, 4] ∧ collResult (d 0) 2 0 srcs = leBytes 4 1 ++ leBytes 4 11 ∧ collResult (d 1) 2 1 srcs = leBytes 4 11 ∧
      collResult (d 4) 2 1 srcs = leBytes 4 5 ++ leBytes 4 6 ∧ (∀ b ∈ srcs, b.length = dLen (d 1)) ∧ dLen (d 1) % (2 * elemBytes (dEfmt (d 1))) = 0 := by decide +kernel

/-- A tile with a command in its configuration port, whose mailbox holds a count and a checksum. -/
def portS (w : Word) (n crc : Nat) (g : Option Staging) (r : Option (Nat × Nat × Nat)) : State :=
  { strandS {} with tiles := [(0, { holder := some 0, cfg := { cmd := some w, result := r, staging := g } })]
                    mem := mwrite [] (boxLoc 0 0 16) (leBytes 4 n ++ leBytes 4 crc) }
theorem test_port_seq : after (.configPortCommandDone 0 0) (portS 0x0000002A00000003 0 0 none (some (4, 0, 0))) (fun t => mnat t.mem (boxLoc 0 0 32) 8 == 0x2A00000004 && (t.tile 0 0).cfg.cmd == none) = true := by
  decide +kernel
theorem test_port_count : after (.cfgStage 0 0) (portS 0xF001 255 0 none none) (fun t => (t.tile 0 0).cfg.result == some (0x80, 1, 0x17)) = true := by decide +kernel
/-- A stage of the block in slot 0. -/
def stage0 : Stage := { slot := 0, inst := ⟨{}, ⟨1, false, 0, []⟩, 0⟩, ii := 1, stg := 1 }
/-- A run of the block in slot 0. -/
def run0 : Run := { tok := 5, scope := 1, shared := false, stages := [stage0], apTile := 0x100001, apClus := 0, apDie := 0x20000001 }
/-- ConfigurationPorts: each command, in and out of order. -/
theorem witness_ports :
    let g : Staging := ⟨0, 15, 1, []⟩
    boxBad (portS 0xF004 0 0 none none) 0 0 0xF004 = true ∧ boxBad (portS 0xF003 0 0 none none) 0 0 0xF003 = false ∧ portTarget (portS 0xF001 256 0 none none) 0 0 15 = some r0 ∧
      tileFailed (portS 0xF001 256 0 none none) 0 0 = false ∧ boxField (portS 0xF001 256 7 none none) 0 0 16 4 = (maskQuads 15).length * 64 * 1 ∧
      boxField (portS 0xF001 256 7 none none) 0 0 20 4 = 7 ∧ portTarget (portS 0x1001 0 0 none none) 0 0 1 = none ∧
      (portS 0xF002 0 0 (some g) none).region r0 = some region0 ∧ slotHeld region0 0 = false ∧
      slotHeld { region0 with run := some run0 } 0 = true := by decide +kernel
/-- R379: COMMIT installs the staged words: word 65 of a two-context image is element 0 of context 1 of the first quad, element 32 of context 1. -/
theorem test_port_commit :
    let g : Staging := ⟨1, 15, 2, [0, 7] ++ List.replicate 63 0 ++ [9]⟩
    after (.cfgCommit 0 0) (portS 0xF002 0 0 (some g) none) (fun t => (t.tile 0 0).cfg.result == some (3, 0, 0) && (t.tile 0 0).cfg.staging.isNone &&
      ((t.region r0).bind (fun z => tfind z.slots 1)).any (fun b => b.image.ii == 2 && b.image.words == [⟨0, 0, 1, 0, some 1, 7⟩, ⟨4, 0, 1, 0, some 65, 9⟩])) = true := by decide +kernel
/-- A BLOAD into the staged slot that waits for the mapper comes first (R380). -/
theorem test_port_commit_waits :
    let g : Staging := ⟨1, 15, 1, []⟩
    let z : Region := { region0 with mapping := some { slot := 1, block := {}, addr := 0 } }
    after (.cfgCommit 0 0) { portS 0xF002 0 0 (some g) none with regions := [(0, z)] } (fun t => (t.tile 0 0).cfg.result.isNone) = true := by decide +kernel
/-- VerifyService: a request of each kind. -/
theorem witness_verify :
    let s (r : Nat) : State := { hubS {} with ctxs := [(2307, { run := .running })], mem := mwrite [] (dbLoc 0 239 0) (leBytes 8 r) }
    verifyPending (s 1) = true ∧ verifyDword (s 1) 0 % 2 ^ 8 = 1 ∧ verifyDword (s 0x301) 0 / 2 ^ 8 % 2 ^ 8 ≤ 3 ∧ 3 < verifyDword (s 0x401) 0 / 2 ^ 8 % 2 ^ 8 ∧
      ((s 1).ctx (.hub 0 3)).run = .running ∧ ((s 1).ctx (.hub 0 3)).frozen = false := by decide +kernel
/-- VerifyService: without a ring nothing is served; a ring with nothing pending is cleared; a presented request that is no SPDM code is answered. -/
theorem test_verify_doorbell :
    let s (h : BitVec 4) (m : List Byte) (p : Bool) : State :=
      { hubS {} with ctxs := [(2307, { run := .running })], dies := [(0, { hdoor := h })], mem := mwrite [] (2 ^ 58 + 0x1000) m, doe := { base := 0x1000, present := p, reqLen := 8 } }
    after .verify (s 0 [1] true) (fun t => t == s 0 [1] true) = true ∧ after .verify (s 12 [] false) (fun t => (t.die 0).hdoor == 4) = true ∧
      after .verify (s 8 [1] true) (fun t => !t.doe.present && t.doe.out.map (·.length) == [24]) = true := by decide +kernel
theorem test_verify_keysel :
    after .verify { hubS {} with ctxs := [(2307, { run := .running })], mem := mwrite [] (dbLoc 0 239 0) (leBytes 8 0x500000401), dies := [(0, { hdoor := 8 })] }
    (fun t => mnat t.mem (dbLoc 0 239 32) 8 == 0x500030180 && (t.die 0).hdoor == 0) = true := by
  decide +kernel

/-- A part that is ready, with queue 0 of die 0 the physical function's. -/
def hostS (q : Queue) : State := { State.reset with power := .ready, dies := [(0, { rdy := true, queues := [(0, q)] })], qmap := [(0, { v := true, func := 0 })] }
theorem test_commit : after (.launchCommit 0 0 240 (List.replicate 16 1)) (hostS {}) (fun t => (t.queue 0 0).recs == [BitVec.ofNat 2048 (0x01010101010101010101010101010101 * 2 ^ 1920)]) = true := by
  decide +kernel
theorem test_commit_full :
    after (.launchCommit 0 0 248 (List.replicate 8 1)) (hostS { recs := List.replicate 64 0, drop := 0xFFFFFFFF }) (fun t => (t.queue 0 0).drop == 0xFFFFFFFF && (t.queue 0 0).recs.length == 64) = true := by
  decide +kernel
/-- HostActions: posting windows and commits in each case, a locked and a running interface, and a host access that has waited. -/
theorem witness_host :
    let s : State := { hostS {} with vfs := [(1, { st := .run }), (2, { st := .error })], ide := [(7, 1)] }
    let p : State := { strandS { stall := .access } with pend := [{ pend0 (.store [1]) with parts := [(2 ^ 52 + 0x40000, 8)], host := true, ticks := 10000000 }] }
    pageQueue s 0 0 = some (0, 0) ∧ s.power ≠ .off ∧ (s.die 0).rdy = true ∧ ((hostS {}).die 1).rdy = false ∧ (s.queue 0 0).recs.length + (s.queue 0 0).saved.length < 64 ∧
      (s.vf 1).st = .run ∧ (s.vf 1).stopping = false ∧ pageQueue s 1 0 = none ∧ 0 < vfBar0Size ∧ (7, 1) ∈ s.ide ∧ vfDead (s.vf 1) = false ∧ vfDead (s.vf 2) = true ∧ 0 < vfBar2Size ∧
      (s.vf 1).frozen = false ∧ p.pend[0]? = some { pend0 (.store [1]) with parts := [(2 ^ 52 + 0x40000, 8)], host := true, ticks := 10000000 } ∧ (p.ctx u0).stall = .access ∧ mayProceed p u0 = true ∧
      after (.hostCompletionTimeout 0) p (fun t => faultOf t u0 == some (0x17, 3)) = true := by decide +kernel

theorem test_pf_mgbase : after (.hostConfigWrite (.management 0 0) 0x9000FFF) (strandS {}) (fun t => t.mgbase == 0x9000000) = true := by decide +kernel
theorem test_pf_mstat : after (.hostConfigWrite (.management 1 16) 0x5002) { strandS {} with dies := [(1, { err := true, dblf := 15 })] } (fun t => !(t.die 1).err && (t.die 1).dblf == 10) = true := by
  decide +kernel

/-- A slot whose table was not read when its strand started. -/
def schNew : State := (schS 1 .idle 0).modCtx u0 (fun c => c.putSch 2 { c.getSch 2 with count := 0 })
theorem test_schedule_starts : after (.scheduleRelease u0 2) schNew (fun t => ((t.ctx u0).getSch 2).count == 1 && ((t.ctx u0).getSch 2).st == .run && (t.ctx u0).tok == [(0, ⟨.idle, 0⟩)]) = true := by
  decide +kernel
theorem witness_schedule_starts :
    ((schNew.ctx u0).getSch 2).count = 0 ∧ ((schNew.ctx u0).getSch 2).table = 0x100000 ∧
      readLoads schNew (schReq schNew u0 2) 0x100000 2 = (schNew, .ok (leBytes 8 1 ++ leBytes 8 0)) ∧ numOf (leBytes 8 1 ++ leBytes 8 0) = 1 ∧ mayProceed schNew u0 = true := by
  decide +kernel
theorem test_schedule_error : after (.scheduleRelease u0 2) (schS 0 .error 0) (fun t => ((t.ctx u0).getSch 2).st == .stopped) = true := by decide +kernel

/-- The host gives a frame to the pool of its die and kind, once; one of host memory is no frame of a pool (R45, log entry 34). -/
def frameA : Nat := 7
theorem test_free_frames : after (.hostConfigWrite (.freeFrames (locDie (frameA * 65536)) (locLpd (frameA * 65536)) [frameA, frameA, frameA + 2 ^ 36]) 0) (hostS {}) (fun t =>
    (tget t.pools (locDie (frameA * 65536) * 2 + (if locLpd (frameA * 65536) then 1 else 0)) []) == [frameA]) = true := by decide +kernel
/-- HostActions: BAR2 of an owner's function, of a dead interface, and the frames' keys. -/
theorem witness_bar2 :
    let s : State := { ownerS (hostS {}) with owners := [(1, { v := true, troot := 0x1000, grant := 3, func := 0 })], vfs := [(2, { st := .error })] }
    s.power = .ready ∧ funcOwner s 0 = some 1 ∧ (readGen s (ownerReq 0 1) 0x48000000 4).2 = .ok [0, 0, 0, 0] ∧
      after (.hostBar2Access 0 0x48000000 (.write [7])) s (fun t => mget t.mem 0x48000000 == 7) = true ∧
      after (.hostBar2Access 2 0 (.read 2)) s (fun t => t.hostOut == [[0xFF, 0xFF]]) = true ∧ vfDead (s.vf 2) = true := by decide +kernel
theorem test_host_atomic : after (.hostBar2Access 1 0 (.atomic [1])) (hostS {}) (fun t => t.hostOut == [[]] && t.mem == []) = true := by decide +kernel
theorem test_recovery_drops : after (.hostPostingWrite 0 0 0 [1]) { hostS {} with power := .recovery } (fun t => (t.queue 0 0) == (({ hostS {} with power := .recovery } : State).queue 0 0)) = true := by
  decide +kernel
theorem witness_recovery : ¬ (({ hostS {} with power := .recovery } : State).power = .bringup ∨ ({ hostS {} with power := .recovery } : State).power = .ready) ∧
    ({ hostS {} with power := .recovery } : State).power ≠ .off := by decide +kernel
/-- HostActions: BAR0 of function 1 with queue 0: QSTAT of a queue with two records and three discarded commits, and an AtomicOp. -/
def barS : State := { hostS { recs := [0, 0], drop := 3 } with qmap := [(0, { v := true, func := 1 })] }
theorem test_bar0_read :
    after (.hostConfigWrite (.bar0 1 0x100 (.read 8)) 0) barS (fun t => t.hostOut == [[62, 0, 3, 0, 0, 0, 0, 0]]) = true ∧
      after (.hostConfigWrite (.bar0 1 0x100 (.atomic [1])) 0) barS (fun t => t.hostOut == [[]]) = true := by decide +kernel
theorem witness_bar0 : pageQueue barS 1 0 = some (0, 0) ∧ vfDead (barS.vf 1) = false ∧ 4096 * 0 + 256 < vfBar0Size ∧ 256 < bar0Size 1 := by decide +kernel
/-! ## Streams and transformed copies -/

/-- The gather of R119: four words at TILE offset 0x60 index four dwords at offset 0x40; a stream descriptor for the words at offset 0. -/
def gatherMem : Memory :=
  mwrite (mwrite (mwrite [] (2 ^ 56) (leBytes 64 (0x100060 + 0x400000004 * 2 ^ 64 + 6 * 2 ^ 384))) (2 ^ 56 + 0x40) ([10, 20, 30, 40].flatMap (leBytes 8))) (2 ^ 56 + 0x60)
    ([2, 0, 3, 3].flatMap (leBytes 4))
/-- The index stream, its table, and the stream through them. -/
def qIdx : Stream := { mode := .read, esize := 2, base := 0x100060, dims := [(4, 4)] }
def qTab : Stream := { mode := .read, esize := 3, base := 0x100040, dims := [(4, 8)] }
def qInd : Stream := { qTab with ind := some ⟨false, 0⟩ }
/-- A strand with those memory contents and some streams. -/
def strS (q : Tab Stream) (r : Region) : State :=
  { strandS { s := [(1, 0x100000), (2, 0x100008)], q := q } with mem := gatherMem, regions := [(0, r)] }
theorem test_qset : after (.qset g0 5 1 0) (strS [] region0) (fun t => (t.ctx u0).getQ 5 == qIdx) = true := by decide +kernel
theorem test_qrd_gather : after (.qrd g0 false 7 2) (strS [(0, qIdx), (2, qInd)] region0) (fun t => t.getS u0 7 == 30 && ((t.ctx u0).getQ 0).n == 1) = true := by decide +kernel
theorem test_qrd_last :
    after (.qrd g0 false 7 2) (strS [(0, { qIdx with n := 3 }), (2, qInd)] region0) (fun t => t.getS u0 7 == 40 && ((t.ctx u0).getQ 0).exh && ((t.ctx u0).getQ 0).ends == 1) = true := by
  decide +kernel
theorem test_qrd_exhausted : after (.qrd g0 false 7 0) (strS [(0, { qIdx with n := 4, exh := true })] region0) (fun t => t.getS u0 7 == 0 && (t.ctx u0).pc == 8) = true := by decide +kernel
theorem test_qrd_beyond : after (.qrd g0 false 7 2) (strS [(0, qIdx), (2, { qInd with dims := [(2, 8)] })] region0) (fun t => faultOf t u0 == some (6, 7) && ((t.ctx u0).getQ 0).n == 0) = true := by
  decide +kernel
theorem test_qind : after (.qind g0 true 2 1 0) (strS [(0, qIdx), (1, { qTab with dims := [(4, 8), (2, 32)], n := 3 })] region0)
    (fun t => (t.ctx u0).getQ 2 == { qTab with ind := some ⟨true, 0⟩ }) = true := by decide +kernel
theorem test_qpos_set_past : after (.qposSet g0 0 1) (strS [(0, qIdx)] region0) (fun t => ((t.ctx u0).getQ 0).n == 4 && ((t.ctx u0).getQ 0).exh) = true := by decide +kernel
theorem test_qflag_unbound : after (.qflag g0 1 9 6) (strS [] region0) (fun t => !t.getP u0 1 && (t.ctx u0).pc == 8) = true := by decide +kernel

/-- An active stream of strand 0 with its operation on token 1 and FIFO 2. -/
def actS (mode : QMode) (x : Stream) (f : Fifo) (tk : Task) : State :=
  { strandS { q := [(3, { x with mode := mode, fifo := 2, tok := 1 })], tok := [(1, ⟨.busy, 0⟩)] } with
    mem := gatherMem, regions := [(0, { region0 with fifos := [(2, f)] })], tasks := [(0, tk)]
    ops := [(1, { gop (if mode = .feed then .feed 3 else .drain 3) with tok := 1, scope := 3, apDie := 0 })] }
/-- R117: two words to an entry, the first in the low half. -/
theorem test_feed : after (.feedPush u0 3) (actS .feed qIdx {} task0) (fun t => (agentFifo t u0 2).entries == [{ w := 2, sb := 0x7F }] && ((t.ctx u0).getQ 3).n == 2) = true := by
  decide +kernel
theorem test_feed_last :
    after (.feedPush u0 3) (actS .feed { qIdx with n := 2 } {} task0) (fun t => (agentFifo t u0 2).entries == [{ w := 0x300000003, sb := 0x7F }] && t.getTok u0 1 == ⟨.done, 0⟩) = true := by
  decide +kernel
theorem test_drain :
    after (.drainWrite u0 3) (actS .drain { qIdx with n := 2 } { entries := [{ w := 0x9900000000AA000000BB }] } task0)
      (fun t => mread t.mem (2 ^ 56 + 0x68) 8 == [0xBB, 0, 0, 0, 0xAA, 0, 0, 0] && t.getTok u0 1 == ⟨.done, 0⟩ && (agentFifo t u0 2).entries == []) = true := by decide +kernel
theorem test_drain_watchdog :
    after (.drainWatchdogExpiry u0 3) (actS .drain { qIdx with ticks := 5 } {} { task0 with lrec := BitVec.ofNat 2048 (5 * 2 ^ 960) }) (fun t => t.getTok u0 1 == ⟨.error, 1⟩) = true := by
  decide +kernel

/-- StreamBinding: a free stream, an active one, a READ descriptor, FEED and DRAIN descriptors and what they need, tables that fit and that do not. -/
theorem witness_stream_binding :
    let s := strS [(0, qIdx), (1, qTab)] region0
    let n := noteIssue s u0
    let d (k : Nat) : BitVec 512 := BitVec.ofNat 512 (0x100060 + 0x400000004 * 2 ^ 64 + (6 + 32 * k) * 2 ^ 384)
    Issues s u0 g0 ∧ (s.getS u0 1).toNat % 64 = 0 ∧ (s.getS u0 2).toNat % 64 ≠ 0 ∧ streamActive s u0 5 = false ∧ streamActive (actS .feed qIdx {} task0) u0 3 = true ∧
      readLoads n (n.req u0) 0x100000 8 = (n, .ok (leBytes 64 (d 0).toNat)) ∧ streamDescBad (d 0) = false ∧ streamDescBad (d 1) = false ∧ streamDescBad (d 2) = false ∧
      descBits (d 3) 390 389 = 3 ∧ descBits 0 388 386 = 0 ∧ ownRegion n u0 ≠ none ∧ (n.getTok u0 0).st = .idle ∧ reportPending n u0 0 = false ∧
      (agentFifo n u0 0).producer = none ∧ (agentFifo n u0 0).consumer = none ∧ ((s.ctx u0).getQ 1).mode = .read ∧ ((s.ctx u0).getQ 1).ind = none ∧
      ((s.ctx u0).getQ 0).mode = .read ∧ (2 : QReg) ≠ 0 ∧ ((s.ctx u0).getQ 7).mode ≠ .read ∧ ownRegion (hubS {}) h0 = none := by
  refine ⟨⟨?_, ?_⟩, ?_⟩ <;> decide +kernel
/-- StreamReads: plain elements up to the last, and an index in and beyond its table, on both sides of the bound. -/
theorem witness_stream_reads :
    let s := strS [(0, { qIdx with n := 3 }), (2, qInd), (4, { qInd with dims := [(3, 8)] })] region0
    let n := noteIssue s u0
    Issues s u0 g0 ∧ ((s.ctx u0).getQ 0).mode = .read ∧ ((s.ctx u0).getQ 0).ind = none ∧ ((s.ctx u0).getQ 0).exh = false ∧ ((s.ctx u0).getQ 9).mode ≠ .read ∧
      readGen n (n.req u0) (0x100060 + int64 (walkOff [(4, 4)] 3)) 4 = (n, .ok [3, 0, 0, 0]) ∧ ((s.ctx u0).getQ 2).ind = some ⟨false, 0⟩ ∧
      numOf [3, 0, 0, 0] < (4 : BitVec 32).toNat ∧ (3 : BitVec 32).toNat ≤ numOf [3, 0, 0, 0] ∧
      readGen n (n.req u0) (0x100040 + int64 (3 * 8)) 8 = (n, .ok [40, 0, 0, 0, 0, 0, 0, 0]) := by
  refine ⟨⟨?_, ?_⟩, ?_⟩ <;> decide +kernel
/-- StreamControl: bound and unbound, active and not. -/
theorem witness_stream_control :
    let s := strS [(0, qIdx)] region0
    Issues s u0 g0 ∧ ((s.ctx u0).getQ 1).mode = .unbound ∧ ((s.ctx u0).getQ 0).mode ≠ .unbound ∧ ((s.ctx u0).getQ 0).ind = none ∧ streamActive s u0 0 = false ∧
      streamActive (actS .drain qIdx {} task0) u0 3 = true ∧ (4 : BitVec 3).toNat < 5 := by
  refine ⟨⟨?_, ?_⟩, ?_⟩ <;> decide +kernel
/-- StreamTransfers. -/
theorem witness_stream_transfers :
    let s := actS .feed qIdx {} task0
    let d := actS .drain { qIdx with ticks := 1000000 } { entries := [{ w := 1 }] } task0
    let e := actS .drain { qIdx with ticks := 1000000 } {} task0
    (streamOp s u0 3).isSome = true ∧ ownRegion s u0 ≠ none ∧ ((s.ctx u0).getQ 3).exh = false ∧ 0 < (agentFifo s u0 2).room ∧ (streamOp d u0 3).isSome = true ∧
      (agentFifo d u0 2).readable = [{ w := 1 }] ∧ (agentFifo e u0 2).readable = [] ∧ e.taskOf u0 = some 0 ∧ e.task 0 = some task0 ∧
      recBits task0.lrec 991 960 = 0 ∧ 1000000 ≤ ((e.ctx u0).getQ 3).ticks := by decide +kernel

/-- A transformed copy of one word from 0x40 to 0x80 on token 5, on a region lent to it, whose engine produces for f1 and consumes from f2. -/
def xd0 : BitVec 512 := cdesc 2 0x100040 0x100080 8 + BitVec.ofNat 512 (2 ^ 400 + 2 ^ 416)
def xop (num made : Nat) : EngOp := { cop .xform xd0 .started with num := num, made := made }
def xformS (o : EngOp) (out : List Val) : State :=
  { copyS xd0 [(5, o)] { tok := [(5, ⟨.busy, 0⟩)] } with
    regions := [(0, { region0 with lent := some 5, run := some run0, fifos := [(1, { producer := some (.stream u0 21) }), (2, { consumer := some (.stream u0 21), entries := out })] })] }
theorem test_xform_feed : after (.feedPush u0 21) (xformS (xop 0 0) []) (fun t => (agentFifo t u0 1).entries == [{ w := 0x0807060504030201, sb := 0x7F }] && (t.op u0 5).map (·.num) == some 1) = true := by
  decide +kernel
theorem test_xform_drain : after (.drainWrite u0 21) (xformS (xop 1 0) [{ w := 0x5566 }]) (fun t => mread t.mem (2 ^ 56 + 0x80) 3 == [0x66, 0x55, 0] && (t.op u0 5).map (·.made) == some 1) = true := by
  decide +kernel
/-- TransformedCopies: words in and out, a region that a copy waits for, and a mapping at its bound. -/
theorem witness_transformed :
    let s := xformS (xop 0 0) [{ w := 0x5566 }]
    let w := copyS xd0 [(5, xop 0 0)] {}
    let m : State := { strandS { stall := .mapper } with regions := [(0, { region0 with mapping := some { slot := 3, block := {}, addr := 0, ticks := 4000000 } })] }
    xformOp s u0 5 = (s.region r0).map (fun x => (r0, x, xop 0 0)) ∧ (s.region r0).isSome = true ∧ (s.region r0).map (fun x => claimedFifo x (xformClaim (xop 0 0)) true) = some (some 1) ∧
      (s.region r0).map (fun x => claimedFifo x (xformClaim (xop 0 0)) false) = some (some 2) ∧ 0 < xformWords xd0 (dLen xd0) ∧ 0 < xformWords xd0 (xformLen xd0) ∧
      readGen s (s.opReq (xop 0 0)) (xformAddr xd0 (dSrc xd0) 8 0 0 0) 8 = (s, .ok [1, 2, 3, 4, 5, 6, 7, 8]) ∧
      w.region r0 = some region0 ∧ xformWaiting w r0 = some (xop 0 0) ∧ regionBusy region0 = false ∧ region0.mapping = none ∧ w.taskOf u0 = some 0 ∧ w.task 0 = some task0 ∧
      (m.ctx u0).stall = .mapper ∧ mayProceed m u0 = true ∧ isMapping {} 32 32 { ({ ii := 1, fb := false, relays := 0, words := [] } : MapImage) with words := sortWords [] } = true := by
  decide +kernel

/-- R100: the block has ended and all that it made is written: the region is given back; with a word consumed and none made the ratio is wrong. -/
def xformEnd (num made : Nat) : State :=
  let s := xformS { xop num made with st := .written } []
  { s with regions := s.regions.map (fun e => (e.1, { e.2 with run := none })) }
theorem test_xform_ends :
    after (.copyComplete u0 5) (xformEnd 1 1) (fun t => t.getTok u0 5 == ⟨.done, 0⟩ && (t.op u0 5).isNone && (t.region r0).any (fun z => z.lent.isNone && (z.fifo 1).producer.isNone && (z.fifo 2).consumer.isNone)) = true := by
  decide +kernel
theorem test_xform_ratio :
    after (.copyComplete u0 5) (xformEnd 1 0) (fun t => t.getTok u0 5 == ⟨.error, 2⟩ && (t.op u0 5).any (fun o => o.fault.any (fun f => f.cls == 0x0B && f.detail == 7)) && (t.region r0).any (fun z => z.lent.isNone)) = true := by
  decide +kernel
theorem witness_xform_ends :
    (xformOp (xformEnd 1 1) u0 5).any (fun e => e.1 == r0 && xformDrained e.2.1 e.2.2 && e.2.2.st == .written && e.2.2.num - xformLeft e.2.1 e.2.2 == 1) = true ∧
      (∀ k, k < 4 → namedLayout ((xformEnd 1 1).ctx (.strand 0 0 k)) = none) ∧ dNtf xd0 = false ∧ dRout xd0 = 1 ∧ dRin xd0 = 1 := by decide +kernel
/-- R275: where the copy has written 9, it still reads the byte 1 that was there. -/
theorem test_xform_reads_old :
    let o := { xop 0 0 with apTile := 0x100001 }
    let s := xformS o []
    let q := s.opReq o
    let w := writeGen s q 0x100040 [9]
    let own := noteOwn s q o.own 0x100040 1
    (match w.2 with
    | .ok () => true
    | _ => false) = true ∧ mget w.1.mem (2 ^ 56 + 0x40) = 9 ∧ (readGenOwn w.1 q own 0x100040 2).2 = .ok [1, 2] ∧ InTile s u0 0x100040 2 ∧ Sound s u0 0x100040 2 := by
  unfold InTile Sound; decide +kernel

theorem test_qclr_ends : after (.qclr g0 true 3) (actS .feed qIdx { entries := [{ w := 1 }] } task0) (fun t =>
    t.getTok u0 1 == ⟨.done, 0⟩ && (t.op u0 1).isNone && ((t.ctx u0).getQ 3).mode == .unbound && (agentFifo t u0 2).entries == []) = true := by decide +kernel
/-- StreamControl: a stream that runs and is cleared; one bound through an index stream; the flags at the last number of each kind. -/
theorem witness_stream_clear :
    let s := actS .feed qIdx { entries := [{ w := 1 }] } task0
    let i := strS [(0, qIdx), (2, qInd)] region0
    Issues s u0 g0 ∧ Issues i u0 g0 ∧ streamActive s u0 3 = true ∧ (s.op u0 1).map (·.kind) = some (.feed 3) ∧ ((s.ctx u0).getQ 3).tok = 1 ∧
      (agentFifo s u0 2).entries ≠ [] ∧ ((i.ctx u0).getQ 2).ind = some ⟨false, 0⟩ ∧ ((i.ctx u0).getQ 0).ind = none ∧ baseStream (i.ctx u0) chainFuel 2 = 0 := by
  refine ⟨⟨?_, ?_⟩, ⟨?_, ?_⟩, ?_⟩ <;> decide +kernel
/-- Streams of 8-byte elements with their operation as at its issue. -/
def actT (mode : QMode) (x : Stream) (f : Fifo) : State :=
  let s := actS mode x f task0
  { s with ops := s.ops.map (fun e => (e.1, { e.2 with apTile := (s.ctx u0).apTile })) }
theorem witness_stream_tile :
    let s := actT .feed qTab {}
    let d := actT .drain qTab { entries := [{ w := 1 }] }
    let z := actT .feed { qIdx with n := 4, exh := true } {}
    (∀ o, streamOp s u0 3 = some o → AtIssue s u0 o) ∧ (streamOp s u0 3).isSome = true ∧ InTile s u0 (0x100040 + int64 (walkOff qTab.dims 0)) 8 ∧
      Sound s u0 (0x100040 + int64 (walkOff qTab.dims 0)) 8 ∧ (∀ o, streamOp d u0 3 = some o → AtIssue d u0 o) ∧ (streamOp d u0 3).isSome = true ∧
      InTile d u0 (0x100040 + int64 (walkOff qTab.dims 0)) 8 ∧ (agentFifo d u0 2).readable = [{ w := 1 }] ∧ ((s.ctx u0).getQ 3).ind = none ∧
      (baseStream (z.ctx u0) chainFuel 3 = 3) ∧ ((z.ctx u0).getQ 3).exh = true ∧ (streamOp z u0 3).isSome = true := by
  unfold InTile Sound AtIssue
  refine ⟨?_, ?_, ?_, ?_, ?_, ?_⟩ <;> decide +kernel
theorem test_feed_exhausted : after (.feedPush u0 3) (actS .feed { qIdx with n := 4, exh := true } {} task0) (fun t => t.getTok u0 1 == ⟨.done, 0⟩ && (t.op u0 1).isNone) = true := by
  decide +kernel

/-- A BLOAD that waits for the mapper, with the ticks it has waited and what the mapper has answered before. -/
def mapS (ticks : Nat) (l : List MapAnswer) : State :=
  { strandS { stall := .mapper } with regions := [(0, { region0 with mapping := some { slot := 3, block := {}, addr := 0, ticks := ticks } })], mapped := l }
def imgE : MapImage := { ii := 1, fb := false, relays := 0, words := [] }
/-- TransformedCopies: the mapper's answers that are allowed, given before and new, up to the last tick before the timeout. -/
theorem witness_mapper_answers :
    mayAnswer {} 32 32 (some imgE) = true ∧ answerOf (mapS 3999999 []) {} region0 = none ∧ answerOf (mapS 0 [⟨{}, 2, 2, none⟩]) {} region0 = some ⟨{}, 2, 2, none⟩ ∧
      mayAnswer {} region0.nrows region0.ncols (some imgE) = true ∧ mayAnswer {} region0.nrows region0.ncols (some { imgE with fb := true }) = false ∧
      (mapS 3999999 []).region r0 = some { region0 with mapping := some { slot := 3, block := {}, addr := 0, ticks := 3999999 } } ∧ mayProceed (mapS 0 []) u0 = true := by
  decide +kernel
theorem test_mapper_fills : after (.mapperResult u0 (some imgE)) (mapS 3999999 []) (fun t => (t.region r0).any (fun z => (tfind z.slots 3).isSome && z.mapping.isNone) && (t.ctx u0).stall == .none) = true := by
  decide +kernel
theorem test_mapper_late : after (.mapperResult u0 (some imgE)) (mapS 4000000 []) (fun t => t == mapS 4000000 []) = true := by decide +kernel
theorem test_mapper_again : after (.mapperResult u0 none) (mapS 0 [⟨{}, 2, 2, none⟩]) (fun t => faultOf t u0 == some (0x0D, 1)) = true := by decide +kernel
/-! ## The irregular engines -/

/-- R122's lists: A is (1, 2.0), (4, −1.5), (7, 3.0); B is (4, 1.5), (5, 0.25), (7, −3.0). -/
def listA : List (Nat × Nat) := [(1, 0x40000000), (4, 0xBFC00000), (7, 0x40400000)]
def listB : List (Nat × Nat) := [(4, 0x3FC00000), (5, 0x3E800000), (7, 0xC0400000)]
theorem test_merge_example : mergeLists 0 false true 7 none none listA listB = ([(1, 0x40000000), (5, 0x3E800000)], false) := by decide +kernel
theorem test_merge_zeros : mergeLists 0 true true 7 none none listA listB = ([(1, 0x40000000), (4, 0), (5, 0x3E800000), (7, 0)], false) := by decide +kernel
theorem test_merge_order : mergeLists 0 false false 7 none none [(4, 1), (4, 2)] [] = ([(4, 1)], true) := by decide +kernel
/-- Three tokens for expert 1 with CAP 2: the third takes the detour. -/
theorem test_route_detour :
    let r := ((List.range 4).zip [1, 0, 1, 1]).foldl (routeToken 2) {}
    r.q = [(2, 0), (0, 1), (3, 2)] ∧ r.lane = [3] ∧ r.flg = [0, 0, 0, 1] ∧ tget r.off 1 0 = 3 ∧ tget r.acc 1 0 = 2 := by decide +kernel
/-- R127's table of 12 keys in 16 slots, 40 and 90 among them. -/
def tbl12 : List (Nat × Nat) := (haccApply 3 false 4 (List.replicate 16 (0, 0)) 0 ((sortKeys ([40, 90, 1, 2, 3, 4, 5, 6, 7, 8, 9, 10].map (fun k => (k, 1)))))).1
/-- R127: 70, 40, 20, 90, 55 stop at update 3 with 14 slots occupied; 40 has its sum. -/
theorem test_hacc_full :
    let r := haccApply 0 false 4 tbl12 0 (sortKeys [(70, 5), (40, 6), (20, 7), (90, 8), (55, 9)])
    r.2 = .full 3 ∧ (r.1.filter (fun x => x.1 != 0)).length = 14 ∧ (40, 7) ∈ r.1 ∧ (90, 1) ∈ r.1 ∧ (55, 9) ∈ r.1 := by decide +kernel
theorem test_hacc_key0 : (haccApply 0 false 4 (List.replicate 16 (0, 0)) 0 [(0, 5)]).2 = .rkey 0 := by decide +kernel

/-- A descriptor of fields at bit positions. -/
def fields (l : List (Nat × Nat)) : BitVec 512 := BitVec.ofNat 512 (l.map (fun x => x.2 * 2 ^ x.1)).sum
/-- A strand with a descriptor at TILE offset 0, two bytes at 0x40, and some operation. -/
def irrS (d : BitVec 512) (l : Tab EngOp) : State :=
  { strandS { s := [(1, 0x100000), (2, 0x100020)], tok := l.map (fun _ => (5, ⟨.busy, 0⟩)) } with mem := mwrite (mwrite [] (2 ^ 56) (leBytes 64 d.toNat)) (2 ^ 56 + 0x40) [1, 0, 2, 0, 5], ops := l }
/-- Merge of one entry at 0x40 with none; route of two tokens at 0x40 to three experts; a hash table of 16 slots at 0x400, one update at 0x40. -/
def md0 : BitVec 512 := fields [(0, 0x100040), (64, 0x100040), (256, 0x100080), (320, 0x1000A0), (384, 1), (448, 0x1000C0)]
def rd0 : BitVec 512 := fields [(0, 0x100040), (64, 0x100080), (128, 0x100100), (192, 0x100140), (256, 0x100150), (320, 0x100158), (384, 2), (416, 3), (432, 1)]
def hd0 : BitVec 512 := fields [(0, 0x100400), (64, 0x100040), (128, 0x100040), (256, 1), (320, 4)]
def fd0 : BitVec 512 := fields [(0, 0x100400), (64, 0x100080), (128, 0x1000A0), (192, 0x1000C0), (320, 4)]
theorem test_merge_issue : after (.merge g0 0 false false false 3 5 1 0) (irrS md0 []) (fun t => (t.op u0 5).map (·.kind) == some (.merge 0 false false false) && (t.getTok u0 5).st == .busy) = true := by
  decide +kernel
theorem test_hacc_place : after (.hacc g0 0 false 3 5 1 0) (irrS (hd0 - 8) []) (fun t => faultOf t u0 == some (6, 8)) = true := by decide +kernel
theorem test_merge_complete :
    after (.mergeComplete 0 0) (irrS md0 [(5, cop (.merge 0 false false false) md0 .started)])
      (fun t => mread t.mem (2 ^ 56 + 0x80) 4 == [1, 0, 2, 0] && mnat t.mem (2 ^ 56 + 0xC0) 8 == 1 && t.getTok u0 5 == ⟨.done, 0⟩) = true := by decide +kernel
theorem test_route_complete :
    after (.routeComplete 0 0) (irrS rd0 [(5, cop .route rd0 .started)])
      (fun t => mnat t.mem (2 ^ 56 + 0x84) 4 == 0 && mnat t.mem (2 ^ 56 + 0x88) 4 == 1 && mnat t.mem (2 ^ 56 + 0x108) 8 == 0x100000001 && t.getTok u0 5 == ⟨.done, 0⟩) = true := by
  decide +kernel
theorem test_route_expert : after (.routeComplete 0 0) (irrS (rd0 - BitVec.ofNat 512 (2 ^ 416)) [(5, cop .route (rd0 - BitVec.ofNat 512 (2 ^ 416)) .started)]) (fun t => t.getTok u0 5 == ⟨.error, 1⟩) = true := by
  decide +kernel
theorem test_hacc_complete :
    after (.haccComplete 0 0) (irrS hd0 [(5, cop (.hacc 0 false) hd0 .started)])
      (fun t => mnat t.mem (2 ^ 56 + 0x400 + 8 * hashOf 4 0x20001) 8 == 0x0002000100020001 && t.getTok u0 5 == ⟨.done, 0⟩) = true := by decide +kernel

/-- IrregularIssue: each descriptor, aligned and not, the table's place, and an idle engine with a queued operation. -/
theorem witness_irregular_issue :
    let s (d : BitVec 512) : State := irrS d []
    let n (d : BitVec 512) : State := noteIssue (s d) u0
    let w : State := irrS md0 [(5, cop (.merge 0 false false false) md0 (.queued 1))]
    Issues (s md0) u0 g0 ∧ ((s md0).getS u0 1).toNat % 64 = 0 ∧ ((s md0).getS u0 2).toNat % 64 ≠ 0 ∧
      readLoads (n md0) ((n md0).req u0) 0x100000 8 = (n md0, .ok (leBytes 64 md0.toNat)) ∧ ((n md0).getTok u0 5).st = .idle ∧ reportPending (n md0) u0 5 = false ∧
      descBits md0 511 448 % 8 = 0 ∧ descBits rd0 511 448 = 0 ∧ descBits rd0 447 432 ≠ 0 ∧ descBits rd0 431 416 ≠ 0 ∧ descBits rd0 319 256 % 8 = 0 ∧ descBits rd0 191 128 % 8 = 0 ∧
      descBits hd0 511 324 = 0 ∧ 4 ≤ descBits hd0 323 320 ∧ descBits hd0 255 192 = 0 ∧ descBits fd0 319 256 = 0 ∧
      ownBuffer (n hd0) ((n hd0).req u0) 0x100400 128 128 = some (2 ^ 56 + 0x400) ∧ ownBuffer (n hd0) ((n hd0).req u0) 0x1003F8 128 128 = none ∧
      ownRegion (n md0) u0 ≠ none ∧ (agentFifo (n md0) u0 0).producer = none ∧ engineOp w 0 0 0 = none ∧
      oldestQueued w (fun x => onEngine 0 0 0 x && opRuns w x) = some (cop (.merge 0 false false false) md0 (.queued 1)) := by
  refine ⟨⟨?_, ?_⟩, ?_⟩ <;> decide +kernel
/-- MergeOfSortedLists, RouteDispatch, HashUpdates: lists that rise and that do not, a token that finds its queue full, and a probe that passes a slot. -/
theorem witness_irregular_algorithms :
    listA.Pairwise (fun x y => x.1 < y.1) ∧ listB.Pairwise (fun x y => x.1 < y.1) ∧ ¬ [(4, 1), (4, 2)].Pairwise (fun x y : Nat × Nat => x.1 < y.1) ∧
      ([0, 1, 0] : List Nat)[2]? = some 0 ∧ (([0, 1, 0] : List Nat).take 2).filter (fun x => x == 0) = [0] ∧
      (List.replicate 16 ((0 : Nat), (0 : Nat))).length = 2 ^ 4 ∧ tbl12.length = 2 ^ 4 ∧ (tbl12.filter (fun x => x.1 != 0)).length ≠ 2 ^ 4 - 2 ^ 4 / 8 := by decide +kernel
/-- IrregularResults: an operation of each kind in progress, and what it reads. -/
theorem witness_irregular_results :
    let m := irrS md0 [(5, cop (.merge 0 false false false) md0 .started)]
    let r := irrS rd0 [(5, cop .route rd0 .started)]
    let h := irrS hd0 [(5, cop (.hacc 0 false) hd0 .started)]
    let f := irrS fd0 [(5, cop (.hflush false) fd0 .started)]
    engineOp m 0 0 0 = some (cop (.merge 0 false false false) md0 .started) ∧ opRuns m (cop (.merge 0 false false false) md0 .started) = true ∧
      readAll (m.opReq (cop .copy md0 .started)) m (mergeReads md0) = (m, .ok [[1, 0, 2, 0], [1, 0, 2, 0], [], []]) ∧ mergeOut 0 false false [[1, 0, 2, 0], [1, 0, 2, 0], [], []] = ([(0x20001, 0x20001)], false) ∧
      engineOp r 0 0 1 = some (cop .route rd0 .started) ∧ readAll (r.opReq (cop .route rd0 .started)) r [(0x100040, 4)] = (r, .ok [[1, 0, 2, 0]]) ∧
      (∀ e ∈ elemsOf 2 [1, 0, 2, 0], e < descBits rd0 431 416) ∧ engineOp h 0 0 2 = some (cop (.hacc 0 false) hd0 .started) ∧
      engineOp f 0 0 2 = some (cop (.hflush false) fd0 .started) ∧
      (readAll (h.opReq (cop .copy hd0 .started)) h [(0x100040, 4), (0x100040, 4), (0x100400, 128)]).2 = .ok [[1, 0, 2, 0], [1, 0, 2, 0], List.replicate 128 0] ∧
      readGen f (f.opReq (cop .copy fd0 .started)) 0x100400 128 = (f, .ok (List.replicate 128 0)) := by decide +kernel


/-- MERGE.TOF of an entry at 0x40 with none, into FIFO 2 with all but `n` places taken, with `made` pushed. -/
def mt0 : BitVec 512 := fields [(0, 0x100040), (64, 0x100040), (320, 2), (384, 1), (448, 0x1000C0)]
def mop (made : Nat) : EngOp := { cop (.merge 0 false false true) mt0 .started with made := made, fifo := 2, apTile := ((strandS {}).ctx u0).apTile }
def mtS (n made : Nat) : State := { irrS mt0 [(5, mop made)] with regions := [(0, { region0 with fifos := [(2, { entries := List.replicate (64 - n) {} })] })] }
theorem test_tof_room : after (.mergeComplete 0 0) (mtS 1 0) (fun t => t.getTok u0 5 == ⟨.done, 0⟩ && (agentFifo t u0 2).entries.length == 64 &&
    (agentFifo t u0 2).entries[63]? == some { w := 0x2000100020001, sb := 0x7F }) = true := by decide +kernel
theorem test_tof_full : after (.mergeComplete 0 0) (mtS 0 0) (fun t => (t.getTok u0 5).st == .busy && (t.op u0 5).map (·.made) == some 0) = true := by decide +kernel
/-- What MERGE reads and gives. -/
def mergesTo (s : State) (o : EngOp) (comb : Nat) (p : List (Nat × Nat) × Bool → Bool) : Bool :=
  match mergeInputs s (s.opReq o) o.desc comb false false with
  | (_, .ok r) => p r
  | _ => false
theorem witness_merge_fifo :
    engineOp (mtS 1 0) 0 0 0 = some (mop 0) ∧ opRuns (mtS 1 0) (mop 0) = true ∧ mergesTo (mtS 1 0) (mop 0) 0 (fun r => r == ([(0x20001, 0x20001)], false)) = true ∧
      (agentFifo (mtS 1 0) u0 2).room = 1 ∧ (agentFifo (mtS 0 0) u0 2).room = 0 ∧ ownRegion (mtS 1 0) u0 ≠ none ∧ AtIssue (mtS 1 0) u0 (mop 0) ∧
      InTile (mtS 1 0) u0 0x1000C0 8 := by
  unfold InTile AtIssue; decide +kernel
/-- An index list beyond the windows: what it reads before the fault decides (R122). -/
theorem witness_merge_fault :
    let o := cop (.merge 0 false false false) (fields [(0, 0x100040), (64, 0xF00040), (256, 0x100080), (320, 0x1000A0), (384, 1), (448, 0x1000C0)]) .started
    let s := irrS 0 [(5, o)]
    (match readAll (s.opReq o) s (mergeReads o.desc) with
    | (_, .fault _) => true
    | _ => false) = true := by decide +kernel
/-- ROUTE with an expert that is not there, at the bound. -/
theorem witness_route_expert :
    let o := cop .route (rd0 - BitVec.ofNat 512 (2 ^ 416)) .started
    let s := irrS o.desc [(5, o)]
    engineOp s 0 0 1 = some o ∧ readAll (s.opReq o) s [(0x100040, 4)] = (s, .ok [[1, 0, 2, 0]]) ∧ 2 ∈ elemsOf 2 [1, 0, 2, 0] ∧ descBits o.desc 431 416 = 2 ∧
      s.op o.agent o.tok.toNat = some o := by decide +kernel
/-- HACC whose keys lie beyond the slices of its task: HASHST names the token and where it stopped (R127). -/
def hbad : EngOp := cop (.hacc 0 false) (fields [(0, 0x100400), (64, 0x28000000), (128, 0x100040), (256, 1), (320, 4)]) .started
theorem test_hacc_fault : after (.haccComplete 0 0) (irrS hbad.desc [(5, hbad)]) (fun t => t.getTok u0 5 == ⟨.error, 1⟩ && (t.ctx u0).hashst == 5 * 2 ^ 32) = true := by
  decide +kernel
theorem witness_hacc_fault :
    engineOp (irrS hbad.desc [(5, hbad)]) 0 0 2 = some hbad ∧
    (match readAll ((irrS hbad.desc [(5, hbad)]).opReq hbad) (irrS hbad.desc [(5, hbad)]) [(0x28000000, 4), (0x100040, 4), (0x100400, 128)] with
    | (_, .fault f) => fstatus f.cls f.detail == .fatal
    | _ => false) = true := by decide +kernel
theorem witness_hacc_ends :
    (haccApply 0 false 4 (List.replicate 16 (0, 0)) 0 [(0, 5)]).2 = .rkey 0 ∧
    (haccApply 0 false 4 tbl12 0 (sortKeys [(70, 5), (40, 6), (20, 7), (90, 8), (55, 9)])).2 = .full 3 ∧
    (haccApply 0 false 4 tbl12 0 []).2 = .done ∧ 4096 < descBits (fields [(256, 4097)]) 287 256 := by decide +kernel
/-! ## Element operations -/

/-- A row word of an operation: SPLIT, DST, ACC, SAT and RND from bit 68, CONST and EXT. -/
def rowW (op split dst acc mode ext : Nat) : RowWord := BitVec.ofNat 128 (op * 2 ^ 121 + split * 2 ^ 119 + dst * 2 ^ 84 + mode * 2 ^ 68 + acc * 2 ^ 64 + ext)
/-- What an element sees of it, with two sources. -/
def elemI (w : RowWord) (a b : Val) : ElemIn :=
  { w := w, shape := 0x7B22221400000000, j := 0, a := a, b := b, c := {}, e := {}, lastscl := fun _ => 0x7F, sclc := fun _ => 0x7E }
/-- The value, the side-band and the flags of the one result. -/
def result1 (x : ElemIn) : Option (Nat × Nat × Nat) :=
  match (elemExec x).out with
  | ⟨_, .write _ _ _ v⟩ :: _ => some (v.w.toNat, v.sb.toNat, (elemExec x).flg.toNat)
  | _ => none

/-- Table: E2M1 rounding (R61): m · 2^e to nearest, to even and towards zero, with the flags of each. -/
def e2m1Codes (s : Bool) (m : Nat) (e : Int) : List (Nat × Nat) :=
  [0, 1, 2].map (fun r => let o := roundNarrow (.fin s m e) e2m1 (BitVec.ofNat 2 r) false 1; (o.code, o.flg.toNat))
theorem test_e2m1_rounding :
    e2m1Codes false 1 (-2) = [(1, 2), (0, 2), (0, 2)] ∧ e2m1Codes false 3 (-2) = [(2, 0), (2, 0), (1, 2)] ∧ e2m1Codes false 5 (-2) = [(3, 0), (2, 0), (2, 0)] ∧
      e2m1Codes false 5 (-1) = [(5, 0), (4, 0), (4, 0)] ∧ e2m1Codes true 5 (-1) = [(13, 0), (12, 0), (12, 0)] ∧ e2m1Codes false 7 (-1) = [(6, 0), (6, 0), (5, 0)] ∧
      e2m1Codes false 5 0 = [(7, 0), (6, 0), (6, 0)] ∧ e2m1Codes false 6 0 = [(7, 0), (7, 0), (7, 0)] ∧ e2m1Codes false 7 0 = [(7, 1), (7, 1), (7, 1)] := by decide +kernel
/-- Table: Escape example (R60). -/
theorem test_escapes :
    k4xScan ([3, 9, 8, 5, 8, 15] ++ List.replicate 12 0 ++ [8, 2]) = [.int 3, .int 9, .esc 0x58, .gone, .gone, .int 15] ++ List.replicate 12 (.int 0) ++ [.bad, .int 2] := by
  decide +kernel
/-- NumberFormats: 2.5 lies from 2 (code 4) up to 3 (code 5) of E2M1, whose greatest code is 7. -/
theorem witness_number_formats :
    e2m1 ∈ formats ∧ maxCode e2m1 = 7 ∧ magOf e2m1 4 ≤ (5 : Rat) * (2 : Rat) ^ (-1 : Int) ∧ (5 : Rat) * (2 : Rat) ^ (-1 : Int) < magOf e2m1 5 ∧
      (5 : Rat) * (2 : Rat) ^ (-1 : Int) ≤ magOf e2m1 7 ∧ magOf e2m1 7 < (7 : Rat) * (2 : Rat) ^ (0 : Int) := by decide +kernel

/-- R195, R203, R230: MOV with its side-band, ACCR, TRAPIF on a NaN, and CSWAP, whose DST takes the lesser key. -/
theorem test_element_moves :
    result1 (elemI (rowW 0x01 0 3 0 0 0) ⟨0x1234, 0x55⟩ {}) = some (0x1234, 0x55, 0) ∧
      result1 { elemI (rowW 0x15 0 3 4 0 0) {} {} with e := { acc := [(0, 7), (1, 9)] } } = some (7 + 9 * 2 ^ 32, 0x7F, 0) ∧
      (elemExec (elemI (rowW 0x6B 0 0 2 0 0x31) ⟨0x7FC0000000000000, 0x7F⟩ {})).trap = some 0x31 ∧
      result1 (elemI (rowW 0x60 0 3 0 0 4) ⟨5, 0x7F⟩ ⟨0xFFFFFFFF, 0x7F⟩) = some (0xFFFFFFFF, 0x7F, 0) := by decide +kernel
theorem witness_element_moves :
    rOp (rowW 0x6B 0 0 3 0 0) = 0x6B ∧ rAcc (rowW 0x6B 0 0 3 0 0) ≤ 3 ∧ rOp (rowW 0x61 0 3 0 0 0x84) = 0x61 ∧ xbits (rowW 0x61 0 3 0 0 0x84) 7 6 ≠ 3 ∧ rOp (rowW 0x03 0 0 0 0 2) = 0x03 := by
  decide +kernel

/-- R190, R206: IADD of 100 and 100 in an 8-bit lane under each SAT (0 wraps, 2 clamps and sets ISAT), SAR by the width, and BFX with SX. -/
theorem test_element_integers :
    result1 (elemI (rowW 0x20 2 3 0 0 0) ⟨100, 0⟩ ⟨100, 0⟩) = some (0xC8, 0x7F, 0) ∧ result1 (elemI (rowW 0x20 2 3 0 1 0) ⟨100, 0⟩ ⟨100, 0⟩) = some (0x7F, 0x7F, 0) ∧
      result1 (elemI (rowW 0x20 2 3 0 2 0) ⟨100, 0⟩ ⟨100, 0⟩) = some (0x7F, 0x7F, 8) ∧ (elemExec (elemI (rowW 0x20 2 3 0 3 0) ⟨100, 0⟩ ⟨100, 0⟩)).ovfl = true ∧
      result1 (elemI (rowW 0x2E 2 3 0 0 0) ⟨0x80, 0⟩ ⟨8, 0⟩) = some (0xFF, 0x7F, 0) ∧ result1 (elemI (rowW 0x34 2 3 0 0 (4 + 4 * 2 ^ 5 + 2 ^ 11)) ⟨0xA5, 0⟩ {}) = some (0xFA, 0x7F, 0) := by
  decide +kernel
/-- R201: MACW of −128 by −128 in HALF 1 of 10 × 8, onto a lane of 16. -/
theorem test_widening : result1 (elemI (rowW 0x14 2 3 0 0 1) ⟨0x80 * 2 ^ 40, 0⟩ ⟨0x80 * 2 ^ 40, 0⟩) = some (0x4000, 0x7F, 0) := by decide +kernel
theorem witness_element_integers :
    rOp (rowW 0x34 2 3 0 0 (4 + 4 * 2 ^ 5)) = 0x34 ∧ xbits (rowW 0x34 2 3 0 0 (4 + 4 * 2 ^ 5)) 4 0 + xbits (rowW 0x34 2 3 0 0 (4 + 4 * 2 ^ 5)) 10 5 ≤ 8 := by decide +kernel
theorem witness_int_out : IntOutIs 200 8 false 2 ⟨0x7F, true, false⟩ ∧ IntOutIs 127 8 false 3 ⟨0x7F, false, false⟩ ∧ IntOutIs 128 8 false 3 ⟨0, false, true⟩ := by
  simp [IntOutIs, rangeLo, rangeHi]

/-- R212, R213, R216: 2^24 + 1 under RNE, −0 below +0, FRND of −2.5 to even, RSQS of 2.0 (the spec's 0x3F350000) and RCPS of −0. -/
theorem test_element_floats :
    result1 (elemI (rowW 0x40 0 3 0 0x10 0) ⟨0x4B800000, 0⟩ ⟨0x3F800000, 0⟩) = some (0x4B800000, 0x7F, 0) ∧
      result1 (elemI (rowW 0x45 0 3 0 0 0) ⟨0, 0⟩ ⟨0x80000000, 0⟩) = some (0x80000000, 0x7F, 0) ∧ result1 (elemI (rowW 0x4E 0 3 0 0x10 0) ⟨0xC0200000, 0⟩ {}) = some (0xC0000000, 0x7F, 0) ∧
      result1 (elemI (rowW 0x4A 0 3 0 0 0) ⟨0x4000000040000000, 0⟩ {}) = some (0x3F3500003F350000, 0x7F, 0) ∧
      result1 (elemI (rowW 0x4B 0 3 0 0 0) ⟨0x4000000080000000, 0⟩ {}) = some (0x3F000000FF800000, 0x7F, 0) := by decide +kernel
/-- ElementFloats: an exact sum of a sum and a product, and 2896 · 2^−12 within half a digit of the root of 1/2. -/
theorem witness_element_floats :
    ratOf (laneVal ⟨0x40000000, 0⟩ false 0) = some 2 ∧ sumOf [.fin false 1 24, .fin false 1 0] = 16777217 ∧ ratOf (.fin false 16777217 0) = some 16777217 ∧
      ((2 : Rat) * 2896 - 1) ^ 2 * (2 : Rat) ^ (-26 : Int) * 2 ≤ 1 ∧ (1 : Rat) ≤ (2 * 2896 + 1) ^ 2 * (2 : Rat) ^ (-26 : Int) * 2 ∧ 2 ^ 11 ≤ (2896 : Nat) ∧ (2896 : Nat) ≤ 2 ^ 12 ∧
      rOp (rowW 0x4A 0 3 0 0 0) = 0x4A := by decide +kernel
theorem witness_products : ProductIs (.inf false) (.fin true 1 0) (.inf true) ∧ ProductIs (.inf false) (.fin true 0 0) (.nan false) := by
  refine ⟨⟨by decide +kernel, by decide +kernel, ?_⟩, by decide +kernel, ?_, ?_⟩
  · intro q _ h; simp [ratOf] at h
  · intro _ _ _ _ h; exact absurd (by decide +kernel) h
  · intro q _ h; simp [ratOf] at h

/-- R225's example: K4XE of codes 0x44, 0xDA, 0x38, 0x40, 0x30, 0x4E and, at 18 and 19, 0x6C and 0xC2; and K4XD of the word that it makes. -/
theorem test_k4xe :
    result1 (elemI (rowW 0x59 0 32 0 0 0) ⟨0x4E304038DA44, 0x7F⟩ ⟨0xC26C0000000000000000, 0x7F⟩) = some (0xD700000000000071AD83, 0x7F, 1) ∧
      result1 (elemI (rowW 0x5A 0 32 0 0 0) ⟨0xD700000000000071AD83, 0x7F⟩ {}) = some (0x4E380000DA44, 0x7F, 0) := by decide +kernel
/-- R220's example: 300.0 under scale 0x7E into E4M3 saturates to 448 (0x7E); a NaN beside it gives zeros with side-band 0xFF. -/
theorem test_qnt :
    result1 (elemI (rowW 0x53 0 2 0 0 (0x7E * 2 ^ 32 + 2 * 2 ^ 22 + 0xB)) ⟨0x43960000, 0x7F⟩ {}) = some (0x7E, 0x7E, 1) ∧
      result1 (elemI (rowW 0x53 0 2 0 0 (0x7E * 2 ^ 32 + 2 * 2 ^ 22 + 0xB)) ⟨0x7FC0000043960000, 0x7F⟩ {}) = some (0, 0xFF, 0) := by decide +kernel
theorem witness_element_conversions :
    laneFmt 0x10 = some fp32 ∧ laneFmt 0xB = some e4m3 ∧ 3 + min (laneSlots 0x10) (laneSlots 0xB) ≤ laneSlots 0xB ∧ taggedFmt 0xB = some e4m3 ∧
      xbits (rowW 0x53 0 2 0 0 (0x7E * 2 ^ 32 + 2 * 2 ^ 22 + 0xB)) 23 22 ≠ 3 ∧ (wordVals 0xB false 0).1.length = 10 ∧ ratOf (.fin false 8 0) = some 8 := by decide +kernel

/-- R184's example: 2^24 and the two products of 0.75, summed before the one rounding. -/
theorem test_dot :
    let x : ElemIn := { elemI (rowW 0x10 0 38 0 0 0) ⟨0x3434, 0x7F⟩ {} with shape := 0xBB22221400000000, e := { acc := [(0, 0x4B800000)], anchor := [(0, 0x3838)] } }
    fwU x.shape = 10 ∧ fwNout x.shape = 2 ∧ ((elemExec x).out.take 1).map (fun f => match f.eff with
      | .accFloat k _ v _ => (k, (land x.e 0 (.accFloat k false v false)).1.getAcc 0, ratOf v)
      | _ => (9, 0, none)) = [(0, 0x4B800001, some (3 / 2))] := by decide +kernel
/-- R176's example: −5 by 6 as I4. -/
theorem test_dot_int :
    let x : ElemIn := { elemI (rowW 0x11 0 38 0 0 0) ⟨0xB, 0x7F⟩ ⟨6, 0x7F⟩ with shape := 0x2222C40000000000 }
    (elemExec x).out.map (fun f => match f.eff with
      | .accInt k _ s l _ => (k, s, l)
      | _ => (9, 0, 0)) = [(0, -30, 32)] := by decide +kernel
theorem witness_dots :
    let x : ElemIn := { elemI (rowW 0x10 0 38 0 0 0) ⟨0x3434, 0x7F⟩ {} with shape := 0xBB22221400000000 }
    isDot x.w = true ∧ xbits x.w 5 0 + fwU x.shape ≤ (wordVals (fwA x.shape) false x.a.w).1.length ∧ (wordVals (fwB x.shape) false (x.e.anchorVal 0).w).1 ≠ [] ∧
      rOp (rowW 0x17 0 0 4 0 1) = 0x17 := by decide +kernel
/-! ## Blocks and the fabric -/

/-- A block of two innermost iterations that lists argument 5, its mapping with empty rows, the slot that holds them. -/
def blkA : Block := { loops := [⟨false, 0, 2⟩], args := [(5, 0)], shapes := [0x3131C21A00000000] }
def imgA : MapImage := ⟨1, false, 0, []⟩
def insA : Install := ⟨blkA, imgA, 0x100000⟩
/-- A region of one quad with the block in slots 1 and 2, and a strand whose region it is. -/
def regA : Region := { quads := [(0, 0)], qrows := 1, qcols := 1, slots := [(1, insA), (2, insA)] }
def regS (x : Region) (c : Ctx := {}) : State := { strandS c with regions := [(0, x)] }
/-- A stage of the block, and its run on token 3. -/
def stgA : Stage := { slot := 1, inst := insA, ii := 1, stg := 1 }
def runA : Run := { tok := 3, scope := 0, shared := false, stages := [stgA], apTile := 0x100001, apClus := 0, apDie := 0x20000001 }
def runB : Run := { runA with started := true, stages := [{ stgA with trips := [2] }] }
def busy3 : Ctx := { tok := [(3, ⟨.busy, 0⟩)] }
/-- What holds of the region of a state. -/
def ofRegion (t : State) (p : Region → Bool) : Bool := (t.region r0).elim false p

/-- A record of one node at 0x100000 (R231): MAGIC, version 1, one node at 64, one loop level of two trips at 128, SIZE 192. -/
def recH : Nat := 0x4B424C31 * 2 ^ 64 + 2 ^ 96 + 2 ^ 112 + 2 ^ 148 + 64 * 2 ^ 256 + 128 * 2 ^ 320 + 192 * 2 ^ 448 + 7
/-- The same with IMG and one image entry of logical tile 0 at 64 that names no quad and no word (the CRC-32C of nothing is 0). -/
def recI : Nat := recH + 2 ^ 172
def entI : Nat := 4 * 2 ^ 32
/-- A region of no quad. -/
def regZ : Region := { regA with quads := [] }
def recSB (h e : Nat) (x : Region) : State :=
  { regS x { s := [(1, 0x100000), (2, 0x100008)] } with
    mem := mwrite (mwrite (mwrite [] (2 ^ 56) (leBytes 64 h)) (2 ^ 56 + 64) (leBytes 32 e)) (2 ^ 56 + 128) (leBytes 8 2) }
/-- The node's producers are absent. -/
def nodeN : Nat := 0xFFFFFFFFFFFF * 2 ^ 128
def slot0 (k : Nat) (t : State) : Bool := ofRegion t (fun z => (tfind z.slots k).isSome)

theorem test_bload_mapper : after (.bload g0 0 1 0) (recSB recH nodeN regA) (fun t => (t.ctx u0).stall == .mapper && ofRegion t (fun z => z.mapping.isSome)) = true := by
  decide +kernel
theorem test_bload_magic : after (.bload g0 0 1 0) (recSB (recH + 2 ^ 64) nodeN regA) (fun t => (t.ctx u0).fault.map (fun f => (f.detail, f.info1)) == some (0x17, 64)) = true := by
  decide +kernel
theorem test_bload_image : after (.bload g0 0 1 0) (recSB recI entI regZ) (fun t => slot0 0 t && (t.ctx u0).pc == 8) = true := by decide +kernel
theorem test_bload_crc : after (.bload g0 0 1 0) (recSB recI (entI + 2 ^ 96) regZ) (fun t => faultOf t u0 == some (0x0D, 4)) = true := by decide +kernel
/-- BlockLoads: the clauses' hypotheses. -/
theorem witness_bload_head :
    (recSB recH nodeN regA).region r0 = some regA ∧ ((recSB recH nodeN regA).getS u0 2 + 0).toNat % 64 ≠ 0 ∧ slotHeld regA 0 = false ∧ regA.lent = none ∧
      slotHeld { regA with run := some runB } 1 = true ∧ ({ strandS {} with regions := [] } : State).region r0 = none := by decide +kernel
/-- What a record gives. -/
def recordIs (s : State) (p : State → Nat → Block → Bool) : Bool :=
  match readRecord s (s.req u0) 0x100000 with
  | (s1, .ok (.ok (h, b))) => p s1 h b
  | _ => false
theorem witness_bload_bad :
    (match readRecord (recSB 0 0 regA) ((recSB 0 0 regA).req u0) 0x100000 with
    | (_, .ok (.error _)) => true
    | _ => false) = true ∧
    (match readRecord (recSB 0 0 regA) ((recSB 0 0 regA).req u0) 0x200000 with
    | (_, .fault _) => true
    | _ => false) = true := by decide +kernel
theorem witness_bload_miss :
    recordIs (recSB recH nodeN regA) (fun s h b => !b.img && (match lookUp s r0 (s.req u0) 0 0x100000 h b regA with
      | (_, .ok (.ok (_, none))) => true
      | _ => false)) = true := by decide +kernel
theorem witness_bload_hit :
    let s : State := { recSB recH nodeN regA with dies := [(0, { cache := [⟨7, 1, 1, [], 0, imgA, []⟩] })] }
    recordIs s (fun s h b => !b.img && (match lookUp s r0 (s.req u0) 0 0x100000 h b regA with
      | (_, .ok (.ok (s3, some i))) => i == imgA && (s3.region r0).isSome
      | _ => false)) = true := by decide +kernel
theorem witness_bload_image :
    recordIs (recSB recI entI regZ) (fun s h b => b.img && (match loadImage s r0 (s.req u0) 0 0x100000 h b regZ with
      | (_, .ok (.ok _)) => true
      | _ => false)) = true := by decide +kernel

theorem test_brun : after (.brun g0 0 3 1) (regS regA) (fun t => (t.getTok u0 3).st == .busy && ofRegion t (fun z => z.run.isSome && z.pend.isNone) && (t.ctx u0).pc == 8) = true := by
  decide +kernel
theorem test_brun_second : after (.brun g0 0 4 1) (regS { regA with run := some runB } busy3) (fun t => ofRegion t (fun z => z.pend.isSome && z.run == some runB)) = true := by
  decide +kernel
theorem test_brun_empty : after (.brun g0 0 3 0) (regS regA) (fun t => faultOf t u0 == some (1, 0x38)) = true := by decide +kernel
theorem test_bswap : after (.bswap g0 0 3 6) (regS regA) (fun t => ofRegion t (fun z => (z.run.map (fun w => w.stages.map (·.slot))) == some [1, 2])) = true := by decide +kernel
theorem test_bswap_one_run : after (.bswap g0 0 3 2) (regS regA) (fun t => faultOf t u0 == some (1, 3)) = true := by decide +kernel
/-- BlockRuns: a run that is issued, one that waits, and the traps. -/
def longI : Install := { insA with image := { imgA with ii := 17 } }
def gearI (k : Nat) : Install := { insA with block := { blkA with greq := k } }
theorem witness_brun :
    [(1 : Nat)].mapM (fun m => tfind regA.slots m) = some [insA] ∧ [1, 2].mapM (fun m => tfind regA.slots m) = some [insA, insA] ∧
      (List.range 4).filter (fun i => (6#4).getLsbD i) = [1, 2] ∧ tfind regA.slots 0 = none ∧ ((regS regA).getTok u0 3).st = .idle ∧
      ((regS regA busy3).getTok u0 3).st = .busy ∧ ((regS regA { tok := [(3, ⟨.error, 1⟩)] }).getTok u0 3).st = .error ∧
      reportPending (regS regA) u0 3 = false ∧ regA.lent = none ∧ 32 < [longI.image.ii, longI.image.ii].foldl (· + ·) 0 ∧
      (gearI 1).block.greq = 1 ∧ ((regS regA).tile 0 0).gear = false ∧ (gearI 2).block.greq = 2 ∧ ({ tget (regS regA).tiles 0 {} with gear := true } : Tile).gear = true := by
  decide +kernel
theorem witness_brun_clean :
    runIssueFault (noteIssue (regS regA) u0) r0 ((noteIssue (regS regA) u0).req u0) regA
      { runA with stages := [newStage ((regS regA).ctx u0) regA 1 insA] } = none ∧
    runIssueFault (noteIssue (regS regA) u0) r0 ((noteIssue (regS regA) u0).req u0) regA
      { runA with shared := true, stages := [newStage ((regS regA).ctx u0) regA 1 insA, newStage ((regS regA).ctx u0) regA 2 insA] } = none := by decide +kernel

theorem test_barg_pending : after (.barg g0 5 1) (regS { regA with run := some runB } { s := [(1, 0x1234567890)] })
    (fun t => ofRegion t (fun z => z.argPend == some (5, 0x34567890, false) && tget z.args 5 0 == 0x34567890)) = true := by decide +kernel
theorem test_bstat_run : after (.bstat g0 4 0) (regS { regA with run := some runB }) (fun t => (t.getS u0 4).toNat / 2 ^ 60 == 5) = true := by decide +kernel
theorem test_bkill : after (.bkill g0) (regS { regA with run := some runB } busy3) (fun t => t.getTok u0 3 == ⟨.error, 0x20⟩ && ofRegion t (fun z => z.run.isNone)) = true := by
  decide +kernel
theorem test_bdrain : after (.bdrain g0) (regS { regA with run := some runB }) (fun t => ofRegion t (fun z => (z.run.map (·.draining)) == some true)) = true := by decide +kernel
/-- BlockControl: the clauses' hypotheses. -/
theorem witness_control : (regS { regA with run := some runB }).region r0 = some { regA with run := some runB } ∧ regA.argPend = none ∧
    ({ regA with argPend := some (5, 1, false) } : Region).argPend ≠ none ∧ runB.cur = some { stgA with trips := [2] } ∧ (1 ≤ stgA.ii ∧ stgA.ii ≤ 32) ∧
    stgA.wpcnt < 2 ^ 16 ∧ regA.run = none ∧ (2#2 ≠ 3) := by decide +kernel

theorem test_reform_alone : after (.reform g0 3 0) (regS regA) (fun t => ofRegion t (fun z => z.quads == [(0, 0), (0, 1)] && z.qcols == 2) && (t.ctx u0).pc == 8) = true := by
  decide +kernel
/-- The strand of slot 1 runs in the same task, so slot 0 waits for it. -/
def twoS : State := { regS regA with ctxs := [(0, { run := .running, task := some 0 }), (1, { run := .running, task := some 0 })] }
theorem test_reform_waits : after (.reform g0 3 0) twoS (fun t => (t.ctx u0).stall == .reform 3 0 1) = true := by decide +kernel
/-- RegionReform. -/
theorem witness_reform :
    liveStrands twoS (some 0) 0 0 = [0, 1] ∧ insideReform (twoS.ctx (.strand 0 0 1)) = false ∧ liveStrands (regS regA) (some 0) 0 0 = [0] ∧
      (regS regA).halted u0 = false ∧ quadRect (layoutQuads 3 0 0) = some (1, 2) ∧ ∀ k < 4, k ≠ 0 → layoutQuads 3 0 k = [] := by decide +kernel
theorem witness_reform_free :
    (∀ e ∈ (regS regA).regions, e.1 / 576 = 0 → (∃ q ∈ e.2.quads, q.1 = 0) → ∀ q ∈ e.2.quads, q.1 = 0) ∧
      ∀ k < 4, ((regS regA).region ⟨0, 0, k⟩).all (fun x => !regionBusy x && fifosFree x && !keepsRegion x 0 (layoutQuads 3 0 k)) = true := by decide +kernel

/-- A run that is due; one that has started. -/
def dueS : State := regS { regA with run := some runA } busy3
def moveS : State := regS { regA with run := some runB } busy3
theorem test_run_start : after (.runStart r0) dueS (fun t => ofRegion t (fun z => (tfind z.shadows 0).isSome && (z.run.map (fun w => w.started && w.stages.map (·.trips) == [[2]])) == some true)) = true := by
  decide +kernel
/-- RunSteps: a run that is due. -/
theorem witness_run_start :
    dueS.region r0 = some { regA with run := some runA } ∧ runA.started = false ∧ runMoves dueS r0 runA = true ∧ runFifos runA 0 = [] ∧ runFifos runA 3 = [] ∧
      portsTaken dueS r0 { regA with run := some runA } runA = false ∧
      (match preloadStages (runReq dueS r0 runA) r0 regA dueS (runA.stages.map (startStage regA false)) with
      | (s2, .ok ()) => (match firstAnchors (runReq dueS r0 runA) r0 regA s2 (runA.stages.map (startStage regA false)) with
        | (_, .ok ()) => true
        | _ => false)
      | _ => false) = true := by decide +kernel

/-- A decode binding of 2 elements over one line at 0x100000, and the port of row 0 before its first line. -/
def bindD : Binding := { role := 1, fifo := 0, regB := 1, regG := 2, tlvl := 0, shp := 0, lwb := 0, edge := 2 * 2 ^ 40 + 2 ^ 28 }
def viewD : Word × Word := (0x100000, 0x800080001)
def stgD : Stage := { stgA with inst := { insA with block := { blkA with binds := [bindD] } }, trips := [2], views := [viewD] }
def runD : Run := { runB with stages := [stgD] }
/-- A line's words but the last, which an earlier step has read (log entry 113). -/
def earlyD (line : List Byte) : Tab (List Byte) := (List.range 7).map (fun k => (k, ((line ++ List.replicate 64 0).drop (8 * k)).take 8))
def portD (ws : List ReadyWord) (line : List Byte) : State :=
  { regS { regA with run := some runD, dec := [(0, { bind := 0, words := ws, early := earlyD line })] } busy3 with mem := mwrite [] (2 ^ 56) line }
def wordD : ReadyWord := ⟨⟨{}, false, 0, 0, 1⟩, {}, 0⟩
/-- A line of zeros is VOID, FMT detail 0x01 (R143); the words of an earlier line come first (R144). -/
theorem test_decode_void : after (.decodeLineRead r0 0) (portD [] []) (fun t => ofRegion t (fun z => (z.run.map (fun w => w.fault.map (fun f => (f.cls, f.detail)))) == some (some (7, 1)))) = true := by
  decide +kernel
/-- The words of the line before wait to be consumed: its fault is met then. -/
theorem test_decode_void_waits : after (.decodeLineRead r0 0) (portD [wordD] []) (fun t => t == portD [wordD] []) = true := by decide +kernel
/-- A line of the declared format gives a group's two words, of which the second lies beyond the row's two elements' group. -/
theorem test_decode_line : after (.decodeLineRead r0 0) (portD [] [BitVec.ofNat 8 (fwA 0x3131C21A00000000)]) (fun t => ofRegion t (fun z => (z.dec.map (fun e => e.2.words.length)) == [2])) = true := by
  decide +kernel
theorem witness_decode :
    (portStage (portD [] []) r0 0).isSome = true ∧ stgD.bind 0 = some (bindD, viewD) ∧ stgD.j < stgD.total ∧ (0 < stgD.steps bindD.tlvl) ∧ 0 < eLines bindD.edge ∧
      (match readPart (portD [] []) (runReq (portD [] []) r0 runD) [] viewD 0 { bind := 0, early := earlyD [] } with
      | (_, .ok (_, some bs)) => (match portLine (fwA 0x3131C21A00000000) bindD.edge {} bs with
        | .error _ => true
        | _ => false)
      | _ => false) = true ∧
      (match readPart (portD [] [BitVec.ofNat 8 (fwA 0x3131C21A00000000)]) (runReq (portD [] []) r0 runD) [] viewD 0 { bind := 0, early := earlyD [BitVec.ofNat 8 (fwA 0x3131C21A00000000)] } with
      | (_, .ok (_, some bs)) => (match portLine (fwA 0x3131C21A00000000) bindD.edge {} bs with
        | .ok _ => true
        | _ => false)
      | _ => false) = true := by decide +kernel

/-- An encode port of column 0 with a line of 64 bytes to write; an anchor binding. -/
def bindE : Binding := { bindD with role := 4 }
def stgE : Stage := { stgA with inst := { insA with block := { blkA with binds := [bindE] } }, trips := [2], views := [viewD] }
def encP : EncPort := { bind := 0, lines := [⟨0, 0, List.replicate 64 9⟩] }
def encS : State := regS { regA with run := some { runB with stages := [stgE] }, enc := [(0, encP)] } busy3
theorem test_encode_write : after (.encodeLineWrite r0 0) encS (fun t => mget t.mem (2 ^ 56 + 63) == 9 && mget t.mem (2 ^ 56 + 64) == 0 && ofRegion t (fun z => z.enc.all (fun e => e.2.lines.isEmpty))) = true := by
  decide +kernel
theorem witness_encode :
    (portStage encS r0 0).isSome = true ∧ stgE.bind 0 = some (bindE, viewD) ∧
      (match writeView encS (runReq encS r0 runB) [] viewD 0 0 0 (bankWords (List.replicate 64 9)) with
      | (_, .ok _) => true
      | _ => false) = true := by decide +kernel
/-- An anchor binding whose second tile step's load is pending in iteration 1, tried once already. -/
def bindN : Binding := { bindD with role := 2, edge := 0 }
def viewN : Word × Word := (0x100000, 0x800080000)
def stgN : Stage := { stgA with inst := { insA with block := { blkA with binds := [bindN] } }, trips := [2], views := [viewN], j := 1, anchors := [(0, 1)] }
def anchS : State := regS { regA with run := some { runB with stages := [stgN] }, heldNow := true } busy3
def anchMem : State := { anchS with mem := mwrite [] (2 ^ 56) (((List.range 16).flatMap (fun _ => BitVec.ofNat 8 (fwB 0x3131C21A00000000) :: List.replicate 63 0))) }
theorem test_anchor_void : after (.anchorLoad r0) anchS (fun t => ofRegion t (fun z => (z.run.map (fun w => w.fault.map (fun f => (f.cls, f.detail)))) == some (some (7, 1)))) = true := by
  decide +kernel

theorem test_anchor_load : after (.anchorLoad r0) anchMem (fun t => ofRegion t (fun z => (z.run.map (fun w => w.stages.map (fun y => tget y.anchors 0 0))) == some [2])) = true := by
  decide +kernel
theorem witness_anchor :
    (match loadAnchors (runReq anchMem r0 runB) [] r0 regA stgN bindN viewN 1 anchMem regA.coords with
      | (_, .ok ()) => true
      | _ => false) = true ∧ (nextAnchor stgN).map (fun e => (e.1, e.2.2)) = some (0, 1) ∧ stepUntried { regA with heldNow := true } stgN 0 1 = false := by decide +kernel

/-- A run with nothing left, one with the next behind it. -/
def overS : State := regS { regA with run := some { runB with stages := [{ stgA with trips := [2], j := 2 }] }, pend := some runA } busy3
theorem test_run_complete : after (.blockRunComplete r0) overS (fun t => (t.getTok u0 3).st == .done && ofRegion t (fun z => z.run == some runA && z.pend.isNone)) = true := by
  decide +kernel
theorem witness_run_complete :
    overS.region r0 = some { regA with run := some { runB with stages := [{ stgA with trips := [2], j := 2 }] }, pend := some runA } ∧
      runMoves overS r0 { runB with stages := [{ stgA with trips := [2], j := 2 }] } = true ∧
      runOver overS r0 { regA with run := some { runB with stages := [{ stgA with trips := [2], j := 2 }] }, pend := some runA } { runB with stages := [{ stgA with trips := [2], j := 2 }] } = true ∧
      ∀ k < 4, namedLayout (overS.ctx (.strand 0 0 k)) = none := by decide +kernel

/-! ### Cycles -/

/-- What holds of a coming cycle. -/
def sees (s : State) (p : Sight → Bool) : Bool := (cycleSight s r0).elim false p
theorem test_cycle_empty : after (.emptyCycle r0) (regS { regA with run := some runB, duty := 2 } busy3) (fun t => ofRegion t (fun z => z.dutyIdx == 1 && z.run == some runB)) = true := by
  decide +kernel
theorem test_cycle_advance : after (.advancingCycle r0) moveS (fun t => ofRegion t (fun z => (z.run.map (fun w => w.stages.map (fun y => (y.c, y.j)))) == some [(0, 1)])) = true := by
  decide +kernel
/-- Argument 5 is pending and a row of element (0, 0) holds for it (HOLD 0111, R163). -/
def holdA : PlacedWord := ⟨0, 0, 0, 0, some 0, BitVec.ofNat 128 (63 * 2 ^ 84 + 7 * 2 ^ 74)⟩
def holdS : State :=
  regS { regA with run := some { runB with stages := [{ stgA with trips := [2], inst := { insA with image := { imgA with words := [holdA] } } }] }, argPend := some (5, 9, false) } busy3
theorem test_cycle_held : after (.heldCycle r0) holdS (fun t => ofRegion t (fun z => z.heldNow && z.dutyIdx == 1)) = true := by decide +kernel
theorem test_cycle_held_still : after (.advancingCycle r0) holdS (fun t => t == holdS) = true := by decide +kernel
theorem test_argument : after (.argumentUpdateDelivered r0) holdS (fun t => ofRegion t (fun z => z.argPend == some (5, 9, true))) = true := by decide +kernel
/-- A bound FIFO all of whose entries are retained (R243). -/
def pinS : State :=
  regS { regA with run := some { runB with stages := [{ stgA with trips := [2], inst := { insA with block := { blkA with binds := [{ bindD with role := 0 }] } } }] }
                   fifos := [(0, { entries := List.replicate 64 {}, retained := 64 })] } busy3
/-- A region whose run has one row at element (0, 0): an operation of a source and a destination. -/
def opS (op sa dst rest : Nat) (c : Ctx) (e : Elem) (q : Tab Fifo) : State :=
  let p : PlacedWord := ⟨0, 0, 0, 0, none, BitVec.ofNat 128 (op * 2 ^ 121 + sa * 2 ^ 108 + dst * 2 ^ 84 + rest)⟩
  let s := regS { regA with run := some { runB with stages := [{ stgA with trips := [3], views := [viewD, viewD], inst := { insA with block := { blkA with wpl := some 0, binds := [{ bindD with role := 0, fifo := 3, edge := 0 }, { bindD with role := 3, fifo := 1, edge := 0 }] }, image := { imgA with words := [p] } } }] }, fifos := q } c
  putElems r0 regA s [(0, 0, e)]
def el00 (t : State) : Elem := t.elem r0 regA 0 0
def faultIs (cls det : Nat) (s : State) : Bool :=
  after (.advancingCycle r0) s (fun t => ofRegion t (fun z => (z.run.map (fun w => w.fault.map (fun f => (f.cls, f.detail)))) == some (some (cls, det))) && el00 t == el00 s)
/-- MOV of the constant 0x55 into o0, into carousel slot 2 of iteration 0 with LIFE 5, and into f1. -/
theorem test_cycle_lands :
    after (.advancingCycle r0) (opS 1 192 32 (0x55 * 2 ^ 32) busy3 {} []) (fun t => (el00 t).o0 == ⟨0x55, 0x7F⟩) = true ∧
      after (.advancingCycle r0) (opS 1 192 2 (0x55 * 2 ^ 32 + 5 * 2 ^ 78) busy3 {} []) (fun t => (el00 t).car == [(2, ⟨⟨0x55, 0x7F⟩, 5⟩)]) = true ∧
      after (.advancingCycle r0) (opS 1 192 43 (0x55 * 2 ^ 32) busy3 {} []) (fun t => ofRegion t (fun z => (z.fifo 1).entries == [⟨0x55, 0x7F⟩])) = true := by decide +kernel
/-- MOV of f3 pops it: its entry stays retained until a waypoint. This cycle begins iteration 1, a waypoint of the loop (R242, R243). -/
theorem test_cycle_waypoint :
    after (.advancingCycle r0) (opS 1 323 32 0 busy3 {} [(3, { entries := [⟨7, 0x7F⟩, ⟨8, 0x7F⟩] })]) (fun t => (el00 t).o0 == ⟨7, 0x7F⟩ && ofRegion t (fun z => (z.fifo 3).entries == [⟨8, 0x7F⟩] &&
      (z.fifo 3).retained == 0 && (tfind z.shadows 0).any (fun h => h.stage.j == 1 && h.elems.any (fun e => e.2.o0 == ⟨7, 0x7F⟩)))) = true := by decide +kernel
/-- A dead slot, two results for o0, an I16 sum that SAT 3 forbids, an empty FIFO without HOLD, and a TRAPIF with code 0x31. -/
theorem test_cycle_faults :
    faultIs 8 1 (opS 1 66 32 0 busy3 {} []) = true ∧ faultIs 8 2 (opS 1 192 32 0 busy3 { flight := [⟨1, .write 32 32 0 {}⟩] } []) = true ∧
      faultIs 8 3 (opS 0x27 192 32 (0x8000 * 2 ^ 32 + 1 * 2 ^ 119 + 3 * 2 ^ 68) busy3 {} []) = true ∧ faultIs 8 4 (opS 1 323 32 0 busy3 {} []) = true ∧
      faultIs 0x14 0x31 (opS 0x6B 192 63 (5 * 2 ^ 32 + 0x31) busy3 {} []) = true := by decide +kernel
/-- R164: the lines of a wrap shift, and a slot whose LIFE is 1 is freed. -/
theorem test_end_elem :
    after (.advancingCycle r0) (opS 1 192 32 0 busy3 { car := [(4, ⟨⟨1, 0⟩, 1⟩), (5, ⟨⟨2, 0⟩, 2⟩)], hair := [(1, { stages := [(0, ⟨3, 0⟩)], input := ⟨9, 0⟩ })] } [])
      (fun t => tfind (el00 t).car 4 == none && tfind (el00 t).car 5 == some ⟨⟨2, 0⟩, 1⟩ && tget (tget (el00 t).hair 1 {}).stages 0 {} == ⟨9, 0⟩) = true := by decide +kernel
/-- FabricCycles: the clauses over rows, elements and FIFOs. -/
theorem witness_cycle_rows :
    sees (opS 1 192 43 (0x55 * 2 ^ 32) busy3 {} []) (fun g => dutyBit g.x && (pinnedFifo g).isNone && !g.holds && (g.rows.find? (rowStarves g (fifoCount g g.rows))).isNone && (match issueRows g g.rows with
      | .ok is => is.length == 1 && is.all (fun i => i.dst == 43 && i.iss.out.length == 1) && (match endElems g is (stageElems g.x g.st) with
        | .ok (_, _, out) => out == [.fifo 1 ⟨0x55, 0x7F⟩] && (firstTrap is).isNone && decide (g.st.c + 1 = g.st.ii) && decide (g.st.j < g.st.total)
        | _ => false)
      | _ => false)) = true ∧
    sees (opS 1 323 32 0 busy3 {} []) (fun g => g.rows.any (rowStarves g (fifoCount g g.rows))) = true ∧ sees (opS 1 66 32 0 busy3 {} []) (fun g => match issueRows g g.rows with
      | .error _ => true
      | _ => false) = true := by decide +kernel
/-- FabricCycles: an empty, a held, an advancing cycle, a pinned FIFO. -/
theorem witness_cycles :
    sees (regS { regA with run := some runB, duty := 2 } busy3) (fun g => !dutyBit g.x) = true ∧
    sees holdS (fun g => dutyBit g.x && (pinnedFifo g).isNone && g.holds) = true ∧
    sees pinS (fun g => dutyBit g.x && (pinnedFifo g).isSome) = true ∧
    sees moveS (fun g => dutyBit g.x && (pinnedFifo g).isNone && !g.holds && (g.rows.find? (rowStarves g (fifoCount g g.rows))).isNone &&
      (match issueRows g g.rows with
      | .ok is => (match endElems g is (runElems g.x g.u) with
        | .ok _ => (firstTrap is).isNone
        | _ => false)
      | _ => false) && decide (g.st.j < g.st.total) && decide (g.st.c + 1 = g.st.ii)) = true := by decide +kernel
theorem witness_cycles_drain :
    sees (regS { regA with run := some { runB with stages := [{ stgA with trips := [2], ii := 2 }] } } busy3) (fun g => decide (g.st.j < g.st.total) && decide (g.st.c + 1 ≠ g.st.ii)) = true := by
  decide +kernel
theorem test_hold_watchdog : after (.holdWatchdogExpiry r0) (regS { regA with run := some runB, holdTicks := 1000000 } busy3) (fun t => t.getTok u0 3 == ⟨.error, 1⟩) = true := by decide +kernel
theorem witness_hold_watchdog : (regS regA).taskOf u0 = some 0 ∧ (regS regA).task 0 = some task0 ∧ recBits task0.lrec 991 960 = 0 ∧
    cycles moveS r0 { regA with run := some runB } runB = true := by decide +kernel


/-- The clauses over a lent region, a pending run, a strand that stands in REFORM, a delivered update and a run over a lent region. -/
def lentA : Region := { regA with lent := some 3, run := some { runB with stages := [{ stgA with trips := [2], j := 2 }] } }
def lentOver : State :=
  { regS lentA busy3 with ops := [(opKey u0 3, { kind := .xform, st := .started, agent := u0, tok := 3, scope := 0, desc := 0, apTile := 0, apClus := 0, apDie := 0 })] }
theorem witness_blocks_lent :
    (regS lentA).region r0 = some lentA ∧ lentA.lent ≠ none ∧ ({ regA with pend := some runA } : Region).pend ≠ none ∧
      runOver lentOver r0 lentA { runB with stages := [{ stgA with trips := [2], j := 2 }] } = true ∧ (lentOver.op r0.strand 3).isSome = true ∧
      partlyFilled { runB with stages := [{ stgA with trips := [2], j := 2 }] } lentA = none ∧ holdS.halted r0.strand = false ∧
      (regS { regA with pend := some runA, run := some runB }).region r0 = some { regA with pend := some runA, run := some runB } := by decide +kernel
/-- While the region is lent, BLOAD, BRUN and BSWAP stall, whatever the token, the slot and the address. -/
theorem test_lent_stalls :
    [Instr.bload g0 1 2 0, .brun g0 0 3 0, .bswap g0 0 3 6].all (fun i => after i (regS lentA { tok := [(3, ⟨.busy, 0⟩)], s := [(2, 0x100008)] }) (fun t =>
      (t.ctx u0).pc == 0 && (t.ctx u0).fault.isNone && ofRegion t (fun z => z == lentA))) = true := by decide +kernel
theorem test_bswap_mask_first : after (.bswap g0 0 3 2) (regS lentA) (fun t => faultOf t u0 == some (1, 3)) = true := by decide +kernel
/-- Strand 1 stands in a REFORM that gives it quad 1. -/
def reS (use : BitVec 4) (own : BitVec 8) (x : Region) : State :=
  { regS x with ctxs := [(0, { run := .running, task := some 0 }), (1, { run := .running, task := some 0, stall := .reform use own 0 })] }
/-- R245: the last arrival applies the layout: strand 0 keeps its region, strand 1 gets quad 1, and both go on. -/
theorem test_reform_two :
    after (.reform g0 3 4) (reS 3 4 regA) (fun t => ofRegion t (fun z => z == regA) && (t.region ⟨0, 0, 1⟩).map (fun z => (z.quads, z.qrows, z.qcols)) == some ([(0, 1)], 1, 1) &&
      (t.ctx u0).pc == 8 && (t.ctx (.strand 0 0 1)).pc == 8 && (t.ctx (.strand 0 0 1)).stall == .none) = true := by decide +kernel
theorem test_reform_parks :
    after (.reform g0 1 1) (reS 1 1 regA) (fun t => ofRegion t (fun _ => true) == false && (t.region ⟨0, 0, 1⟩).map (·.quads) == some [(0, 0)] && (t.ctx u0).stall == .parked && (t.ctx u0).pc == 0) = true := by
  decide +kernel
theorem test_reform_differs : after (.reform g0 3 4) (reS 3 0 regA) (fun t => faultOf t u0 == some (1, 0x37) && ofRegion t (fun z => z == regA)) = true := by decide +kernel
/-- Quads 0 and 3 are no rectangle; a changed region must have no FIFO entry. -/
theorem test_reform_shape : after (.reform g0 9 0) (reS 9 0 regA) (fun t => faultOf t u0 == some (1, 0x36)) = true := by decide +kernel
theorem test_reform_fifo : after (.reform g0 2 0) (reS 2 0 { regA with fifos := [(1, { entries := [{}] })] }) (fun t => faultOf t u0 == some (1, 0x36)) = true := by decide +kernel
theorem test_reform_busy : after (.reform g0 3 4) (reS 3 4 { regA with run := some runB }) (fun t => (t.ctx u0).stall == .reform 3 4 1 && (t.ctx u0).fault.isNone) = true := by decide +kernel
/-- RegionReform: each premise. -/
theorem witness_reform_layouts :
    layoutQuads 3 4 0 = [0] ∧ layoutQuads 3 4 1 = [1] ∧ quadRect [0] = some (1, 1) ∧ quadRect (layoutQuads 9 0 0) = none ∧ (∀ k ∈ liveStrands (reS 3 4 regA) (some 0) 0 0, (reS 3 4 regA).halted (.strand 0 0 k) = false) ∧
      namedLayout ((reS 3 4 regA).ctx (.strand 0 0 1)) = some (3, 4) ∧ regionBusy { regA with run := some runB } = true ∧ fifosFree { regA with fifos := [(1, { entries := [{}] })] } = false ∧
      ∀ k, k < 4 → ((reS 3 4 regA).region ⟨0, 0, k⟩).all (fun x => !regionBusy x) = true := by decide +kernel
/-- RunSteps: a run that is over with a row of its K = 2 partly filled raises FMT detail 0x06. -/
def partU : Run :=
  { runB with stages := [{ stgE with j := 2, inst := { insA with block := { blkA with binds := [{ bindE with edge := BitVec.ofNat 64 (2 * 2 ^ 40 + 2 ^ 28 + 4 * 2 ^ 12) }] } } }] }
def partX (n : Nat) : Region := { regA with run := some partU, enc := [(0, { bind := 0, count := n })] }
theorem witness_partly_filled : partlyFilled partU (partX 1) = some (0, 0, 1) ∧ partlyFilled partU (partX 2) = none ∧ runOver (regS (partX 1) busy3) r0 (partX 1) partU = true ∧ partU.cur ≠ none := by
  decide +kernel
theorem test_partly_filled : after (.blockRunComplete r0) (regS (partX 1) busy3) (fun t => ofRegion t (fun z => (z.run.map (fun w => w.fault.map (fun f => (f.cls, f.detail)))) == some (some (7, 6)))) = true := by
  decide +kernel
theorem witness_reform_waiting :
    let s : State := { twoS with ctxs := [(0, { run := .running, task := some 0 }), (1, { run := .running, task := some 0, stall := .reform 3 0 4 })] }
    liveStrands s (some 0) 0 0 = [0, 1] ∧ insideReform (s.ctx (.strand 0 0 1)) = true ∧ nextArrival s 0 0 = 5 := by decide +kernel
/-- A transformed copy that waits for region 0, the record of its block at 0x100000, entry 0 of the block table at 0x100080; the map cache holds the mapping, or does not. -/
def xlS (h : Nat) : State :=
  let s := recSB recH nodeN regA
  { s with mem := mwrite s.mem (2 ^ 56 + 128) (leBytes 8 2 ++ leBytes 8 0x100000), ops := [(opKey u0 5, xop 0 0)], tasks := [(0, { task0 with lrec := BitVec.ofNat 2048 (0x100088 * 2 ^ 128) })]
           dies := [(0, { cache := [⟨h, 1, 1, [], 0, imgA, []⟩] })] }
/-- TransformedCopies: the block's record is found, with a mapping in the cache and without one. -/
def xlIs (h : Nat) (p : State → State → Block → Region → Option MapImage → Bool) : Bool :=
  let s := xlS h
  match s.region r0, xformWaiting s r0 with
  | some x, some o => !regionBusy x && x.mapping.isNone && (match readGen s (s.opReq o) 0x100088 8 with
    | (s1, .ok e) => numOf e == 0x100000 && (match readRecord s1 (s.opReq o) 0x100000 with
      | (s2, .ok (.ok (h, b))) => !b.img && (match lookUp s2 r0 (s.opReq o) 4 0x100000 h b x with
        | (_, .ok (.ok (y, i))) => p s y b x i
        | _ => false)
      | _ => false)
    | _ => false)
  | _, _ => false
theorem witness_lend_begins :
    xlIs 8 (fun _ y _ _ i => i.isNone && (y.region r0).isSome) = true ∧
      xlIs 7 (fun _ y b x i => i == some imgA && y.region r0 == some x && (let u := xformRun y (xop 0 0) x ⟨b, imgA, 0x100000⟩
        u.cur.any (fun st => (runIssueFault y r0 (y.opReq (xop 0 0)) x u).isNone && !xformTaken st x))) = true := by decide +kernel
theorem test_lend_begins : after (.regionLendBegin r0) (xlS 7) (fun t => ofRegion t (fun z => z.lent == some 5 && z.run.isSome)) = true ∧
    after (.regionLendBegin r0) (xlS 8) (fun t => ofRegion t (fun z => z.lent == some 5 && z.run.isNone && z.mapping.isSome)) = true := by decide +kernel
/-! ## The scheduler, halts and ends -/

/-- A record of owner 1 (R324): MAGIC, one tile and one strand of die 0, spine 5, level 0 of one, windows, ENTRY, an argument, a pinned CTXAREA. -/
def recA : BitVec 2048 :=
  BitVec.ofNat 2048 (0x10000 + 0x77 * 2 ^ 64 + 0x40000000 * 2 ^ 320 + 0x7E0000000000 * 2 ^ 768 + 0x7E8000000000 * 2 ^ 832 + 0x7E4000000000 * 2 ^ 896 +
    2 ^ 1088 + 2 ^ 1098 + 5 * 2 ^ 1104 + 2 ^ 1216 + 7 * 2 ^ 1240 + 0x4C31 * 2 ^ 1264 + 0x10010 * 2 ^ 1280)
/-- The owner of the records with leaves that are pinned. -/
def pinned (s : State) : State :=
  { s with owners := [(1, { v := true, troot := 0x1000, grant := 3, priomax := 255, wgt := 1 })]
           mem := mwrite (mwrite s.mem 0x1000 [1, 0x20]) 0x2000 [0x0F, 4, 0, 0, 0, 0, 0, 0, 0x0F, 4, 0, 0x40] }
/-- A die whose queue 0 belongs to owner 1 and holds a record. -/
def admS (r : BitVec 2048) : State :=
  pinned { qmap := [(0, { v := true, owner := 1 })], dies := [(0, { rdy := true, queues := [(0, { recs := [r] })] })], power := .ready }
def place0 : Placement := ⟨[(0, 0)], []⟩
theorem test_admission : after (.admission 0 0 place0) (admS recA) (fun t => (t.ctx u0).pc == 0x10000 && t.getS u0 1 == 0x77 && t.getS u0 29 == 0x7E00000F4000 &&
    (t.task 0).any (fun k => k.st == .running && k.lrec == recA) && (t.queue 0 0).recs == []) = true := by decide +kernel
/-- A record whose MAGIC is wrong is rejected with detail 0x01. -/
theorem test_admission_rejects : after (.admission 0 0 place0) (admS (recA + BitVec.ofNat 2048 (2 ^ 1264))) (fun t => (t.queue 0 0).recs == [] && t.tasks == []) = true := by
  decide +kernel
/-- Admissions: a record that fits with its placement, one that does not, one with a completion address. -/
theorem witness_admission :
    queueOwner (admS recA) 0 0 = some 1 ∧ firstQueue (admS recA) 0 1 = some 0 ∧ queueHead (admS recA) 0 0 = some (.fresh recA) ∧
      rejectDetail (admS recA) 0 ((admS recA).qmapEntry 0) recA = none ∧ admits (noteReserve (admS recA) 0) 0 0 1 = true ∧
      placementOk (noteReserve (admS recA) 0) 0 0 1 recA place0 = true ∧ preferred (noteReserve (admS recA) 0) 0 0 1 recA place0 = true ∧ recBits recA 255 192 = 0 ∧
      ∀ n < 4, recBits recA (704 + 16 * n + 15) (704 + 16 * n) < 2 ^ 15 := by decide +kernel
/-- The bad record's completion goes to 0x40001000. -/
def recC : BitVec 2048 := recA + BitVec.ofNat 2048 (2 ^ 1264 + 0x40001000 * 2 ^ 384)
theorem witness_reject :
    rejectDetail (admS recC) 0 ((admS recC).qmapEntry 0) recC = some 1 ∧ recBits recC 447 384 ≠ 0 ∧ recBits (recA + BitVec.ofNat 2048 (2 ^ 1264)) 447 384 = 0 ∧
      ((admS recC).queue 0 0).saved = [] ∧
      (match writeGen (admS recC) (ownerReq 0 1) 0x40001000 ([2#8, 1#8, 0#8, 0#8] ++ List.replicate 4 0#8 ++ bytesOf 8 0) with
      | (_, .ok ()) => true
      | _ => false) = true := by decide +kernel

/-- The eighth beat is a reference tick (R310); the first seven only raise the raw mileposts. -/
theorem test_tick : after .schedulerTick { strandS {} with beat := 7 } (fun t => t.beat == 0 && (t.die 0).tick == 1 && (t.die 3).raw == ((strandS {}).die 3).raw + 1 &&
    (t.task 0).any (fun k => k.est == 4)) = true := by decide +kernel
theorem test_beat : after .schedulerTick (strandS {}) (fun t => t.beat == 1 && (t.die 0).tick == 0 && (t.die 0).raw == ((strandS {}).die 0).raw + 1) = true := by decide +kernel
theorem test_tick_off : after .schedulerTick { strandS {} with power := .off } (fun t => t == { strandS {} with power := .off }) = true := by decide +kernel
/-- ReferenceTick. -/
theorem witness_tick : (strandS {}).power ≠ .off ∧ (strandS {}).beat < 7 ∧ 7 ≤ ({ strandS {} with beat := 7 } : State).beat ∧
    (∀ e ∈ (strandS {}).tiles, dueSend (strandS {}) (e.1 / 144) (e.1 % 144) = none) ∧ State.reset.power = .off ∧ (strandS {}).task 0 = some task0 := by decide +kernel

/-- A die with one healthy tile, which task 0 of owner 2 holds; owner 1's record waits. PERM as given. -/
def recV (perm : Nat) (prio : Nat) : BitVec 2048 := BitVec.ofNat 2048 (recA.toNat - 7 * 2 ^ 1240 + perm * 2 ^ 1240 + prio * 2 ^ 1232)
def vicS (perm est : Nat) (lent : Option Nat) : State :=
  let s := admS (recV 7 9)
  { s with dies := [(0, { s.die 0 with failed := List.range' 1 143, tick := 300000 })], ctxs := [(0, { run := .running, task := some 0 })]
           tiles := [(0, { holder := some 0, lent := lent })]
           tasks := [(0, { task0 with lrec := recV perm 0, owner := 2, slices := [], est := est })] }
def vic (perm est : Nat) : Task := { task0 with lrec := recV perm 0, owner := 2, slices := [], est := est }
theorem test_preempt_drain : after (.preemptionDecision 0 0) (vicS 7 5 none) (fun t => (t.task 0).any (fun k => k.st == .draining && k.drainBudget == 100000)) = true := by
  decide +kernel
/-- PreemptionOutcomes. -/
theorem witness_victims :
    (vicS 7 5 none).task 0 = some (vic 7 5) ∧ headRecord (vicS 7 5 none) 0 0 = some (recV 7 9) ∧ firstQueue (vicS 7 5 none) 0 1 = some 0 ∧
      queueFits (vicS 7 5 none) 0 0 1 = false ∧ victims (vicS 7 5 none) 0 0 1 (recV 7 9) = some [(0, vic 7 5)] ∧ victimOutcome (vicS 7 5 none) (vic 7 5) = some .drain := by
  decide +kernel
theorem witness_victims_other :
    victims (vicS 6 5 none) 0 0 1 (recV 7 9) = some [(0, vic 6 5)] ∧ victimOutcome (vicS 6 5 none) (vic 6 5) = some .checkpoint ∧
      victims (vicS 4 5 none) 0 0 1 (recV 7 9) = some [(0, vic 4 5)] ∧ victimOutcome (vicS 4 5 none) (vic 4 5) = some .kill := by decide +kernel
theorem witness_recall :
    (let s := vicS 4 5 (some 1)
     enoughVictims (fun ns => queueFits (without s ns) 0 0 1) (leaving s) [] (borrowers s (headDies s 0 0) 1) = some [(0, vic 4 5)] ∧ queueFits (without s (leaving s)) 0 0 1 = false ∧ firstQueue s 0 1 = some 0 ∧ queueFits s 0 0 1 = false ∧ (s.tile 0 0).lent = some 1 ∧ (0, 0) ∈ (vic 4 5).tiles) ∧
    (let s := vicS 6 5 (some 1)
     enoughVictims (fun ns => queueFits (without s ns) 0 0 1) (leaving s) [] (borrowers s (headDies s 0 0) 1) = some [(0, vic 6 5)]) ∧ lrPerm (recV 4 0) 1 = false ∧ lrPerm (recV 6 0) 1 = true := by
  decide +kernel
/-- A task of a state. -/
def taskS (k : Task) : State := { strandS {} with tasks := [(0, k)] }
theorem test_drain_expiry : after (.drainExpiry 0) (taskS { task0 with st := .draining, est := 0 }) (fun t => t.task 0 == some { task0 with est := 0, noDrain := true }) = true := by
  decide +kernel
/-- A lent tile that is recalled is held for its lender (R335). -/
theorem test_recall_holds : after (.recallStart 0 1) (vicS 4 5 (some 1)) (fun t => (t.tile 0 0).wanted == some 1 && (t.task 0).any (fun k => k.st == .killing)) = true := by
  decide +kernel
theorem test_save_deadline : after (.saveDeadlineExpiry 0) (taskS { task0 with st := .saving, halt := some .save, recalled := true }) (fun t =>
    (t.task 0).any (fun k => k.st == .killing && k.finish == some (4, 2))) = true := by decide +kernel
theorem witness_deadlines :
    ({ task0 with st := .draining, est := 0 } : Task).drainBudget = 0 ∧ task0.deadline ≤ ((taskS { task0 with st := .saving }).die task0.die).tick.toNat ∧
      (taskS { task0 with st := .saving }).task 0 = some { task0 with st := .saving } := by decide +kernel

/-- The task's only strand has halted. -/
def haltedS (k : Task) : State := { taskS k with ctxs := [(0, { run := .halted, task := some 0 })], regions := [] }
theorem test_retire : after (.taskRetire 0) (haltedS task0) (fun t => (t.task 0).any (fun k => k.st == .retired && k.finish == some (1, 0)) && (t.ctx u0).run == .off) = true := by
  decide +kernel
def fatal0 : Task := { task0 with halt := some .fault, fatal := true, firstCls := some 2 }
theorem test_faulted : after (.taskRetire 0) (haltedS fatal0) (fun t => (t.task 0).any (fun k => k.st == .faulted && k.finish == some (5, 2))) = true := by decide +kernel
def killed0 : Task := { task0 with st := .killing, halt := some .kill, finish := some (4, 1) }
theorem test_killed : after (.killComplete 0) (haltedS killed0) (fun t => (t.task 0).any (fun k => k.st == .killed && k.finish == some (4, 1))) = true := by decide +kernel
/-- TaskEnds: a task that retires, one that ends FAULTED, one that is killed, one whose save is ready (it holds no tile), with a completion to write. -/
theorem witness_ends :
    retireReady (haltedS task0) 0 = true ∧ (leave (haltedS task0) 0 1 0).2 = true ∧ faultedReady (haltedS fatal0) 0 fatal0 = true ∧
      (leave (haltedS fatal0) 0 5 2).2 = true ∧ allStopped (haltedS killed0) 0 = true ∧ (leave (haltedS killed0) 0 4 1).2 = true ∧
      (killed0.finish.getD (3, 0)).1 = 4 ∧ ¬ (1 ≤ task0.vf ∧ task0.vf ≤ 256) := by decide +kernel
theorem witness_ends_completion :
    (match writeGen (pinned (haltedS { task0 with lrec := BitVec.ofNat 2048 (0x40001000 * 2 ^ 384) })) (ownerReq 0 1) 0x40001000
        ([1#8, 0#8] ++ bytesOf 2 0 ++ List.replicate 4 0#8 ++ bytesOf 8 0) with
    | (_, .ok ()) => true
    | _ => false) = true := by decide +kernel
/-- A hub core with PCTL's value in s1, beside a halted task. -/
def hubTaskS (v : Word) (k : Task) : State :=
  { ctxs := [(0, { run := .running, stopped := true, task := some 0, fault := some (flt 8 1) }), (2304, { run := .running, s := [(1, v)] })], tasks := [(0, k)], cur := .hub 0 0, power := .ready }
def halt0 : Task := { task0 with halt := some .fault, firstCls := some 8 }
theorem test_pctl_resume : after (.pctlResume g0 1) (hubTaskS 1 halt0) (fun t => (t.task 0).any (fun k => k.halt.isNone) && (t.ctx u0).fault.isNone && (t.ctx h0).pc == 8) = true := by
  decide +kernel
theorem test_pctl_kill : after (.pctlKill g0 1) (hubTaskS 2 halt0) (fun t => (t.task 0).any (fun k => k.st == .faulted && k.finish == some (5, 8))) = true := by decide +kernel
theorem witness_pctl :
    resumeObeyed halt0 = true ∧ resumeObeyed task0 = false ∧ allStopped (hubTaskS 1 halt0) 0 = true ∧ (∀ x ∈ halt0.tiles, x.1 = halt0.die) ∧
      (ctxTry (hubTaskS 1 halt0) halt0 6 [0#8]).isSome = true ∧ (leave (hubTaskS 2 halt0) 0 5 8).2 = true ∧
      allStopped { hubTaskS 1 halt0 with ctxs := [(0, { run := .running, task := some 0 }), (2304, { run := .running, s := [(1, 1)] })] } 0 = false := by decide +kernel
theorem witness_resume_parts :
    taskOps (hubTaskS 1 halt0) 0 = [] ∧ taskRegions (hubTaskS 1 halt0) 0 = [] ∧ ((hubTaskS 1 halt0).ctx u0).task = some 0 ∧
      ∀ i : Fin 8, ((({ run := .running, stopped := true, task := some 0, fault := some (flt 8 1) } : Ctx)).getSch i).st = .idle := by decide +kernel
/-- A save whose agents have all stopped. -/
def save0 : Task := { task0 with st := .saving, halt := some .save, tiles := [], slices := [] }
theorem test_save_late : after (.contextSaveComplete 0) (haltedS save0) (fun t => (t.task 0).any (fun k => k.st == .killing && k.finish == some (3, 0)) && t.mem == []) = true := by
  decide +kernel
theorem witness_save : saveReady (haltedS save0) 0 save0 = true ∧ save0.deadline ≤ ((haltedS save0).die save0.die).tick.toNat ∧
    ((haltedS save0).die save0.die).tick.toNat < ({ save0 with deadline := 1 } : Task).deadline := by decide +kernel
/-- A RESUME under way, and a halted task with an access on its way: KILL and RESUME wait. -/
theorem witness_pctl_waits :
    ({ halt0 with resuming := true } : Task).halt ≠ none ∧ resumeObeyed { halt0 with resuming := true } = false ∧
      accessesDone { hubTaskS 1 halt0 with pend := [pend0 (.store [1])] } 0 = false ∧ accessesDone (hubTaskS 1 halt0) 0 = true := by decide +kernel

/-- A strand that faulted in a halted task. -/
def stopS (f : Option FaultInfo) : State := { taskS halt0 with ctxs := [(0, { run := .running, task := some 0, pc := 0x40, fault := f, tok := [(3, ⟨.busy, 0⟩)] })] }
theorem test_stop_slow : after (.agentStop (.strand u0)) (stopS (some (flt 4 1 0x99))) (fun t => (t.ctx u0).stopped && (t.task 0).any (fun k =>
    k.fast == [] && k.slow.map (fun r => (r.2.toNat % 65536, r.2.toNat / 2 ^ 64 % 2 ^ 64, r.2.toNat / 2 ^ 128 % 2 ^ 64)) == [(0x104, 0x40, 0x99)])) = true := by decide +kernel
theorem test_stop_fast : after (.agentStop (.strand u0)) (stopS (some (flt 2 0))) (fun t => (t.task 0).any (fun k => k.fast.length == 1 && k.slow == [])) = true := by decide +kernel
theorem test_skid : after (.skidBoundExpiry (.strand u0)) { stopS none with tasks := [(0, { halt0 with haltTicks := 64 })] } (fun t => (t.ctx u0).frozen && faultOf t u0 == some (0x15, 1)) = true := by
  decide +kernel
/-- The fault that a strand has met is recorded before WATCHDOG takes its place (R340). -/
theorem test_skid_records : after (.skidBoundExpiry (.strand u0)) { stopS (some (flt 4 1)) with tasks := [(0, { halt0 with haltTicks := 64 })] } (fun t =>
    faultOf t u0 == some (0x15, 1) && (t.task 0).any (fun k => k.slow.length == 1)) = true := by decide +kernel
theorem witness_skid : slowFull { halt0 with haltTicks := 64 } (some (flt 4 1)) = false ∧ slowFull { halt0 with haltTicks := 64 } none = false ∧
    (writeRec (stopS (some (flt 4 1))) 0 { halt0 with haltTicks := 64 } u0 none 0 (some (flt 4 1)) false).isSome = true := by decide +kernel
/-- An operation of token 3 that runs on. -/
def stopOpS : State :=
  { stopS none with ops := [(opKey u0 3, { kind := .copy, st := .started, agent := u0, tok := 3, scope := 0, desc := 0, apTile := 0, apClus := 0, apDie := 0 })] }
theorem test_stop_token : after (.agentStop (.token u0 3)) stopOpS (fun t => (t.op u0 3).any (·.stopped)) = true := by decide +kernel
/-- HaltedAgents. -/
theorem witness_stop :
    (stopS none).taskOf u0 = some 0 ∧ (stopS none).task 0 = some halt0 ∧ halt0.halt ≠ none ∧ slowFull halt0 (some (flt 4 1)) = false ∧
      (writeRec (stopS none) 0 halt0 u0 none 0 none true).isSome = true ∧ (writeRec (stopS none) 0 halt0 u0 none 0 (some (flt 4 1)) true).isSome = true ∧
      fastLane 2 0 = true ∧ fastLane 4 1 = false ∧ freeSlot halt0 0 32 = some 0 ∧ (freeSlot halt0 32 256).isSome = true ∧
      ((stopOpS).getTok u0 3).st = .busy ∧ (writeRec stopOpS 0 halt0 u0 (some 3) (opSrc .copy) none true).isSome = true ∧
      skidBound (stopS none) halt0 ≤ 64 := by decide +kernel

end Sys2Proof.Tests
end

section
/-! The byte memory (R4): the canonical form is unique, and the laws of O41. -/

namespace Sys2Proof.Machine

/-- Below the lowest location that it may list, a canonical memory reads zero. -/
theorem mget_below {lo a : Nat} {m : Memory} (hm : memWfFrom lo m = true) (h : a < lo) : mget m a = 0 := by
  induction m generalizing lo with
  | nil => rfl
  | cons c m ih =>
    obtain ⟨x, b⟩ := c
    simp only [memWfFrom, Bool.and_eq_true, decide_eq_true_eq] at hm
    obtain ⟨⟨hlo, -⟩, hm⟩ := hm
    have hx : x ≠ a := by omega
    simpa [mget, tget, tfind, hx] using ih hm (by omega)

@[simp] theorem mget_cons_self (a : Nat) (b : Byte) (m : Memory) : mget ((a, b) :: m) a = b := by
  simp [mget, tget, tfind]

theorem mget_cons_other {a x : Nat} (b : Byte) (m : Memory) (h : x ≠ a) : mget ((a, b) :: m) x = mget m x := by
  simp [mget, tget, tfind, Ne.symm h]

/-- The first location of a canonical memory that reads like another one is at or above the other's first. -/
theorem head_le_of_mget_eq {lo lo' a c : Nat} {b d : Byte} {m m' : Memory} (hm : memWfFrom lo ((a, b) :: m) = true)
    (hm' : memWfFrom lo' ((c, d) :: m') = true) (h : mget ((a, b) :: m) a = mget ((c, d) :: m') a) : c ≤ a := by
  refine Nat.le_of_not_lt fun hlt => ?_
  simp only [memWfFrom, Bool.and_eq_true, decide_eq_true_eq, bne_iff_ne] at hm hm'
  have hz : mget ((c, d) :: m') a = 0 := by
    rw [mget_cons_other _ _ (by omega)]; exact mget_below hm'.2 (by omega)
  rw [mget_cons_self, hz] at h
  exact hm.1.2 h

/-- Two canonical memories that read alike everywhere are the same data. -/
theorem memWfFrom_ext {lo lo' : Nat} {m m' : Memory} (hm : memWfFrom lo m = true) (hm' : memWfFrom lo' m' = true)
    (h : ∀ x, mget m x = mget m' x) : m = m' := by
  induction m generalizing lo lo' m' with
  | nil =>
    cases m' with
    | nil => rfl
    | cons c m' =>
      obtain ⟨c, d⟩ := c
      have hd := h c
      simp only [memWfFrom, Bool.and_eq_true, bne_iff_ne] at hm'
      rw [mget_cons_self] at hd
      exact absurd hd.symm hm'.1.2
  | cons c m ih =>
    obtain ⟨a, b⟩ := c
    cases m' with
    | nil =>
      have hb := h a
      simp only [memWfFrom, Bool.and_eq_true, bne_iff_ne] at hm
      rw [mget_cons_self] at hb
      exact absurd hb hm.1.2
    | cons c m' =>
      obtain ⟨c, d⟩ := c
      obtain rfl : a = c := Nat.le_antisymm (head_le_of_mget_eq hm' hm (h c).symm) (head_le_of_mget_eq hm hm' (h a))
      have hbd := h a
      simp only [mget_cons_self] at hbd
      simp only [memWfFrom, Bool.and_eq_true] at hm hm'
      have hrest : m = m' := ih hm.2 hm'.2 fun x => by
        by_cases hx : x = a
        · rw [mget_below hm.2 (by omega), mget_below hm'.2 (by omega)]
        · have hx' := h x
          rwa [mget_cons_other _ _ hx, mget_cons_other _ _ hx] at hx'
      rw [hbd, hrest]

theorem mget_mset (m : Memory) (a b : Nat) (v : Byte) : mget (mset m a v) b = if b = a then v else mget m b := by
  split
  · next h => rw [h, mget_mset_same]
  · next h => exact mget_mset_other m v h

/-- The memory operations keep what R4 says of bytes. -/
theorem memoryLaws : Claims.MemoryLaws := fun m a b v hm =>
  ⟨wf_mset hm a v, mget_mset m a b v,
    fun bs => ⟨wf_mwrite hm a bs, mread_mwrite m a bs, mget_mwrite_other m bs⟩,
    fun _ hm' h => memWfFrom_ext hm' hm h⟩

end Sys2Proof.Machine
end

section
/-! Accesses through the TILE window (R50, R76): where they go, what they do there, and the instructions that make them. -/

namespace Sys2Proof.Machine

open Sys2Proof.Claims

/-! ### Bytes and numbers (R4) -/

@[simp] theorem numOf_eq_leNat (bs : List Byte) : numOf bs = leNat bs := by
  induction bs with
  | nil => rfl
  | cons b bs ih => rw [numOf, ih, leNat]

@[simp] theorem bytesOf_length (n v : Nat) : (bytesOf n v).length = n := by simp [bytesOf]

/-- The low `n` bytes of a number, put as a list or one after the other. -/
theorem leBytes_eq_bytesOf (n v : Nat) : leBytes n v = bytesOf n v := by
  induction n generalizing v with
  | zero => rfl
  | succ n ih =>
    rw [leBytes, ih, bytesOf, bytesOf, List.range_succ_eq_map]
    simp [Nat.pow_succ', Nat.div_div_eq_div_mul]

/-- The bits above the low `n` bytes of a number do not reach them. -/
theorem bytesOf_mod (n v : Nat) : bytesOf n (v % 2 ^ (8 * n)) = bytesOf n v := by
  refine List.map_congr_left fun i hi => BitVec.eq_of_toNat_eq ?_
  have hi : i < n := List.mem_range.mp hi
  have hpow : (2 : Nat) ^ (8 * n) = 256 ^ i * (256 * 256 ^ (n - i - 1)) := by
    rw [Nat.pow_mul, ← Nat.pow_succ', ← Nat.pow_add]; congr 1; omega
  rw [BitVec.toNat_ofNat, BitVec.toNat_ofNat, hpow, Nat.mod_mul_right_div_self]
  exact Nat.mod_mul_right_mod _ 256 _

theorem leNat_bytesOf (n v : Nat) : leNat (bytesOf n v) = v % 256 ^ n := by
  rw [← leBytes_eq_bytesOf]
  induction n generalizing v with
  | zero => simp [leBytes, leNat, Nat.mod_one]
  | succ n ih =>
    have hpow : 256 ^ (n + 1) = 256 * 256 ^ n := Nat.pow_succ'
    rw [leBytes, leNat, ih, BitVec.toNat_ofNat, hpow, Nat.mod_mul]

/-- The eight bytes of a word stand for the word. -/
theorem nat64_leNat_bytesOf (w : Word) : nat64 (leNat (bytesOf 8 w.toNat)) = w := by
  rw [leNat_bytesOf, Nat.mod_eq_of_lt (show w.toNat < 256 ^ 8 from w.isLt)]
  exact BitVec.eq_of_toNat_eq (by simp [nat64])

/-- A value of at most 8 bytes goes through a word unchanged. -/
theorem toNat_ofNat_mod {n : Nat} (h : n ≤ 8) (v : Nat) : (BitVec.ofNat 64 (v % 2 ^ (8 * n))).toNat = v % 2 ^ (8 * n) := by
  rw [BitVec.toNat_ofNat]
  have hle : (2 : Nat) ^ (8 * n) ≤ 2 ^ 64 := Nat.pow_le_pow_right (by decide) (by omega)
  exact Nat.mod_eq_of_lt (Nat.lt_of_lt_of_le (Nat.mod_lt _ (Nat.two_pow_pos _)) hle)

theorem mread_eq_map (m : Memory) (a n : Nat) : mread m a n = (List.range n).map (fun i => mget m (a + i)) := by
  induction n generalizing a with
  | zero => rfl
  | succ n ih =>
    rw [mread, ih, List.range_succ_eq_map]
    simp [Nat.add_comm, Nat.add_left_comm]

theorem sizeOf_le (z : BitVec 2) : sizeOf z ≤ 8 := by revert z; decide

/-! ### Addresses (R22, R85, R87) -/

theorem int64_add (x y : Int) : int64 (x + y) = int64 x + int64 y := BitVec.ofInt_add x y

theorem int64_toNat (w : Word) : int64 (w.toNat : Int) = w := by simp [int64]

theorem int64_toInt {n : Nat} (v : BitVec n) : int64 v.toInt = v.signExtend 64 := rfl

theorem baseOff_eq (c : Ctx) (a : SReg) (off : BitVec 29) : baseOff c a off = int64 ((c.getS a).toNat + off.toInt) := by
  rw [int64_add, int64_toNat, int64_toInt, baseOff]

theorem baseOff25_eq (c : Ctx) (a : SReg) (off : BitVec 25) : baseOff25 c a off = int64 ((c.getS a).toNat + off.toInt) := by
  rw [int64_add, int64_toNat, int64_toInt, baseOff25]

theorem effAddr_eq (c : Ctx) (z : BitVec 2) (a b : SReg) (off : BitVec 29) :
    effAddr c z a b off = int64 ((c.getS a).toNat + (c.getS b).toNat * (2 ^ z.toNat : Nat) + off.toInt) := by
  have hmul : int64 ((c.getS b).toNat * (2 ^ z.toNat : Nat)) = c.getS b * BitVec.ofNat 64 (sizeOf z) := by
    rw [int64, BitVec.ofInt_mul, ← int64, int64_toNat, BitVec.ofInt_natCast, sizeOf]
  rw [int64_add, int64_add, int64_toNat, int64_toInt, hmul, effAddr]


/-! ### Where a TILE window leads (R76, R77, R79) -/

@[simp] theorem noteIssue_poison (s : State) (u : Agent) : (noteIssue s u).poison = s.poison := by cases u <;> rfl
@[simp] theorem noteIssue_pend (s : State) (u : Agent) : (noteIssue s u).pend = s.pend := by cases u <;> rfl

@[simp] theorem inTile_noteIssue (s : State) (u v : Agent) (a : Word) (n : Nat) : InTile (noteIssue s v) u a n ↔ InTile s u a n := by
  simp [InTile]
@[simp] theorem sound_noteIssue (s : State) (u v : Agent) (a : Word) (n : Nat) : Sound (noteIssue s v) u a n ↔ Sound s u a n := by
  simp [Sound]
@[simp] theorem clear_noteIssue (s : State) (u v : Agent) : Clear (noteIssue s v) u ↔ Clear s u := by simp [Clear]
@[simp] theorem tileBytes_noteIssue (s : State) (u v : Agent) (a : Word) (n : Nat) : tileBytes (noteIssue s v) u a n = tileBytes s u a n := by
  simp [tileBytes]

/-- The one part of an access that lies in the TILE window. -/
def tilePlace (u : Agent) (a : Word) (n : Nat) : Place := ⟨tileLoc u a, false, false, n⟩

@[simp] theorem tilePlace_loc (u : Agent) (a : Word) (n : Nat) : (tilePlace u a n).loc = tileLoc u a := rfl
@[simp] theorem tilePlace_len (u : Agent) (a : Word) (n : Nat) : (tilePlace u a n).len = n := rfl

theorem le_tileLoc (u : Agent) (a : Word) : 2 ^ 56 ≤ tileLoc u a := by unfold tileLoc; omega

/-- The bytes of an access through the TILE window lie in the tile buffers, below the cluster buffers. -/
theorem tileLoc_add_le {s : State} {u : Agent} {a : Word} {n : Nat} (h : InTile s u a n) : tileLoc u a + n ≤ 2 ^ 57 := by
  obtain ⟨-, hdie, htile, -, -, -, hunit⟩ := h
  unfold tileLoc
  omega

@[simp] theorem isBuffer_tileLoc (u : Agent) (a : Word) : isBuffer (tileLoc u a) = true := decide_eq_true (le_tileLoc u a)
@[simp] theorem isHost_tileLoc (u : Agent) (a : Word) : isHost (tileLoc u a) = false := by simp [isHost]

/-- No migration and no other home keeps an access to a tile buffer waiting (R47, R48). -/
@[simp] theorem mustWait_tilePlace (s : State) (d : Nat) (u : Agent) (a : Word) (n : Nat) : mustWait s d (tilePlace u a n) = false := by
  simp [mustWait, locked, offDie]

/-- Below the die buffers no mailbox of a configuration port is written (R377). -/
theorem boxBusy_below {s : State} {loc : Nat} (h : loc < 2 ^ 58) : boxBusy s loc = false := by
  rw [boxBusy, decide_eq_false (Nat.not_le.mpr h)]; rfl

theorem afterWrite_below {s : State} {loc : Nat} (n : Nat) (h : loc < 2 ^ 58) : afterWrite s loc n = s := by
  rw [afterWrite, if_neg fun hm => absurd h (Nat.not_lt.mpr hm.1)]

theorem windowOf_inTile {s : State} {u : Agent} {a : Word} {n : Nat} (h : InTile s u a n) (nc : Bool) :
    windowOf (s.req u nc) a = .tile (a.toNat % 2 ^ 20) := by
  obtain ⟨-, -, -, -, hen, hbase, -⟩ := h
  have hbit : (s.ctx u).apTile.toNat.testBit 0 = true := by rw [Nat.testBit_zero]; exact decide_eq_true hen
  have hwin : inWindow (s.req u nc).apTile a 20 = some (a.toNat % 2 ^ 20) := by
    show inWindow (s.ctx u).apTile a 20 = _
    simp only [inWindow, hbit, hbase, beq_self_eq_true, Bool.and_self, if_true]
  rw [windowOf, hwin]

/-- An access within one unit of 64 KiB is one part (R50). -/
theorem splitPages_one {a : Word} {n : Nat} (fuel : Nat) (hn : 0 < n) (hunit : a.toNat % 65536 + n ≤ 65536) :
    splitPages (fuel + 1) a n = [(a, n)] := by
  have hmin : min n (65536 - a.toNat % 65536) = n := by omega
  have hrest : ∀ (k : Nat) (b : Word), splitPages k b 0 = [] := fun k b => by cases k <;> rfl
  simp [splitPages, hmin, hrest, show n ≠ 0 by omega]

/-- An access through the TILE window goes to its tile's buffer, whatever the other windows and the page tables hold. -/
theorem route_inTile {s : State} {u : Agent} {a : Word} {n : Nat} (h : InTile s u a n) (nc : Bool) (need : Need) :
    route s (s.req u nc) need a n = (s, .ok [tilePlace u a n]) := by
  have hpart : routePart s (s.req u nc) need a n = (s, .ok (tilePlace u a n)) := by
    rw [routePart, windowOf_inTile h]; rfl
  obtain ⟨-, -, -, hn, -, -, hunit⟩ := h
  rw [route, splitPages_one _ hn hunit]
  simp [routeParts, hpart]

/-! ### Reads and writes of a tile's buffer -/

@[simp] theorem readPlaces_tilePlace (s : State) (u : Agent) (a : Word) (n : Nat) : readPlaces s [tilePlace u a n] = tileBytes s u a n := by
  simp [readPlaces, mread_eq_map, tileBytes]

@[simp] theorem tileBytes_length (s : State) (u : Agent) (a : Word) (n : Nat) : (tileBytes s u a n).length = n := by simp [tileBytes]

@[simp] theorem countPlaces_tilePlace (s : State) (q : Req) (u : Agent) (a : Word) (n : Nat) : countPlaces s q [tilePlace u a n] = s := by
  simp [countPlaces, countPlace]

theorem firstPoison_none {s : State} {loc n : Nat} (h : ∀ w ∈ s.poison, ¬ (w < loc + n ∧ loc < w + 8)) : firstPoison s loc n = none := by
  unfold firstPoison
  generalize s.poison = l at h
  induction l with
  | nil => rfl
  | cons w l ih =>
    rw [List.foldl_cons, if_neg (h w (by simp))]
    exact ih fun x hx => h x (by simp [hx])

/-- A store to a tile's buffer never fails at its home (R50). -/
theorem partFault_store_tilePlace (s : State) (u : Agent) (a b : Word) (n : Nat) : partFault s false b [tilePlace u a n] = none := by
  simp [partFault]

/-- A read of a tile's buffer fails only for poison (R74). -/
theorem partFault_tilePlace {s : State} {u : Agent} {a : Word} {n : Nat} (h : Sound s u a n) (rd : Bool) (b : Word) :
    partFault s rd b [tilePlace u a n] = none := by
  cases rd <;> simp [partFault, firstPoison_none h]

/-- A write to a tile's buffer puts the bytes there and clears the poison of the words that it covers (R74). -/
theorem writePlaces_tilePlace {s : State} {u : Agent} {a : Word} {n : Nat} (h : InTile s u a n) {bs : List Byte} (hbs : bs.length = n) :
    writePlaces s [tilePlace u a n] bs = tileStored s u a bs := by
  have hend := tileLoc_add_le h
  obtain ⟨-, -, -, hpos, -⟩ := h
  have hkeep : keepBusy s (tileLoc u a) bs = bs := keepBusy_free _ _ _ fun i hi => boxBusy_below (by omega)
  have hpoison : s.poison.filter (fun w => !(decide (tileLoc u a ≤ w) && decide (w + 8 ≤ tileLoc u a + bs.length) && !boxBusy s w)) =
      s.poison.filter (fun w => !(decide (tileLoc u a ≤ w) && decide (w + 8 ≤ tileLoc u a + bs.length))) :=
    List.filter_congr fun w _ => by
      by_cases hw : w + 8 ≤ tileLoc u a + bs.length
      · simp [boxBusy_below (s := s) (show w < 2 ^ 58 by omega)]
      · simp [hw]
  simp only [writePlaces, writeLoc, tilePlace_loc, tilePlace_len, List.take_of_length_le (Nat.le_of_eq hbs), hkeep]
  rw [afterWrite_below _ (by omega), putBytes, hpoison, tileStored]

/-! ### Accesses through the TILE window (R49, R50, R86, R87) -/

theorem owed_of_clear {s : State} {u : Agent} (h : Clear s u) : owed s u = false := by
  have hnone : s.pend.any (leftBehind u) = false := by
    rw [List.any_eq_false]
    intro p hp hleft
    simp only [leftBehind, Bool.and_eq_true, decide_eq_true_eq, Bool.not_eq_true'] at hleft
    obtain ⟨⟨hagent, hstale⟩, horphan⟩ := hleft
    exact Bool.false_ne_true (horphan.symm.trans (h p hp hagent hstale))
  simp [owed, hnone]

/-- An access that routes to parts which are there at once, and which no earlier access must precede, is performed. -/
theorem access_now {s t : State} {u : Agent} {k : AccKind} {a : Word} {n len : Nat} {o : SmOpt} {ps : List Place} (hc : Clear s u)
    (hub : u.isHub = false) (hr : route s (s.req u (o.hint == 1)) (accNeed k) a len = (s, .ok ps)) (hh : ∀ p ∈ ps, isHost p.loc = false)
    (hw : ∀ p ∈ ps, mustWait s u.die p = false) (hp : performAt s (s.req u (o.hint == 1)) k a n ps = (t, .ok ())) :
    access s u k a n len o = .ok t := by
  have hhost : ps.any (fun p => isHost p.loc) = false := by simpa using hh
  have hwait : ps.any (mustWait s u.die) = false := by simpa using hw
  have hedge : hubOwed s u k o.order o.scope ps = false := by rw [hubOwed, hub, Bool.false_and]
  simp only [access, owed_of_clear hc, hr, hhost, hwait, hedge, hp, Bool.false_and, Bool.false_eq_true, if_false]

/-- An access through the TILE window is performed at once. -/
theorem access_inTile {s t : State} {u : Agent} {k : AccKind} {a : Word} {n len : Nat} {o : SmOpt} (hc : Clear s u) (h : InTile s u a len)
    (hp : performAt s (s.req u (o.hint == 1)) k a n [tilePlace u a len] = (t, .ok ())) : access s u k a n len o = .ok t :=
  access_now hc h.1 (route_inTile h _ _) (by simp) (by simp) hp

section Perform

variable {s : State} {q : Req} {a : Word} {n : Nat} {ps : List Place}

theorem performAt_store {bs : List Byte} (h : partFault s false a ps = none) :
    performAt s q (.store bs) a n ps = (writePlaces (countPlaces s q ps) ps bs, .ok ()) := by
  simp only [performAt, accReads, h]

theorem performAt_load (h : partFault s true a ps = none) (d : SReg) (pair : Bool) :
    performAt s q (.load d pair) a n ps = ((countPlaces s q ps).modCtx q.agent (fun c => loadRegs c d pair n (readPlaces s ps)), .ok ()) := by
  simp only [performAt, accReads, h]

theorem performAt_atom (h : partFault s true a ps = none) (aop : BitVec 4) (d : SReg) (v : Word) :
    performAt s q (.atom aop d v) a n ps =
      ((writePlaces (countPlaces s q ps) ps (bytesOf n (atomNew aop n (leNat (readPlaces s ps)) v.toNat))).putS q.agent d
        (nat64 (leNat (readPlaces s ps))), .ok ()) := by
  simp only [performAt, accReads, h, leBytes_eq_bytesOf, nat64]

theorem performAt_cas (h : partFault s true a ps = none) (d : SReg) (e w : Word) :
    performAt s q (.cas d e w) a n ps =
      ((if leNat (readPlaces s ps) = e.toNat then writePlaces (countPlaces s q ps) ps (bytesOf n w.toNat) else countPlaces s q ps).putS
        q.agent d (nat64 (leNat (readPlaces s ps))), .ok ()) := by
  simp only [performAt, accReads, h, leBytes_eq_bytesOf, nat64]

end Perform

/-! What an access through the TILE window does, by its kind. -/

section Access

variable {s : State} {u : Agent} {a : Word} {len n : Nat} {o : SmOpt} (hc : Clear s u)
include hc

theorem access_store_inTile (h : InTile s u a len) {bs : List Byte} (hbs : bs.length = len) :
    access s u (.store bs) a n len o = .ok (tileStored s u a bs) :=
  access_inTile hc h <| by
    rw [performAt_store (partFault_store_tilePlace s u a a len), countPlaces_tilePlace, writePlaces_tilePlace h hbs]

theorem access_load_inTile (h : InTile s u a len) (hs : Sound s u a len) (d : SReg) (pair : Bool) :
    access s u (.load d pair) a n len o = .ok (s.modCtx u (fun c => loadRegs c d pair n (tileBytes s u a len))) :=
  access_inTile hc h <| by
    rw [performAt_load (partFault_tilePlace hs true a), countPlaces_tilePlace, readPlaces_tilePlace]; rfl

theorem access_atom_inTile (h : InTile s u a n) (hs : Sound s u a n) (aop : BitVec 4) (d : SReg) (v : Word) :
    access s u (.atom aop d v) a n n o =
      .ok ((tileStored s u a (bytesOf n (atomNew aop n (leNat (tileBytes s u a n)) v.toNat))).putS u d (nat64 (leNat (tileBytes s u a n)))) :=
  access_inTile hc h <| by
    rw [performAt_atom (partFault_tilePlace hs true a), countPlaces_tilePlace, readPlaces_tilePlace,
      writePlaces_tilePlace h (bytesOf_length _ _)]; rfl

theorem access_cas_inTile (h : InTile s u a n) (hs : Sound s u a n) (d : SReg) (e w : Word) :
    access s u (.cas d e w) a n n o =
      .ok ((if leNat (tileBytes s u a n) = e.toNat then tileStored s u a (bytesOf n w.toNat) else s).putS u d
        (nat64 (leNat (tileBytes s u a n)))) :=
  access_inTile hc h <| by
    rw [performAt_cas (partFault_tilePlace hs true a), countPlaces_tilePlace, readPlaces_tilePlace,
      writePlaces_tilePlace h (bytesOf_length _ _)]; rfl

end Access

/-! ### The instructions through the TILE window -/

/-- A load or store that is not ordered, or aligned, makes its access (R50). -/
theorem ldst_aligned {o : SmOpt} {s : State} {u : Agent} {a b : SReg} {off : BitVec 29} {pair : Bool} {k : Ctx → Nat → AccKind} {x : Word}
    (hx : effAddr (s.ctx u) o.size a b off = x)
    (h : o.order = 0 ∨ x.toNat % min (if pair then 2 * sizeOf o.size else sizeOf o.size) 8 = 0) :
    ldst o a b off pair k s u =
      access s u (k (s.ctx u) (sizeOf o.size)) x (sizeOf o.size) (if pair then 2 * sizeOf o.size else sizeOf o.size) o := by
  have hno : ¬ (o.order ≠ 0 ∧ ¬ aligned x (min (if pair then 2 * sizeOf o.size else sizeOf o.size) 8) = true) := by
    intro ⟨hord, hal⟩
    exact hal (beq_iff_eq.mpr (h.resolve_left hord))
  simp only [ldst, hx, if_neg hno]

/-- An ATOM or CAS at a multiple of its size makes its access (R85, R87). -/
theorem atomicAt_aligned {o : SmOpt} {x : Word} {k : AccKind} {s : State} {u : Agent} (h : x.toNat % sizeOf o.size = 0) :
    atomicAt o x k s u = access s u k x (sizeOf o.size) (sizeOf o.size) o := by
  simp [atomicAt, aligned, h]

section Exec

variable {s : State} {u : Agent} {g : Guard} {o : SmOpt} {d a b : SReg} {off : BitVec 29} {x : Word} (hi : Issues s u g) (hc : Clear s u)
include hi hc

theorem exec_ld_inTile (hx : effAddr (s.ctx u) o.size a b off = x) (hw : InTile s u x (sizeOf o.size))
    (hal : o.order = 0 ∨ x.toNat % sizeOf o.size = 0) (hs : Sound s u x (sizeOf o.size)) :
    exec (.ld g o d a b off) s = .next (wrote s u d (nat64 (leNat (tileBytes s u x (sizeOf o.size))))) := by
  refine runStrand_ok hi.1 hi.2 ?_
  rw [ldst_aligned (x := x) (by simpa using hx) (by simpa [sizeOf_le] using hal)]
  refine (access_load_inTile (by simpa using hc) (by simpa using hw) (by simpa using hs) d false).trans ?_
  simp [loadRegs, List.take_of_length_le, State.putS, nat64]

theorem exec_st_inTile (hx : effAddr (s.ctx u) o.size a b off = x) (hw : InTile s u x (sizeOf o.size))
    (hal : o.order = 0 ∨ x.toNat % sizeOf o.size = 0) :
    exec (.st g o d a b off) s = .next ((tileStored (noteIssue s u) u x (bytesOf (sizeOf o.size) (s.getS u d).toNat)).retire u) := by
  refine runStrand_ok hi.1 hi.2 ?_
  rw [ldst_aligned (x := x) (by simpa using hx) (by simpa [sizeOf_le] using hal), noteIssue_ctx, leBytes_eq_bytesOf]
  exact access_store_inTile (by simpa using hc) (by simpa using hw) (bytesOf_length _ _)

theorem exec_ld2_inTile (hx : effAddr (s.ctx u) o.size a b off = x) (hw : InTile s u x (2 * sizeOf o.size))
    (hal : o.order = 0 ∨ x.toNat % min (2 * sizeOf o.size) 8 = 0) (hs : Sound s u x (2 * sizeOf o.size)) :
    exec (.ld2 g o d a b off) s = .next ((((noteIssue s u).putS u d
      (nat64 (leNat ((tileBytes s u x (2 * sizeOf o.size)).take (sizeOf o.size))))).putS u (d + 1)
      (nat64 (leNat ((tileBytes s u x (2 * sizeOf o.size)).drop (sizeOf o.size))))).retire u) := by
  refine runStrand_ok hi.1 hi.2 ?_
  rw [ldst_aligned (x := x) (by simpa using hx) (by simpa using hal)]
  refine (access_load_inTile (by simpa using hc) (by simpa using hw) (by simpa using hs) d true).trans ?_
  simp [loadRegs, State.putS, pairReg, nat64]

theorem exec_st2_inTile (hx : effAddr (s.ctx u) o.size a b off = x) (hw : InTile s u x (2 * sizeOf o.size))
    (hal : o.order = 0 ∨ x.toNat % min (2 * sizeOf o.size) 8 = 0) :
    exec (.st2 g o d a b off) s = .next ((tileStored (noteIssue s u) u x
      (bytesOf (sizeOf o.size) (s.getS u d).toNat ++ bytesOf (sizeOf o.size) (s.getS u (d + 1)).toNat)).retire u) := by
  refine runStrand_ok hi.1 hi.2 ?_
  rw [ldst_aligned (x := x) (by simpa using hx) (by simpa using hal), noteIssue_ctx, leBytes_eq_bytesOf, leBytes_eq_bytesOf]
  exact access_store_inTile (by simpa using hc) (by simpa using hw) (by simp [Nat.two_mul])

theorem exec_atom_inTile {aop : BitVec 4} {off : BitVec 25} (hx : baseOff25 (s.ctx u) a off = x) (hw : InTile s u x (sizeOf o.size))
    (hs : Sound s u x (sizeOf o.size)) (hal : x.toNat % sizeOf o.size = 0) :
    exec (.atom g o aop d a b off) s = .next (((tileStored (noteIssue s u) u x (bytesOf (sizeOf o.size)
      (atomNew aop (sizeOf o.size) (leNat (tileBytes s u x (sizeOf o.size))) ((s.getS u b).toNat % 2 ^ (8 * sizeOf o.size))))).putS u d
        (nat64 (leNat (tileBytes s u x (sizeOf o.size))))).retire u) := by
  refine runStrand_ok hi.1 hi.2 ?_
  simp only [noteIssue_ctx, hx]
  rw [atomicAt_aligned hal]
  refine (access_atom_inTile (by simpa using hc) (by simpa using hw) (by simpa using hs) aop d _).trans ?_
  rw [tileBytes_noteIssue, toNat_ofNat_mod (sizeOf_le _), State.getS]

theorem exec_cas_inTile (hx : baseOff (s.ctx u) a off = x) (hw : InTile s u x (sizeOf o.size))
    (hs : Sound s u x (sizeOf o.size)) (hal : x.toNat % sizeOf o.size = 0) :
    exec (.cas g o d a b off) s = .next (((if leNat (tileBytes s u x (sizeOf o.size)) = (s.getS u b).toNat % 2 ^ (8 * sizeOf o.size) then
      tileStored (noteIssue s u) u x (bytesOf (sizeOf o.size) (s.getS u d).toNat) else noteIssue s u).putS u d
        (nat64 (leNat (tileBytes s u x (sizeOf o.size))))).retire u) := by
  refine runStrand_ok hi.1 hi.2 ?_
  simp only [noteIssue_ctx, hx]
  rw [atomicAt_aligned hal]
  refine (access_cas_inTile (by simpa using hc) (by simpa using hw) (by simpa using hs) d _ _).trans ?_
  rw [tileBytes_noteIssue, toNat_ofNat_mod (sizeOf_le _), toNat_ofNat_mod (sizeOf_le _), bytesOf_mod, State.getS, State.getS]

end Exec

/-- Every access through the TILE window completes: the instructions above, with their addresses and values as the statement writes them. -/
theorem tileWindowAccesses : TileWindowAccesses := by
  intro s u g o aop d a b off off5 hi hc n addr a5 a9 low val t0
  have haddr : effAddr (s.ctx u) o.size a b off = addr := effAddr_eq ..
  have ha5 : baseOff25 (s.ctx u) a off5 = a5 := baseOff25_eq ..
  have ha9 : baseOff (s.ctx u) a off = a9 := baseOff_eq ..
  have hval (x : Word) : val x = leNat (tileBytes s u x (sizeOf o.size)) := numOf_eq_leNat _
  have hlow (r : SReg) : bytesOf n (low r n) = bytesOf (sizeOf o.size) (s.getS u r).toNat := bytesOf_mod _ _
  simp only [hval, hlow, numOf_eq_leNat]
  exact ⟨
    fun hw hal => ⟨exec_ld_inTile hi hc haddr hw hal, exec_st_inTile hi hc haddr hw hal⟩,
    fun hw hal => ⟨exec_ld2_inTile hi hc haddr hw hal, exec_st2_inTile hi hc haddr hw hal⟩,
    exec_atom_inTile hi hc ha5, exec_cas_inTile hi hc ha9⟩

/-! ### A word stored and loaded back -/

/-- What a byte reads as after bytes are put in memory. -/
theorem mget_mwrite_bytesOf (m : Memory) (loc n v x : Nat) : mget (mwrite m loc (bytesOf n v)) x =
    if loc ≤ x ∧ x < loc + n then BitVec.ofNat 8 (v / 256 ^ (x - loc)) else mget m x := by
  split
  · next h =>
    obtain ⟨i, rfl⟩ := Nat.exists_eq_add_of_le h.1
    rw [mget_mwrite_in _ _ _ (by rw [bytesOf_length]; omega)]
    simp [bytesOf]
  · next h => exact mget_mwrite_other _ _ (by rw [bytesOf_length]; omega)

/-- Through the TILE window a state shows the bytes that were put there last. -/
theorem tileBytes_of_mwrite {s : State} {m : Memory} {u : Agent} {a : Word} {bs : List Byte} {n : Nat} (h : s.mem = mwrite m (tileLoc u a) bs)
    (hbs : bs.length = n) : tileBytes s u a n = bs := by
  rw [tileBytes, ← mread_eq_map, h, ← hbs, mread_mwrite]

theorem sound_of_poisonedAt {s : State} {u : Agent} {a : Word} {n : Nat} (h : poisonedAt s (tileLoc u a) n = false) : Sound s u a n := by
  simpa [poisonedAt, Sound] using h

/-- With no index and no offset the address is s[A]. -/
theorem effAddr_base (c : Ctx) (z : BitVec 2) (a : SReg) : effAddr c z a 0 0 = c.getS a := by
  rw [effAddr, Ctx.getS_zero]
  simp

/-- A store through the TILE window puts its word in the tile's buffer, and any later state with that memory loads it back. -/
theorem tileWindowStoreLoad : TileWindowStoreLoad := by
  intro s d t k g r a hint u addr o loc hi hd ht hen hbase hal _ hc
  have hin {s' : State} (h : (s'.ctx u).apTile = (s.ctx u).apTile) : InTile s' u addr 8 :=
    ⟨rfl, hd, ht, by decide, h ▸ hen, h ▸ hbase, by omega⟩
  refine ⟨_, exec_st_inTile hi hc (effAddr_base _ _ a) (hin rfl) (.inl rfl), mget_mwrite_bytesOf s.mem loc 8 _, ?_⟩
  intro s' d' hmem hpoison hi' hc' hap hbaseReg
  have hbytes : tileBytes s' u addr 8 = bytesOf 8 (s.getS u r).toNat := tileBytes_of_mwrite hmem (bytesOf_length _ _)
  have hload := exec_ld_inTile (o := ⟨3, 0, hint, 0⟩) (d := d') hi' hc' ((effAddr_base _ _ a).trans hbaseReg) (hin hap) (.inl rfl)
    (sound_of_poisonedAt hpoison)
  rw [hload, show sizeOf 3 = 8 from rfl, hbytes, nat64_leNat_bytesOf]

/-- Settles O41: the laws of the byte memory, and the accesses through the TILE window, which always route to the issuer's own tile's buffer. -/
theorem tileWindowMemory : Obligations.TileWindowMemory := ⟨memoryLaws, tileWindowStoreLoad, tileWindowAccesses⟩

end Sys2Proof.Machine
end

section
/-! KRD (R272): it writes one word, and what the listed control registers read. -/

namespace Sys2Proof.Machine

open Sys2Proof.Claims

/-! ### What the note of the issuing slot leaves (R249) -/

@[simp] theorem noteIssue_trk (s : State) (u : Agent) (d t n : Nat) : (noteIssue s u).trk d t n = s.trk d t n := by cases u <;> rfl
@[simp] theorem noteIssue_region (s : State) (u : Agent) : (noteIssue s u).region = s.region := funext fun _ => by simp [State.region]
@[simp] theorem noteIssue_task (s : State) (u : Agent) : (noteIssue s u).task = s.task := funext fun _ => by simp [State.task]
@[simp] theorem noteIssue_die (s : State) (u : Agent) (d : Nat) : (noteIssue s u).die d = s.die d := by simp [State.die]
@[simp] theorem noteIssue_mgbase (s : State) (u : Agent) : (noteIssue s u).mgbase = s.mgbase := by cases u <;> rfl
@[simp] theorem noteIssue_doe (s : State) (u : Agent) : (noteIssue s u).doe = s.doe := by cases u <;> rfl
@[simp] theorem noteIssue_hubMpoff (s : State) (u : Agent) : (noteIssue s u).hubMpoff = s.hubMpoff := by cases u <;> rfl
@[simp] theorem noteIssue_itbase (s : State) (u : Agent) :
    ((noteIssue s u).tile u.die u.tile).itbase = (s.tile u.die u.tile).itbase := by
  cases u with
  | strand d t k => simp [noteIssue, Agent.die, Agent.tile]
  | hub => rfl
@[simp] theorem noteIssue_itcur (s : State) (u : Agent) :
    ((noteIssue s u).tile u.die u.tile).itcur = (s.tile u.die u.tile).itcur := by
  cases u with
  | strand d t k => simp [noteIssue, Agent.die, Agent.tile]
  | hub => rfl

@[simp] theorem ownRegion_noteIssue (s : State) (u v : Agent) : ownRegion (noteIssue s u) v = ownRegion s v := by
  cases v <;> simp [ownRegion]
@[simp] theorem krdRegion_noteIssue (s : State) (u v : Agent) : krdRegion (noteIssue s u) v = krdRegion s v := by
  simp [krdRegion]
@[simp] theorem mpOff_noteIssue (s : State) (u v : Agent) (d : Nat) : mpOff (noteIssue s u) v d = mpOff s v d := by
  simp [mpOff, State.taskOf]

/-! ### The read of a control register -/

/-- The number of a word stands for that word. -/
@[simp] theorem nat64_toNat (w : Word) : nat64 w.toNat = w := by simp [nat64]
@[simp] theorem nat64_zero : nat64 0 = 0 := rfl

theorem flagAt_eq (b : Bool) (i : Nat) : flagAt b i = b.toNat * 2 ^ i := by cases b <;> simp [flagAt]

/-- TOKSTAT holds the codes of the eight tokens (R98). -/
theorem tokstat_eq_sum (c : Ctx) : tokstat c = nat64 ((List.range 8).map (fun i => tokCode (c.getTok i).st * 4 ^ i)).sum := by
  rw [tokstat, nat64, List.sum_eq_foldl]

theorem mstat_eq (y : Die) :
    mstat y = y.dblf.toNat * 2 ^ 12 + y.stop.toNat * 2 ^ 8 + y.rdy.toNat * 4 + y.err.toNat * 2 + y.busy.toNat := by
  simp [mstat, flagAt_eq]

theorem krdRegion_some {s : State} {u : Agent} {r : RegionId} {z : Region} (h : ownRegion s u = some r) (hz : s.region r = some z) :
    krdRegion s u = some z := by rw [krdRegion, h, Option.bind_some, hz]

theorem krdRegion_none {s : State} {u : Agent} (h : ownRegion s u = none) : krdRegion s u = none := by rw [krdRegion, h, Option.bind_none]

/-! The map of the registers has three parts, by index. -/

section Read

variable {s : State} {u : Agent} {i : Nat}

theorem kregRead_strand (h : i < 0x100) : kregRead s u i = nat64 (krdStrand s u i) := by rw [kregRead, if_pos h, nat64]

theorem kregRead_die (h : 0x100 ≤ i) (h' : i < 0x300) : kregRead s u i = nat64 (krdDie s u i) := by
  rw [kregRead, if_neg (by omega), if_pos h', nat64]

theorem kregRead_system (h : 0x300 ≤ i) : kregRead s u i = nat64 (krdSystem s u i) := by
  rw [kregRead, if_neg (by omega), if_neg (by omega), nat64]

end Read

/-! What the listed registers read when their unit issues the KRD: the note of the issuing slot does not show in them. -/

section Registers

variable (s : State) (u : Agent)

/-- The windows (R77). -/
theorem kregRead_windows : kregRead (noteIssue s u) u 0x010 = (s.ctx u).apTile ∧ kregRead (noteIssue s u) u 0x011 = (s.ctx u).apClus ∧
    kregRead (noteIssue s u) u 0x012 = (s.ctx u).apDie := by
  refine ⟨?_, ?_, ?_⟩ <;> simp [kregRead_strand, krdStrand]

/-- TOKSTAT and HASHST (R98). -/
theorem kregRead_tokens : kregRead (noteIssue s u) u 0x020 = tokstat (s.ctx u) ∧ kregRead (noteIssue s u) u 0x030 = (s.ctx u).hashst := by
  constructor <;> simp [kregRead_strand, krdStrand]

/-- The itinerary (R261). -/
theorem kregRead_itinerary : kregRead (noteIssue s u) u 0x040 = (s.tile u.die u.tile).itbase ∧
    kregRead (noteIssue s u) u 0x041 = nat64 (s.tile u.die u.tile).itcur.toNat := by
  constructor <;> simp [kregRead_strand, krdStrand]

variable {s u} in
/-- The sticky flags, the edge counters and the seed of the unit's region (R63). -/
theorem kregRead_region {r : RegionId} {z : Region} (h : ownRegion s u = some r) (hz : s.region r = some z) :
    kregRead (noteIssue s u) u 0x0A0 = nat64 z.numflg.toNat ∧
    kregRead (noteIssue s u) u 0x0A1 = nat64 (z.zwords.toNat * 2 ^ 32 + z.rovf.toNat) ∧
    kregRead (noteIssue s u) u 0x0A2 = nat64 z.seed.toNat := by
  refine ⟨?_, ?_, ?_⟩ <;> simp [kregRead_strand, krdStrand, krdRegion_some h hz]

variable {s u} in
/-- The same registers of a unit that controls no region. -/
theorem kregRead_no_region (h : ownRegion s u = none) : kregRead (noteIssue s u) u 0x0A0 = 0 ∧
    kregRead (noteIssue s u) u 0x0A1 = 0 ∧ kregRead (noteIssue s u) u 0x0A2 = 0 := by
  refine ⟨?_, ?_, ?_⟩ <;> simp [kregRead_strand, krdStrand, krdRegion_none h]

/-- The mileposts and the route table (R310, R311, R320). -/
theorem kregRead_links : kregRead (noteIssue s u) u 0x208 = (s.die u.die).raw ∧ kregRead (noteIssue s u) u 0x20A = mpOff s u u.die ∧
    kregRead (noteIssue s u) u 0x250 = (s.die u.die).swrt := by
  refine ⟨?_, ?_, ?_⟩ <;> simp [kregRead_die, krdDie]

/-- The handler registers (R271). -/
theorem kregRead_handler : kregRead (noteIssue s u) u 0x300 = (s.ctx u).htvec ∧ kregRead (noteIssue s u) u 0x301 = (s.ctx u).hepc ∧
    kregRead (noteIssue s u) u 0x302 = (s.ctx u).hcause ∧ kregRead (noteIssue s u) u 0x303 = (s.ctx u).hfaddr ∧
    kregRead (noteIssue s u) u 0x304 = if (s.ctx u).hstat then 1 else 0 := by
  refine ⟨?_, ?_, ?_, ?_, ?_⟩
  case refine_5 => cases h : (s.ctx u).hstat <;> simp [kregRead_system, krdSystem, flagAt, h, nat64]
  all_goals simp [kregRead_system, krdSystem]

/-- XINV_VA of a core (log entry 120), and the commands, which are write-only. -/
theorem kregRead_commands : kregRead (noteIssue s u) u 0x310 = (s.ctx u).xinvVa ∧ kregRead (noteIssue s u) u 0x311 = 0 ∧
    kregRead (noteIssue s u) u 0x501 = 0 ∧ kregRead (noteIssue s u) u 0x601 = 0 := by
  refine ⟨?_, ?_, ?_, ?_⟩ <;> simp [kregRead_system, krdSystem]

/-- The registers of the unit's die: LANEHUB, DMVER, HDOOR and MSTAT (R353). -/
theorem kregRead_hub : kregRead (noteIssue s u) u 0x500 = nat64 (s.die u.die).lanehub.toNat ∧
    kregRead (noteIssue s u) u 0x530 = (s.die u.die).dmver ∧ kregRead (noteIssue s u) u 0x603 = nat64 (s.die u.die).hdoor.toNat ∧
    kregRead (noteIssue s u) u 0x602 = nat64 (mstat (s.die u.die)) := by
  refine ⟨?_, ?_, ?_, ?_⟩ <;> simp [kregRead_system, krdSystem]

/-- The registers that the package has once: MGBASE and DOEBUF. -/
theorem kregRead_package : kregRead (noteIssue s u) u 0x600 = s.mgbase ∧ kregRead (noteIssue s u) u 0x610 = s.doe.base := by
  constructor <;> simp [kregRead_system, krdSystem]

end Registers

/-- KRD writes the word that its index reads (R272). -/
theorem exec_krd {s : State} {u : Agent} {g : Guard} (hi : Issues s u g) (d : SReg) (idx : BitVec 12) :
    exec (.krd g d idx) s = .next (wrote s u d (kregRead (noteIssue s u) u idx.toNat)) :=
  runStrand_ok hi.1 hi.2 rfl

/-- Settles O25: KRD writes the word that its index reads, and each listed index reads what its rule says. -/
theorem controlRegisterReads : Obligations.ControlRegisterReads := by
  intro s u g d hi c x y reads
  have reads_of {idx : BitVec 12} {v : Word} (h : kregRead (noteIssue s u) u idx.toNat = v) : reads idx v := h ▸ exec_krd hi d idx
  obtain ⟨hTile, hClus, hDie⟩ := kregRead_windows s u
  obtain ⟨hTok, hHash⟩ := kregRead_tokens s u
  obtain ⟨hBase, hCur⟩ := kregRead_itinerary s u
  obtain ⟨hRaw, hOff, hRoute⟩ := kregRead_links s u
  obtain ⟨hVec, hEpc, hCause, hAddr, hStat⟩ := kregRead_handler s u
  obtain ⟨hVa, hXinv, hPctl, hMcmd⟩ := kregRead_commands s u
  obtain ⟨hLane, hDmver, hDoor, hMstat⟩ := kregRead_hub s u
  obtain ⟨hMgbase, hDoe⟩ := kregRead_package s u
  exact ⟨fun idx => ⟨_, exec_krd hi d idx⟩, reads_of hTile, reads_of hClus, reads_of hDie, reads_of hHash,
    reads_of (hTok.trans (tokstat_eq_sum c)), reads_of hBase, reads_of hCur,
    fun r z hr hz =>
      have ⟨hFlg, hEdge, hSeed⟩ := kregRead_region hr hz
      ⟨reads_of hFlg, reads_of hEdge, reads_of hSeed⟩,
    fun hr =>
      have ⟨hFlg, hEdge, hSeed⟩ := kregRead_no_region hr
      ⟨reads_of hFlg, reads_of hEdge, reads_of hSeed⟩,
    reads_of hRaw, reads_of hOff, reads_of hRoute, reads_of hVec, reads_of hEpc, reads_of hCause, reads_of hAddr, reads_of hStat,
    reads_of hVa, reads_of hXinv, reads_of hPctl, reads_of hMcmd, reads_of hLane, reads_of hDmver, reads_of hMgbase, reads_of hDoor,
    reads_of (hMstat.trans (congrArg nat64 (mstat_eq y))), reads_of hDoe⟩

end Sys2Proof.Machine
end

section
/-! KWR of the registers of a strand and its tile (R63, R68-R70, R77, R103, R261, R272), and the rows that name one effect of such a KWR. -/

namespace Sys2Proof.Machine

open Sys2Proof.Claims

/-! ### Updates that a retirement follows -/

theorem modCtx_congr {s : State} {u : Agent} {f h : Ctx → Ctx} (e : f (s.ctx u) = h (s.ctx u)) : s.modCtx u f = s.modCtx u h := by
  rw [State.modCtx_eq, State.modCtx_eq, e]

theorem endProbes_modCtx (s : State) (u : Agent) (f : Ctx → Ctx) : endProbes (s.modCtx u f) u = (endProbes s u).modCtx u f := rfl

/-- An update that leaves the unit's context as it was does not show once its word has retired. -/
theorem retire_modCtx_of_eq {s : State} {u : Agent} {f : Ctx → Ctx} (h : f (s.ctx u) = s.ctx u) : (s.modCtx u f).retire u = s.retire u := by
  rw [State.retire, State.retire, endProbes_modCtx, State.modCtx_modCtx]
  exact modCtx_congr (congrArg Ctx.retire h)

/-- A change of a region that is listed replaces it. -/
theorem modRegion_eq_setRegion {s : State} {r : RegionId} {z : Region} (h : s.region r = some z) (f : Region → Region) :
    s.modRegion r f = s.setRegion r (f z) := by
  have htab : tfind s.regions (regKey r) = some z := h
  rw [State.modRegion, tmap, htab, State.setRegion]

theorem writeRegion_some {s : State} {u : Agent} {r : RegionId} {z : Region} (h : ownRegion s u = some r) (hz : s.region r = some z)
    (f : Region → Region) : writeRegion s u f = s.setRegion r (f z) := by
  simp only [writeRegion, h, modRegion_eq_setRegion hz]

/-! ### Trackers (R68-R70) -/

theorem bitsOf_eq (n hi lo : Nat) : bitsOf n hi lo = n / 2 ^ lo % 2 ^ (hi + 1 - lo) := by rw [bitsOf, Nat.shiftRight_eq_div_pow]

section Tracker

variable (t : Tracker) (v : Word)

/-- What a TRKCFG sets in a tracker, before the window is cut to W and STALE is set. -/
def Tracker.configured : Tracker :=
  { t with
    satth := BitVec.ofNat 16 (bitsOf v.toNat 63 48), unfth := BitVec.ofNat 16 (bitsOf v.toNat 47 32), w := BitVec.ofNat 4 (bitsOf v.toNat 31 28)
    tgt := BitVec.ofNat 4 (bitsOf v.toNat 27 24), margin := BitVec.ofNat 3 (bitsOf v.toNat 23 21), auto := v.getLsbD 20 }

/-- A TRKCFG with TGT 0 or 15 is ignored. -/
theorem writeCfg_ignored {v : Word} (h : v.toNat / 2 ^ 24 % 16 = 0 ∨ v.toNat / 2 ^ 24 % 16 = 15) : t.writeCfg v = t := by
  rw [Tracker.writeCfg, bitsOf_eq]
  exact if_pos h

theorem writeCfg_taken {v : Word} (h : v.toNat / 2 ^ 24 % 16 ≠ 0) (h' : v.toNat / 2 ^ 24 % 16 ≠ 15) :
    t.writeCfg v = t.mark (t.configured v).trimWindow := by
  have htgt : ¬ (bitsOf v.toNat 27 24 = 0 ∨ bitsOf v.toNat 27 24 = 15) := by rw [bitsOf_eq]; exact not_or.mpr ⟨h, h'⟩
  exact if_neg htgt

/-- The fields of TRKCFG (R68). -/
theorem configured_fields : (t.configured v).satth.toNat = v.toNat / 2 ^ 48 ∧ (t.configured v).unfth.toNat = v.toNat / 2 ^ 32 % 2 ^ 16 ∧
    (t.configured v).w.toNat = v.toNat / 2 ^ 28 % 16 ∧ (t.configured v).tgt.toNat = v.toNat / 2 ^ 24 % 16 ∧
    (t.configured v).margin.toNat = v.toNat / 2 ^ 21 % 8 := by
  have hv := v.isLt
  simp only [Tracker.configured, bitsOf_eq, BitVec.toNat_ofNat]
  omega

/-- STALE is set when a count comes to exceed its threshold (R70). -/
theorem mark_stale_iff (old t : Tracker) : (old.mark t).stale = true ↔ t.stale = true ∨
    (old.satcnt ≤ old.satth.toNat ∧ t.satth.toNat < t.satcnt) ∨ (old.unfcnt ≤ old.unfth.toNat ∧ t.unfth.toNat < t.unfcnt) := by
  simp [Tracker.mark, Tracker.over, or_assoc]

/-- STEP alone closes the step. -/
theorem writeStat_step {v : Word} (h : v.getLsbD 62 = true) (h' : v.getLsbD 61 = false) : t.writeStat v = t.close := by
  rw [BitVec.getLsbD] at h h'
  simp [Tracker.writeStat, h, h']

/-- CLR alone resynchronises. -/
theorem writeStat_clr {v : Word} (h : v.getLsbD 61 = true) (h' : v.getLsbD 62 = false) : t.writeStat v = t.clear := by
  rw [BitVec.getLsbD] at h h'
  simp [Tracker.writeStat, h, h']

/-- A step that closes puts its peak last in the window, which starts afresh if the tracker is STALE (R69). -/
theorem close_window : t.close.window = ((if t.stale then [] else t.window) ++ [t.cur]).drop
    (((if t.stale then [] else t.window) ++ [t.cur]).length - (t.w.toNat + 1)) := rfl

theorem close_window_getLast? : t.close.window.getLast? = some t.cur := by
  rw [close_window, List.getLast?_drop, if_neg (by rw [List.length_append, List.length_singleton]; omega), List.getLast?_concat]

theorem close_window_length : t.close.window.length ≤ t.w.toNat + 1 := by
  rw [close_window, List.length_drop]
  omega

theorem close_window_stale {t : Tracker} (h : t.stale = true) : t.close.window = [t.cur] := by simp [close_window, h]

end Tracker

/-! ### The effect of a KWR, by register -/

/-- STOP stops a slot in RUN or WAITTOK (R103). -/
theorem schStop_stopped {x : SchSlot} {v : Word} (h : x.st = .run ∨ x.st = .waittok) (hv : v.getLsbD 34 = true) :
    schStop x v = { x with st := .stopped } := by
  rcases h with h | h <;> simp [schStop, h, hv]

section Strand

variable (v : Word) (s : State) (u : Agent)

theorem kwrStrand_trkcfg {n : Nat} (h : n < 16) :
    kwrStrand (0x0C0 + n) v s u = s.setTrk u.die u.tile n ((s.trk u.die u.tile n).writeCfg v) := by
  simp (disch := omega) only [kwrStrand, if_neg, if_pos, Nat.add_sub_cancel_left]

theorem kwrStrand_trkstat {n : Nat} (h : n < 16) :
    kwrStrand (0x0D0 + n) v s u = s.setTrk u.die u.tile n ((s.trk u.die u.tile n).writeStat v) := by
  simp (disch := omega) only [kwrStrand, if_neg, if_pos, Nat.add_sub_cancel_left]

theorem kwrStrand_schstat {k : Nat} (h : k < 8) :
    kwrStrand (0x028 + k) v s u = s.modCtx u (fun c => c.putSch k (schStop (c.getSch k) v)) := by
  rw [kwrStrand, if_neg (by omega), if_pos (by omega), Nat.add_sub_cancel_left]

variable {v s} in
theorem kwrStrand_schstat_stop {k : Nat} (h : k < 8) (hv : v.getLsbD 34 = true)
    (hst : ((s.ctx u).getSch k).st = .run ∨ ((s.ctx u).getSch k).st = .waittok) :
    kwrStrand (0x028 + k) v s u = s.modCtx u (fun c => c.putSch k { c.getSch k with st := .stopped }) :=
  (kwrStrand_schstat v s u h).trans (modCtx_congr (by rw [schStop_stopped hst hv]))

end Strand

/-! ### KWR and its rows -/

section Exec

variable {s : State} {u : Agent} {g : Guard} {a : SReg} {idx : BitVec 12} (hi : Issues s u g)
include hi

/-- KWR of an index below 0x100 completes at once. -/
theorem exec_kwr_strand (h : idx.toNat < 0x100) :
    exec (.kwr g idx a) s = .next ((kwrStrand idx.toNat (s.getS u a) (noteIssue s u) u).retire u) :=
  runStrand_ok hi.1 hi.2 (by rw [noteIssue_getS, kwrOn, if_pos h])

/-- A row that names one effect of a KWR is that KWR, if its value selects the effect and a strand may write the register. -/
theorem kwrRow_eq_kwr {n : Nat} {sel : Word → Bool} (hu : u.isHub = false) (hn : idx.toNat = n)
    (hp : kregPriv n = some .any ∨ kregPriv n = some .tile) (hsel : sel (s.getS u a) = true) :
    kwrRow g n a sel s = exec (.kwr g idx a) s := by
  have hrow : kwrRow g n a sel s = .next (issueAs g s u (kwrOn n (s.getS u a))) := by
    rcases hp with hp | hp <;> simp [kwrRow, hi.1, hsel, hp, hu]
  have hkwr : exec (.kwr g idx a) s = .next (issueAs g s u (fun s u => kwrOn idx.toNat (s.getS u a) s u)) := by
    change runStrand g s _ = _
    rw [runStrand, hi.1]
  rw [hrow, hkwr, hn, issueAs, issueAs, noteIssue_getS]

/-- The same outcome for a KWR of a register of the strand or its tile and for its row. -/
theorem exec_kwr_or_row {n : Nat} {sel : Word → Bool} {i row : Instr} (hu : u.isHub = false) (hn : idx.toNat = n) (hlow : n < 0x100)
    (hp : kregPriv n = some .any ∨ kregPriv n = some .tile) (hrow : exec row s = kwrRow g n a sel s) (hsel : sel (s.getS u a) = true)
    (h : i = .kwr g idx a ∨ i = row) :
    exec i s = .next ((kwrStrand n (s.getS u a) (noteIssue s u) u).retire u) := by
  have hkwr : exec (.kwr g idx a) s = .next ((kwrStrand n (s.getS u a) (noteIssue s u) u).retire u) :=
    hn ▸ exec_kwr_strand hi (hn ▸ hlow)
  rcases h with rfl | rfl
  · exact hkwr
  · rw [hrow, kwrRow_eq_kwr hi hu hn hp hsel, hkwr]

end Exec

/-- A write of a window's base keeps EN; one that is not canonical changes nothing (R77). -/
theorem retire_windowBaseWrite {s : State} {u : Agent} {v : Word} {bits : Nat} {get : Ctx → Word} {put : Ctx → Word → Ctx}
    {o : Host.Outcome State Fault Refusal} (hput : ∀ c, put c (get c) = c)
    (ho : o = .next ((s.modCtx u (fun c => put c (windowBaseWrite (get c) v bits))).retire u)) :
    (canonical (nat64 (v.toNat / 2 ^ bits * 2 ^ bits)) = true →
      o = .next ((s.modCtx u (fun c => put c (nat64 (v.toNat / 2 ^ bits * 2 ^ bits) ||| (get c &&& 1)))).retire u)) ∧
    (canonical (nat64 (v.toNat / 2 ^ bits * 2 ^ bits)) = false → o = .next (s.retire u)) := by
  have hwin (old : Word) : windowBaseWrite old v bits =
      if canonical (nat64 (v.toNat / 2 ^ bits * 2 ^ bits)) = true then nat64 (v.toNat / 2 ^ bits * 2 ^ bits) ||| (old &&& 1) else old := rfl
  constructor
  · intro h
    simp only [ho, hwin, h, if_true]
  · intro h
    rw [ho, retire_modCtx_of_eq]
    rw [hwin, h, if_neg Bool.false_ne_true, hput]

/-! The indices of registers that come in rows, and who may write them (R273). -/

theorem toNat_add_zeroExtend {w : Nat} (b : BitVec 12) (n : BitVec w) (h : b.toNat + n.toNat < 4096) :
    (b + n.zeroExtend 12).toNat = b.toNat + n.toNat := by
  simp only [BitVec.toNat_add, BitVec.zeroExtend_eq_setWidth, BitVec.toNat_setWidth]
  omega

theorem toNat_trkcfg (n : BitVec 4) : ((0x0C0 : BitVec 12) + n.zeroExtend 12).toNat = 0x0C0 + n.toNat :=
  toNat_add_zeroExtend 0x0C0 n (show 0x0C0 + n.toNat < 4096 by omega)
theorem toNat_trkstat (n : BitVec 4) : ((0x0D0 : BitVec 12) + n.zeroExtend 12).toNat = 0x0D0 + n.toNat :=
  toNat_add_zeroExtend 0x0D0 n (show 0x0D0 + n.toNat < 4096 by omega)
theorem toNat_schstat (k : BitVec 3) : ((0x028 : BitVec 12) + k.zeroExtend 12).toNat = 0x028 + k.toNat :=
  toNat_add_zeroExtend 0x028 k (show 0x028 + k.toNat < 4096 by omega)

theorem kregPriv_trkcfg (n : BitVec 4) : kregPriv (0x0C0 + n.toNat) = some .tile := by revert n; decide
theorem kregPriv_trkstat (n : BitVec 4) : kregPriv (0x0D0 + n.toNat) = some .tile := by revert n; decide
theorem kregPriv_schstat (k : BitVec 3) : kregPriv (0x028 + k.toNat) = some .any := by revert k; decide

section Rows

variable {s : State} {u : Agent} {g : Guard} {a : SReg} {i : Instr} (hi : Issues s u g) (hu : u.isHub = false)
include hi hu

/-- KWR of TRKCFG, and its row. -/
theorem exec_trkcfg (n : BitVec 4) (h : i = .kwr g (0x0C0 + n.zeroExtend 12) a ∨ i = .trkcfgWrite g n a) :
    exec i s = .next (((noteIssue s u).setTrk u.die u.tile n.toNat ((s.trk u.die u.tile n.toNat).writeCfg (s.getS u a))).retire u) := by
  rw [exec_kwr_or_row hi hu (toNat_trkcfg n) (by omega) (.inr (kregPriv_trkcfg n)) (sel := fun _ => true) rfl rfl h,
    kwrStrand_trkcfg _ _ _ n.isLt, noteIssue_trk]

/-- KWR of TRKSTAT, and its row for a bit that the value sets. -/
theorem exec_trkstat {row : Instr} {b : Nat} (n : BitVec 4) (hrow : exec row s = kwrRow g (0x0D0 + n.toNat) a (fun v => v.getLsbD b) s)
    (hb : (s.getS u a).getLsbD b = true) (h : i = .kwr g (0x0D0 + n.zeroExtend 12) a ∨ i = row) :
    exec i s = .next (((noteIssue s u).setTrk u.die u.tile n.toNat ((s.trk u.die u.tile n.toNat).writeStat (s.getS u a))).retire u) := by
  rw [exec_kwr_or_row hi hu (toNat_trkstat n) (by omega) (.inr (kregPriv_trkstat n)) hrow hb h,
    kwrStrand_trkstat _ _ _ n.isLt, noteIssue_trk]

/-- STOP of a schedule slot in RUN or WAITTOK, and its row (R103). -/
theorem exec_schstat_stop (k : BitVec 3) (hv : (s.getS u a).getLsbD 34 = true)
    (hst : ((s.ctx u).getSch k.toNat).st = .run ∨ ((s.ctx u).getSch k.toNat).st = .waittok)
    (h : i = .kwr g (0x028 + k.zeroExtend 12) a ∨ i = .schstatStop g k a) :
    exec i s = .next (((noteIssue s u).modCtx u (fun c => c.putSch k.toNat { c.getSch k.toNat with st := .stopped })).retire u) := by
  rw [exec_kwr_or_row hi hu (toNat_schstat k) (by omega) (.inl (kregPriv_schstat k)) (sel := fun v => v.getLsbD 34) rfl hv h,
    kwrStrand_schstat_stop u k.isLt hv (by rwa [noteIssue_ctx])]

/-- KWR of a window's base, and its row (R77). -/
theorem exec_apbase (sp : BitVec 2) (hsp : sp.toNat < 3) {idx : BitVec 12} (hidx : idx.toNat = 0x010 + sp.toNat)
    (h : i = .kwr g idx a ∨ i = .apbaseWrite g sp a) :
    exec i s = .next (((noteIssue s u).modCtx u (fun c => apbaseSet c sp.toNat (s.getS u a))).retire u) := by
  have hp : kregPriv (0x010 + sp.toNat) = some .any := by
    rw [kregPriv, if_neg (by omega), if_pos (by omega)]
  rw [exec_kwr_or_row hi hu hidx (by omega) (.inl hp) (sel := fun _ => true) rfl rfl h, kwrStrand, if_pos (by omega),
    Nat.add_sub_cancel_left]

end Rows

/-- Settles O26: a KWR of a strand is its effect on the state that notes the issuing slot, register by register, and a row is its KWR. -/
theorem strandRegisterWrites : Obligations.StrandRegisterWrites := by
  intro s u g a n k v hi hu hv s0 done base trk
  subst hv
  have kwr {idx : BitVec 12} {t : State} (hlow : idx.toNat < 0x100) (ht : kwrStrand idx.toNat (s.getS u a) s0 u = t) :
      done (.kwr g idx a) t := by rw [← ht]; exact exec_kwr_strand hi hlow
  refine ⟨fun i h => ?tileWindow, fun i h => ?clusterWindow, fun i h => ?dieWindow, fun i h => ?trkcfg, fun i h hstep hclr => ?step,
    fun i h hclr hstep => ?clr, fun i h hstop hst => exec_schstat_stop hi hu k hstop hst h, kwr (by decide) rfl, kwr (by decide) rfl,
    fun r z hr hz => ?region⟩
  case tileWindow =>
    exact retire_windowBaseWrite (put := fun c w => { c with apTile := w }) (fun _ => rfl) (exec_apbase hi hu 0 (by decide) rfl h)
  case clusterWindow =>
    exact retire_windowBaseWrite (put := fun c w => { c with apClus := w }) (fun _ => rfl) (exec_apbase hi hu 1 (by decide) rfl h)
  case dieWindow =>
    exact retire_windowBaseWrite (put := fun c w => { c with apDie := w }) (fun _ => rfl) (exec_apbase hi hu 2 (by decide) rfl h)
  case trkcfg =>
    have hkwr := exec_trkcfg hi hu n h
    refine ⟨fun hbad => ?_, fun h0 h15 => ?_⟩
    · rwa [writeCfg_ignored _ hbad] at hkwr
    · rw [writeCfg_taken _ h0 h15] at hkwr
      obtain ⟨hsat, hunf, hw, htgt, hmargin⟩ := configured_fields trk (s.getS u a)
      exact ⟨_, hkwr, hsat, hunf, hw, htgt, hmargin, rfl, rfl, mark_stale_iff .., rfl⟩
  case step =>
    have hkwr := exec_trkstat hi hu n (row := .trkstatStep g n a) rfl hstep h
    rw [writeStat_step _ hstep hclr] at hkwr
    exact ⟨trk.close, hkwr, rfl, rfl, rfl, rfl, close_window_getLast? trk, close_window_length trk, close_window_stale, rfl⟩
  case clr =>
    have hkwr := exec_trkstat hi hu n (row := .trkstatClr g n a) rfl hclr h
    rwa [writeStat_clr _ hclr hstep] at hkwr
  case region =>
    have hr0 : ownRegion s0 u = some r := by rwa [ownRegion_noteIssue]
    have hz0 : s0.region r = some z := by rwa [noteIssue_region]
    exact ⟨kwr (by decide) (writeRegion_some hr0 hz0 _), kwr (by decide) (writeRegion_some hr0 hz0 _)⟩

end Sys2Proof.Machine
end
